-- ==== Sys2Proof/Word.lean ====
section
/-! DEFINITION. The word types of the module: what the manual treats as bits, and the sparse table
by which every numbered collection of the state is held. -/

namespace Sys2Proof

/-- A point value, an accumulator, a configuration word (R15, R58). -/
abbrev Word := BitVec 32

/-- A byte; also a carried quality (R67). -/
abbrev Byte := BitVec 8

/-- A 16-bit field; also a point's quality word (R15). -/
abbrev Half := BitVec 16

/-- A 64-bit count: the take stamp MT (R65), house time (R336). -/
abbrev Dword := BitVec 64

/-- A sparse collection by number: the listed entries, keys strictly rising; an unlisted key reads
as the default its reader names (the factory value of that collection). -/
abbrev Table (α : Type) := List (Nat × α)

end Sys2Proof
end

