-- ==== Sys2Proof/Syntax.lean ====
section
/-! DEFINITION. The commands of the module: `Instr`, one constructor for each row of the opcode table,
and the types of their operands. An Ecmund row carries the lane pair that executes it and the 24-bit
operand field of R80. An event row carries the facts of the outside world that it reports. A QHP row
carries the connection, the request number and the request's payload. -/

namespace Sys2Proof

/-- The two barrier links (R165). -/
inductive LinkId where
  | a | b
  deriving DecidableEq, Repr

/-- What a receiver sees of one frame slot that had a good copy (R169): which links delivered a good
copy, the REP bit and the slot sequence number. -/
structure FrameHdr where
  goodA : Bool
  goodB : Bool
  rep : Bool
  seq : Half
  deriving DecidableEq, Repr

/-- A slot with a bad copy (R169): what its good copy carries, and whether two good copies differ. -/
structure SlotSeen where
  rep : Bool
  seq : Half
  differ : Bool
  deriving DecidableEq, Repr

/-- A raw level that an input has shown, and for how many samples of 20 microseconds without a break (R182). -/
structure LevelRun where
  lvl : Bool
  samples : Nat
  deriving DecidableEq, Repr

/-- The level of an encoder's Z, and for how many ticks of 40 ns the levels that changed have lasted (R192). -/
structure EncLevels where
  z : Bool
  held : Nat
  deriving DecidableEq, Repr

/-- A channel of a safety input as one half samples it (R196). -/
structure HalfChannel where
  halfB : Bool
  input : Nat
  chB : Bool
  deriving DecidableEq, Repr

/-- What a cycle's comparison finds beyond State (R196, R198, R234): whether the halves' states differ otherwise, the MSL slots
whose copies of a telegram differ, half B's clock over one of its cycles, and the ROM and RAM checks that fail. -/
structure HalfChecks where
  differ : Bool
  slots : BitVec 32
  clkB : Nat
  failed : BitVec 4
  deriving DecidableEq, Repr

/-- An MSL slot, and whether the halves form its telegram differently (R234). -/
structure SlotHalves where
  slot : Nat
  differ : Bool
  deriving DecidableEq, Repr

/-- A PAUSE frame as received (R266): its source address and its time. -/
structure PauseRx where
  sa : BitVec 48
  quanta : Half
  deriving DecidableEq, Repr

/-- A PTP Sync as received (R271, R350): its transport, UDP over IPv4 or IEEE 802.3, its domain, its master's standing under the best master clock algorithm, a smaller
one the better clock, and house time less PTP time in ns. -/
structure PtpMsg where
  udp : Bool
  domain : Nat
  rank : Nat
  e : Int
  deriving DecidableEq, Repr

/-- The ports over which hosts reach the module (R251, R306). -/
inductive Port where
  | ul1 | ul2 | svc
  deriving DecidableEq, Repr

/-- A frame as a MAC receives it (R251 to R268): addresses, length from DA to FCS, the verdicts of the
receiver, the tag's priority if tagged, and what the upper layers read in it. -/
structure RxFrame where
  da : BitVec 48
  sa : BitVec 48
  len : Nat
  fcsOk : Bool
  wholeOctets : Bool
  phyError : Bool
  fifoOverrun : Bool
  pcp : Option Nat
  etype : Half
  udpPort : Nat
  ptpEvent : Bool
  ptpDomain : Nat
  /-- The version and kind byte, sender and DLEN of a field-exchange frame (R273). -/
  vk : Byte
  srcNode : Nat
  dlen : Nat
  srcIp : Word
  telegram : List Byte
  deriving DecidableEq, Repr

/-- One transmit descriptor as firmware submits it (R261). -/
structure TxDesc where
  buf : Word
  fs : Bool
  ls : Bool
  tsreq : Bool
  len : Nat
  da : BitVec 48
  deriving DecidableEq, Repr

/-- How a transmission ended when it ended (R258, R261, R269): `deferred`, the medium was busy when it was first to start. -/
inductive TxEnd where
  | sent (deferred : Bool)
  | underrun
  | linkDown
  deriving DecidableEq, Repr

/-- A device's reply to an EXREQ (R273, R275). `late`: its SFD fell after RESPTO; `closed`: after the
window. -/
structure ExReply where
  srcMac : BitVec 48
  src : Nat
  dst : Nat
  seq : Half
  ackFull : Bool
  inval : Half
  data : List Word
  late : Bool
  closed : Bool
  deriving DecidableEq, Repr

/-- A CAN frame as received (R279, R292). -/
structure CanRx where
  xtd : Bool
  ident : Nat
  fdf : Bool
  remote : Bool
  data : List Byte
  deriving DecidableEq, Repr

/-- Why a CAN attempt ended without success (R285, R296): arbitration, an error with its LEC code and the rise of TEC that
ISO 11898-1 gives it, or no acknowledgement. -/
inductive CanFail where
  | arbitration
  | busError (lec rise : Nat)
  | noAck
  deriving DecidableEq, Repr

/-- What the scrubber found in a word (R416, R417). -/
inductive ScrubFind where
  | sramCorrected (row word : Nat)
  | mramCorrected
  | sectionCode (stage pc : Nat)
  | imageWord (pt : Nat)
  | netBuffer
  | mramPoint (pt : Nat) (sramLost : Bool)
  | mramLoop (n : Nat) (sramLost : Bool)
  | programStore (stage : Nat)
  | keySlot (slot : Nat)
  | configCopy (region : Nat) (bothBad : Bool)
  deriving DecidableEq, Repr

/-- What a start finds (R372, R373, R391, R419, R436): the strap; at each read of the PUF region in turn the bits that differ
from the response at the enrolment; the pairs that fail at either clock, the rows that fail, the loop engine and core pairs;
for each kind whether the signatures of banks A and B verify and whether the ROM's other checks of them pass; and the alarm
sources present. -/
structure BootFacts where
  recov : Bool
  puf : List Nat
  failNormal : BitVec 9
  failShort : BitVec 9
  rowsFailing : Nat
  loopEngineOk : Bool
  corePairAOk : Bool
  corePairBOk : Bool
  validA : BitVec 6
  validB : BitVec 6
  sigA : BitVec 6
  sigB : BitVec 6
  alarmNow : BitVec 6
  deriving DecidableEq, Repr

/-- A message that the module cannot parse, or one of a reserved OP: its connection, and the request number and OP of its
header as far as they can be read, else 0 (R312, R314). -/
structure BadMsg where
  cn : Nat
  rq : Nat
  op : Nat
  deriving DecidableEq, Repr

/-- The registers that a register write names: each configuration word or counter with a field map. -/
inductive RegId where
  | liogen0 | liogen1
  | dicfg (n : Nat) | docfg (n : Nat) | aicfg (n : Nat) | aocfg (n : Nat) | enccfg (c : Nat)
  | slatecfg | classcfg (k : Nat)
  | stgcfg (s i : Nat)
  | maccfg (m : Nat) | filt (m i : Nat) | dscfg (u : Nat) | ptpcfg
  | ipcfg (i : Nat)
  | cannbt (c : Nat) | candbt (c : Nat) | cancfg0 (c : Nat) | cancfg1 (c : Nat) | cansync (c : Nat)
  | mslgen | timecfg | almcfg (a i : Nat)
  | keypol (i : Nat) | secpol (i : Nat)
  | maccount (m i : Nat) | canlost (c buf : Nat) | cannd (c buf : Nat)
  deriving DecidableEq, Repr

/-- One entry of a transaction, by the kinds of R321. -/
inductive Entry where
  | prog (image : List Byte)
  | progLib (imageId : Word)
  | loopDesc (n : Nat) (desc : List Byte)
  | pwrite (ws : List (Nat × Word))
  | freeze (pt : Nat) (v : Word)
  | release (pt : Nat)
  | restart (b : Byte)
  | principal (num : Nat) (key : BitVec 256) (stage : Nat) (roles : Half)
  | liocfg (regs : List (RegId × Word))
  | tag (blk : Nat) (t : Half)
  | stgcfg (stage : Nat) (words : List Word) (logpub : List (Nat × Word))
  | slate (scfg : Word) (cls : List Word)
  | netcfg (regs : List (RegId × Dword)) (devs : List (Nat × Nat × List Byte)) (name : List Byte)
  | cancfg (c : Nat) (regs : List (RegId × Word)) (devs frames : List (Nat × List Byte))
  | safepar (set : List Byte)
  | mslpar (set : List Byte)
  | mslgen (w : Word)
  | keypol (w0 w1 : Word)
  | secpol (w0 w1 : Word)
  /-- An entry of a kind that the table of R321 does not list. -/
  | reserved (kind : Nat) (content : List Byte)
  deriving DecidableEq, Repr

/-- The commands of the module, one constructor for each row of the opcode table. -/
inductive Instr where
  /-- `NOP` (R110). -/
  | nop (p : Nat) (w : BitVec 24)
  /-- `BAND` (R87). -/
  | band (p : Nat) (w : BitVec 24)
  /-- `BANDN` (R87). -/
  | bandn (p : Nat) (w : BitVec 24)
  /-- `BOR` (R87). -/
  | bor (p : Nat) (w : BitVec 24)
  /-- `BORN` (R87). -/
  | born (p : Nat) (w : BitVec 24)
  /-- `BXOR` (R87). -/
  | bxor (p : Nat) (w : BitVec 24)
  /-- `BXORN` (R87). -/
  | bxorn (p : Nat) (w : BitVec 24)
  /-- `BNOT` (R87). -/
  | bnot (p : Nat) (w : BitVec 24)
  /-- `BA1` (R87). -/
  | ba1 (p : Nat) (w : BitVec 24)
  /-- `BA0` (R87). -/
  | ba0 (p : Nat) (w : BitVec 24)
  /-- `BFLG` (R87). -/
  | bflg (p : Nat) (w : BitVec 24)
  /-- `PUSHA` (R88). -/
  | pusha (p : Nat) (w : BitVec 24)
  /-- `PUSHAN` (R88). -/
  | pushan (p : Nat) (w : BitVec 24)
  /-- `PUSHO` (R88). -/
  | pusho (p : Nat) (w : BitVec 24)
  /-- `PUSHX` (R88). -/
  | pushx (p : Nat) (w : BitVec 24)
  /-- `POPC` (R88). -/
  | popc (p : Nat) (w : BitVec 24)
  /-- `STB` (R89). -/
  | stb (p : Nat) (w : BitVec 24)
  /-- `STBN` (R89). -/
  | stbn (p : Nat) (w : BitVec 24)
  /-- `SETB` (R89). -/
  | setb (p : Nat) (w : BitVec 24)
  /-- `CLRB` (R89). -/
  | clrb (p : Nat) (w : BitVec 24)
  /-- `RISE` (R90). -/
  | rise (p : Nat) (w : BitVec 24)
  /-- `FALL` (R90). -/
  | fall (p : Nat) (w : BitVec 24)
  /-- `TON` (R92). -/
  | ton (p : Nat) (w : BitVec 24)
  /-- `TOF` (R92). -/
  | tof (p : Nat) (w : BitVec 24)
  /-- `TP` (R92). -/
  | tp (p : Nat) (w : BitVec 24)
  /-- `TONR` (R92). -/
  | tonr (p : Nat) (w : BitVec 24)
  /-- `TRES` (R92). -/
  | tres (p : Nat) (w : BitVec 24)
  /-- `CTU` (R93). -/
  | ctu (p : Nat) (w : BitVec 24)
  /-- `CTD` (R93). -/
  | ctd (p : Nat) (w : BitVec 24)
  /-- `CLD` (R93). -/
  | cld (p : Nat) (w : BitVec 24)
  /-- `CRS` (R93). -/
  | crs (p : Nat) (w : BitVec 24)
  /-- `LDA` (R94). -/
  | lda (p : Nat) (w : BitVec 24)
  /-- `STA` (R94). -/
  | sta (p : Nat) (w : BitVec 24)
  /-- `XAB` (R94). -/
  | xab (p : Nat) (w : BitVec 24)
  /-- `SEL` (R94). -/
  | sel (p : Nat) (w : BitVec 24)
  /-- `ADD` (R94). -/
  | addI (p : Nat) (w : BitVec 24)
  /-- `SUB` (R94). -/
  | subI (p : Nat) (w : BitVec 24)
  /-- `MUL` (R94). -/
  | mulI (p : Nat) (w : BitVec 24)
  /-- `DIV` (R94). -/
  | divI (p : Nat) (w : BitVec 24)
  /-- `MOD` (R94). -/
  | modI (p : Nat) (w : BitVec 24)
  /-- `NEG` (R94). -/
  | negI (p : Nat) (w : BitVec 24)
  /-- `ABS` (R94). -/
  | absI (p : Nat) (w : BitVec 24)
  /-- `MIN` (R94). -/
  | minI (p : Nat) (w : BitVec 24)
  /-- `MAX` (R94). -/
  | maxI (p : Nat) (w : BitVec 24)
  /-- `LDB` (R94). -/
  | ldb (p : Nat) (w : BitVec 24)
  /-- `ANDW` (R96). -/
  | andw (p : Nat) (w : BitVec 24)
  /-- `ORW` (R96). -/
  | orw (p : Nat) (w : BitVec 24)
  /-- `XORW` (R96). -/
  | xorw (p : Nat) (w : BitVec 24)
  /-- `NOTW` (R96). -/
  | notw (p : Nat) (w : BitVec 24)
  /-- `SHL` (R96). -/
  | shl (p : Nat) (w : BitVec 24)
  /-- `SHR` (R96). -/
  | shr (p : Nat) (w : BitVec 24)
  /-- `SAR` (R96). -/
  | sar (p : Nat) (w : BitVec 24)
  /-- `ROL` (R96). -/
  | rol (p : Nat) (w : BitVec 24)
  /-- `ADDF` (R98). -/
  | addf (p : Nat) (w : BitVec 24)
  /-- `SUBF` (R98). -/
  | subf (p : Nat) (w : BitVec 24)
  /-- `MULF` (R98). -/
  | mulf (p : Nat) (w : BitVec 24)
  /-- `DIVF` (R98). -/
  | divf (p : Nat) (w : BitVec 24)
  /-- `NEGF` (R98). -/
  | negf (p : Nat) (w : BitVec 24)
  /-- `ABSF` (R98). -/
  | absf (p : Nat) (w : BitVec 24)
  /-- `MINF` (R98). -/
  | minf (p : Nat) (w : BitVec 24)
  /-- `MAXF` (R98). -/
  | maxf (p : Nat) (w : BitVec 24)
  /-- `ADDQ` (R99). -/
  | addq (p : Nat) (w : BitVec 24)
  /-- `SUBQ` (R99). -/
  | subq (p : Nat) (w : BitVec 24)
  /-- `MULQ` (R99). -/
  | mulq (p : Nat) (w : BitVec 24)
  /-- `DIVQ` (R99). -/
  | divq (p : Nat) (w : BitVec 24)
  /-- `ITF` (R100). -/
  | itf (p : Nat) (w : BitVec 24)
  /-- `FTI` (R100). -/
  | fti (p : Nat) (w : BitVec 24)
  /-- `ITQ` (R100). -/
  | itq (p : Nat) (w : BitVec 24)
  /-- `QTI` (R100). -/
  | qti (p : Nat) (w : BitVec 24)
  /-- `FTQ` (R100). -/
  | ftq (p : Nat) (w : BitVec 24)
  /-- `QTF` (R100). -/
  | qtf (p : Nat) (w : BitVec 24)
  /-- `EQI` (R101). -/
  | eqi (p : Nat) (w : BitVec 24)
  /-- `NEI` (R101). -/
  | nei (p : Nat) (w : BitVec 24)
  /-- `GTI` (R101). -/
  | gti (p : Nat) (w : BitVec 24)
  /-- `GEI` (R101). -/
  | gei (p : Nat) (w : BitVec 24)
  /-- `LTI` (R101). -/
  | lti (p : Nat) (w : BitVec 24)
  /-- `LEI` (R101). -/
  | lei (p : Nat) (w : BitVec 24)
  /-- `EQF` (R101). -/
  | eqf (p : Nat) (w : BitVec 24)
  /-- `NEF` (R101). -/
  | nef (p : Nat) (w : BitVec 24)
  /-- `GTF` (R101). -/
  | gtf (p : Nat) (w : BitVec 24)
  /-- `GEF` (R101). -/
  | gef (p : Nat) (w : BitVec 24)
  /-- `LTF` (R101). -/
  | ltf (p : Nat) (w : BitVec 24)
  /-- `LEF` (R101). -/
  | lef (p : Nat) (w : BitVec 24)
  /-- `JMP` (R102). -/
  | jmp (p : Nat) (w : BitVec 24)
  /-- `JT` (R102). -/
  | jt (p : Nat) (w : BitVec 24)
  /-- `JF` (R102). -/
  | jf (p : Nat) (w : BitVec 24)
  /-- `JZ` (R102). -/
  | jz (p : Nat) (w : BitVec 24)
  /-- `JNZ` (R102). -/
  | jnz (p : Nat) (w : BitVec 24)
  /-- `JNEG` (R102). -/
  | jneg (p : Nat) (w : BitVec 24)
  /-- `JPOS` (R102). -/
  | jpos (p : Nat) (w : BitVec 24)
  /-- `LOOP` (R104). -/
  | loopOp (p : Nat) (w : BitVec 24)
  /-- `ENDL` (R104). -/
  | endl (p : Nat) (w : BitVec 24)
  /-- `LEXIT` (R104). -/
  | lexit (p : Nat) (w : BitVec 24)
  /-- `LEXITC` (R104). -/
  | lexitc (p : Nat) (w : BitVec 24)
  /-- `CALL` (R105). -/
  | callS (p : Nat) (w : BitVec 24)
  /-- `RET` (R105). -/
  | ret (p : Nat) (w : BitVec 24)
  /-- `RETC` (R105). -/
  | retc (p : Nat) (w : BitVec 24)
  /-- `END` (R105). -/
  | endS (p : Nat) (w : BitVec 24)
  /-- `QSET` (R106). -/
  | qset (p : Nat) (w : BitVec 24)
  /-- `QCLR` (R106). -/
  | qclr (p : Nat) (w : BitVec 24)
  /-- `QGET` (R106). -/
  | qget (p : Nat) (w : BitVec 24)
  /-- `QPUT` (R106). -/
  | qput (p : Nat) (w : BitVec 24)
  /-- `LSP` (R108). -/
  | lsp (p : Nat) (w : BitVec 24)
  /-- `LMAN` (R108). -/
  | lman (p : Nat) (w : BitVec 24)
  /-- `LTRK` (R108). -/
  | ltrk (p : Nat) (w : BitVec 24)
  /-- `LMODE` (R108). -/
  | lmode (p : Nat) (w : BitVec 24)
  /-- `LRD` (R107). -/
  | lrd (p : Nat) (w : BitVec 24)
  /-- `EVT` (R109). -/
  | evt (p : Nat) (w : BitVec 24)
  /-- `LMT` (R110). -/
  | lmt (p : Nat) (w : BitVec 24)
  /-- `LMTH` (R110). -/
  | lmth (p : Nat) (w : BitVec 24)
  /-- `LFLT` (R110). -/
  | lflt (p : Nat) (w : BitVec 24)
  /-- `LIDX` (R110). -/
  | lidx (p : Nat) (w : BitVec 24)
  /-- `LSTW` (R110). -/
  | lstw (p : Nat) (w : BitVec 24)
  /-- `CSTW` (R110). -/
  | cstw (p : Nat) (w : BitVec 24)
  /-- `SECTION_BUDGET` (R78). -/
  | sectionBudget (p : Nat)
  /-- `BLOCK_CHECKPOINT` (R69). -/
  | blockCheckpoint (p : Nat) (agree : Bool)
  /-- `SECTION_DISPATCH` (R69). -/
  | sectionDispatch
  /-- `SCENE_START` (R39). -/
  | sceneStart (k : Nat) (j : Nat)
  /-- `HALF_PERIOD_START` (R170). -/
  | halfPeriodStart
  /-- `HAND_OFF_PHASE` (R40). -/
  | handOffPhase (k : Nat)
  /-- `HALF_PERIOD_DEADLINE` (R39). -/
  | halfPeriodDeadline
  /-- `OUTPUT_PHASE` (R41). -/
  | outputPhase (k : Nat)
  /-- `ALIGNED_TARGET` (R42). -/
  | alignedTarget (n : Nat)
  /-- `MAINS_CROSSING` (R27). -/
  | mainsCrossing (amp : Word)
  /-- `MISSING_PERIOD` (R27). -/
  | missingPeriod
  /-- `NOMINAL_ENTRY` (R29). -/
  | nominalEntry
  /-- `IDLE` (R168). -/
  | idleFrame (h : FrameHdr)
  /-- `OUTCMD` (R170). -/
  | outcmd (h : FrameHdr) (k : Nat)
  /-- `OUTPUT_APPLY` (R170). -/
  | outputApply (k : Nat)
  /-- `CONFIG` (R209). -/
  | configFrame (h : FrameHdr) (off : Nat)
  /-- `SAFREQ` (R212). -/
  | safreq (h : FrameHdr)
  /-- `BARRIER_MSL_TO_PAIR` (R244). -/
  | barrierMslToPair (h : FrameHdr) (slot : Nat) (sub : Nat)
  /-- `STATUS` (R174). -/
  | statusFrame (h : FrameHdr) (supply : Word) (temp : Word)
  /-- `INPUT` (R173). -/
  | inputFrame (h : FrameHdr) (sub : Nat) (meas : List Word)
  /-- `ACK` (R173). -/
  | ack (h : FrameHdr) (k : Nat)
  /-- `SAFSTAT` (R224). -/
  | safstat (h : FrameHdr) (sub : Nat)
  /-- `BARRIER_MSL_FROM_PAIR` (R244). -/
  | barrierMslFromPair (h : FrameHdr) (slot : Nat) (sub : Nat)
  /-- `EVENT` (R168). -/
  | eventFrame (h : FrameHdr)
  /-- `BURST_DEADLINE` (R173). -/
  | burstDeadline
  /-- `LINK_BAD` (R171). -/
  | linkBad (l : LinkId) (atField : Bool)
  /-- `LINK_RETRAIN` (R171). -/
  | linkRetrain (l : LinkId)
  /-- `LINK_GOOD` (R171). -/
  | linkGood (l : LinkId)
  /-- `BARRIER_LOSS` (R172). -/
  | barrierLoss (atField : Bool)
  /-- `BLHOLD_EXPIRY` (R172). -/
  | blholdExpiry
  /-- `DI_FILTER_CHANGE` (R182). -/
  | diFilterChange (n : Nat) (lvl : LevelRun)
  /-- `DI_WIRE_BREAK` (R183). -/
  | diWireBreak (n : Nat) (broken : Bool)
  /-- `DI_COMPARATOR_TEST` (R182). -/
  | diComparatorTest (n : Nat) (pass : Bool)
  /-- `DO_OVERLOAD_LATCH` (R185). -/
  | doOverloadLatch (n : Nat)
  /-- `DO_REARM` (R185). -/
  | doRearm (n : Nat)
  /-- `DO_CONDITION` (R186). -/
  | doCondition (n : Nat) (code : Nat) (present : Bool)
  /-- `DARK_TEST_PULSE` (R188). -/
  | darkTestPulse (n : Nat)
  /-- `DARK_TEST_CHECK` (R188). -/
  | darkTestCheck (n : Nat) (low : Bool)
  /-- `FIELD_OVERTEMP` (R456). -/
  | fieldOvertemp
  /-- `AI_SHUNT_OPEN` (R190). -/
  | aiShuntOpen (n : Nat)
  /-- `AI_SHUNT_RETRY` (R190). -/
  | aiShuntRetry (n : Nat) (ovr : Bool)
  /-- `AO_DEVIATION` (R191). -/
  | aoDeviation (n : Nat) (dev : Bool)
  /-- `ENCODER_EDGE` (R193). -/
  | encoderEdge (c : Nat) (a : Bool) (b : Bool) (z : EncLevels)
  /-- `LOOP_SAMPLE` (R151). -/
  | loopSample (off : Nat) (mis : List (Nat × Bool))
  /-- `LOOP_OUTPUT_WRITE` (R146). -/
  | loopOutputWrite (off : Nat)
  /-- `LOOP_ENGINE_KAT` (R414). -/
  | loopEngineKat (pass : Bool)
  /-- `SAFETY_CYCLE` (R213). -/
  | safetyCycle (edm : BitVec 4) (differ : HalfChecks)
  /-- `TEST_PULSE` (R201). -/
  | testPulse (j : Nat)
  /-- `TEST_PULSE_CHECK` (R201). -/
  | testPulseCheck (j : Nat) (low : BitVec 16) (rb : Bool)
  /-- `DISC_TIMEOUT` (R202). -/
  | discTimeout (n : Nat)
  /-- `FEEDBACK_TIMEOUT` (R204). -/
  | feedbackTimeout (m : Nat)
  /-- `SWITCH_OFF_PULSE` (R206). -/
  | switchOffPulse (q : Nat) (fell : Bool)
  /-- `SWITCH_QLOW` (R206). -/
  | switchQlow (q : Nat)
  /-- `SWITCH_QOVL` (R206). -/
  | switchQovl (q : Nat)
  /-- `SUPPLY_FAULT` (R219). -/
  | supplyFault
  /-- `SUPPLY_RECOVERED` (R219). -/
  | supplyRecovered
  /-- `TEMP_FAULT` (R219). -/
  | tempFault
  /-- `STANDIN_EXPIRY` (R220). -/
  | standinExpiry (f : Nat)
  /-- `LOCK_RELEASE` (R215). -/
  | lockRelease (f : Nat)
  /-- `TWO_HAND_TIMEOUT` (R216). -/
  | twoHandTimeout (f : Nat)
  /-- `SAFREQ_LAPSE` (R212). -/
  | safreqLapse
  /-- `LOCKOUT_OFF_TEST` (R221). -/
  | lockoutOffTest (q : Nat) (pass : Bool)
  /-- `START_DIAGNOSTICS` (R222). -/
  | startDiagnostics (found : List (Nat × Nat))
  /-- `MSL_OPEN` (R237). -/
  | mslOpen (slot : Nat) (differ : Bool)
  /-- `MSL_OPENED` (R236). -/
  | mslOpened (slot : Nat) (differ : Bool)
  /-- `MSL_CHECK` (R237). -/
  | mslCheck (slot : Nat) (differ : Bool)
  /-- `MSL_DATA` (R238). -/
  | mslData (slot : Nat) (differ : Bool)
  /-- `MSL_OPEN_RETRY` (R236). -/
  | mslOpenRetry (slot : SlotHalves)
  /-- `MSL_TIMEOUT` (R238). -/
  | mslTimeout (slot : Nat)
  /-- `MSL_PRODUCER_LISTEN` (R237). -/
  | mslProducerListen (slot : Nat)
  /-- `FRAME_RECEIVE` (R262). -/
  | frameReceive (m : Nat) (f : RxFrame)
  /-- `TX_DESCRIPTOR_SUBMIT` (R261). -/
  | txDescriptorSubmit (m : Nat) (q : Nat) (ds : List TxDesc)
  /-- `FRAME_TRANSMIT_DONE` (R261). -/
  | frameTransmitDone (m : Nat) (r : TxEnd)
  /-- `RX_DESCRIPTOR_RETURN` (R263). -/
  | rxDescriptorReturn (m : Nat) (bufs : List Word)
  /-- `ADDRESS_AGEOUT` (R253). -/
  | addressAgeout (addr : BitVec 48)
  /-- `LINK_DOWN` (R253). -/
  | linkDown (m : Nat)
  /-- `LINK_UP` (R256). -/
  | linkUp (m : Nat) (rate : Nat)
  /-- `RATE_WINDOW_1S` (R256). -/
  | rateWindow1s (u : Nat)
  /-- `RATE_WINDOW_100MS` (R256). -/
  | rateWindow100ms (u : Nat)
  /-- `QUEUE_WAIT_UPSHIFT` (R256). -/
  | queueWaitUpshift (u : Nat) (q : Nat)
  /-- `RATE_CHANGE_FAIL` (R256). -/
  | rateChangeFail (u : Nat)
  /-- `PAUSE_FRAME` (R266). -/
  | pauseFrame (m : Nat) (quanta : PauseRx)
  /-- `PAUSE_HOLD_END` (R266). -/
  | pauseHoldEnd (m : Nat)
  /-- `PAUSE_WATCHDOG` (R267). -/
  | pauseWatchdog (m : Nat)
  /-- `PAUSE_BREAK_END` (R267). -/
  | pauseBreakEnd (m : Nat)
  /-- `PTP_SYNC` (R271, R350). -/
  | ptpSync (e : PtpMsg) (leap61 : Bool) (leap59 : Bool) (tai : Option Nat)
  /-- `PTP_SYNC_TIMEOUT` (R350). -/
  | ptpSyncTimeout
  /-- `EXCHANGE_WINDOW_OPEN` (R275). -/
  | exchangeWindowOpen (g : Nat)
  /-- `EXREP` (R275). -/
  | exrep (g : Nat) (r : ExReply)
  /-- `EXCHANGE_TIMEOUT` (R275). -/
  | exchangeTimeout (g : Nat)
  /-- `ACYC` (R319). -/
  | acyc (g : Nat) (node : Nat) (seq : Half) (data : List Byte)
  /-- `CAN_FRAME_SENT` (R285). -/
  | canFrameSent (c : Nat)
  /-- `CAN_ATTEMPT_FAIL` (R285). -/
  | canAttemptFail (c : Nat) (why : CanFail)
  /-- `CAN_FRAME_RECEIVED` (R292). -/
  | canFrameReceived (c : Nat) (f : CanRx)
  /-- `ND_READ` (R294). -/
  | ndRead (c : Nat) (buf : Nat)
  /-- `LOST_CLEAR` (R294). -/
  | lostClear (c : Nat) (buf : Nat) (v : Bool)
  /-- `HEADLONG` (R290). -/
  | headlong (c : Nat)
  /-- `CAN_RECOVERY_DONE` (R297). -/
  | canRecoveryDone (c : Nat)
  /-- `CAN_BUS_INTEGRATED` (R298). -/
  | canBusIntegrated (c : Nat)
  /-- `DISCOVERY` (R307). -/
  | discovery (port : Port) (magic : Word)
  /-- `DHCP_RETRY` (R306). -/
  | dhcpRetry
  /-- `DHCP_LEASE` (R306). -/
  | dhcpLease (addr : Word)
  /-- `TCP_CONNECT` (R308). -/
  | tcpConnect (cn : Nat) (port : Port)
  /-- `TLS_HANDSHAKE_DONE` (R309). -/
  | tlsHandshakeDone (cn : Nat) (key : BitVec 256)
  /-- `LOGIN_TIMEOUT` (R310). -/
  | loginTimeout (cn : Nat)
  /-- `SESSION_IDLE_TIMEOUT` (R311). -/
  | sessionIdleTimeout (cn : Nat)
  /-- `SESSION_CLOSE` (R311). -/
  | sessionClose (cn : Nat)
  /-- `LOGIN` (R310). -/
  | login (cn : Nat) (rq : Nat) (stage : Nat)
  /-- `LOGOUT` (R311). -/
  | logout (cn : Nat) (rq : Nat)
  /-- `PING` (R314). -/
  | ping (cn : Nat) (rq : Nat)
  /-- `READ` (R316). -/
  | read (cn : Nat) (rq : Nat) (pts : List Nat)
  /-- `WRITE` (R317). -/
  | write (cn : Nat) (rq : Nat) (ws : List (Nat × Word))
  /-- `SUBSCRIBE` (R318). -/
  | subscribe (cn : Nat) (rq : Nat) (pts : List Nat) (minint : Nat)
  /-- `UNSUBSCRIBE` (R314). -/
  | unsubscribe (cn : Nat) (rq : Nat) (sub : Nat)
  /-- `NOTIFY` (R318). -/
  | notify (cn : Nat) (sub : Nat)
  /-- `LOOPREAD` (R314). -/
  | loopread (cn : Nat) (rq : Nat) (loops : List Nat)
  /-- `FREEZE` (R130). -/
  | freeze (cn : Nat) (rq : Nat) (pt : Nat) (v : Word)
  /-- `RELEASE` (R134). -/
  | release (cn : Nat) (rq : Nat) (pt : Nat)
  /-- `TXBEGIN` (R320). -/
  | txbegin (cn : Nat) (rq : Nat)
  /-- `TXSTAGE` (R321). -/
  | txstage (cn : Nat) (rq : Nat) (e : Entry) (more : Bool)
  /-- `TXCOMMIT` (R323). -/
  | txcommit (cn : Nat) (rq : Nat)
  /-- `TXROLLBACK` (R325). -/
  | txrollback (cn : Nat) (rq : Nat)
  /-- `TXSIGN` (R329). -/
  | txsign (cn : Nat) (rq : Nat) (digest : BitVec 384) (sig : BitVec 512)
  /-- `TXSTATUS` (R314). -/
  | txstatus (cn : Nat) (rq : Nat)
  /-- `LIBSTORE` (R314). -/
  | libstore (cn : Nat) (rq : Nat) (image : List Byte)
  /-- `LIBDEL` (R314). -/
  | libdel (cn : Nat) (rq : Nat) (imageId : Word)
  /-- `EVREAD` (R369). -/
  | evread (cn : Nat) (rq : Nat) (start : Option Word) (back : Bool) (n : Nat) (minsev : Nat)
  /-- `EVCLEAR` (R370). -/
  | evclear (cn : Nat) (rq : Nat) (upto : Word)
  /-- `STATREAD` (R314). -/
  | statread (cn : Nat) (rq : Nat)
  /-- `SAFRESET` (R212). -/
  | safreset (cn : Nat) (rq : Nat) (f : Nat)
  /-- `SAFACK` (R212). -/
  | safack (cn : Nat) (rq : Nat) (f : Nat)
  /-- `MSLACK` (R239). -/
  | mslack (cn : Nat) (rq : Nat) (slot : Nat)
  /-- `CANABORT` (R289). -/
  | canabort (cn : Nat) (rq : Nat) (c : Nat)
  /-- `CANRECOVER` (R297). -/
  | canrecover (cn : Nat) (rq : Nat) (c : Nat)
  /-- `DEVREQ` (R319). -/
  | devreq (cn : Nat) (rq : Nat) (g : Nat) (node : Nat) (toMs : Option Nat) (txid : Nat) (rxid : Nat) (data : List Byte)
  /-- `DEVREQ_TIMEOUT` (R319). -/
  | devreqTimeout (g : Nat) (node : Nat)
  /-- `REQUEST_DEQUEUE` (R331). -/
  | requestDequeue (stage : Nat)
  /-- `REQUEST_AGE_SHED` (R332). -/
  | requestAgeShed (stage : Nat)
  /-- `SHED_WINDOW_END` (R332). -/
  | shedWindowEnd (stage : Nat)
  /-- `TX_TIMEOUT` (R325). -/
  | txTimeout (stage : Nat)
  /-- `SERVICE_OPEN` (R333). -/
  | serviceOpen
  /-- `TENANT_ADMISSION` (R334). -/
  | tenantAdmission
  /-- `TIMEGET` (R341). -/
  | timeget (cn : Nat) (rq : Nat)
  /-- `SETSEC` (R342). -/
  | setsec (cn : Nat) (rq : Nat) (count : BitVec 40)
  /-- `SETCAL` (R343). -/
  | setcal (cn : Nat) (rq : Nat) (y : Nat) (mo : Nat) (d : Nat) (hh : Nat) (mi : Nat) (ss : Nat) (base : Nat)
  /-- `SETOFS` (R346). -/
  | setofs (cn : Nat) (rq : Nat) (ofs : Int)
  /-- `DSTSTEP` (R347). -/
  | dststep (cn : Nat) (rq : Nat) (dir : Nat) (at_ : Nat)
  /-- `LEAP` (R348). -/
  | leap (cn : Nat) (rq : Nat) (y : Nat) (mo : Nat) (d : Nat) (sign : Nat)
  /-- `ALMSET` (R352). -/
  | almset (cn : Nat) (rq : Nat) (al : Nat) (w0 : Word) (w1 : Word) (w2 : Word)
  /-- `TIMECFG` (R349). -/
  | timecfg (cn : Nat) (rq : Nat) (w : Word)
  /-- `RTC_INCREMENT` (R337). -/
  | rtcIncrement
  /-- `OSCILLATOR_STOP` (R339). -/
  | oscillatorStop
  /-- `VBAT_BROWNOUT` (R339). -/
  | vbatBrownout
  /-- `HOLDOVER_EXPIRY` (R340). -/
  | holdoverExpiry
  /-- `LOG_WINDOW_END` (R364). -/
  | logWindowEnd (owner : Nat) (code : Nat) (band : Nat)
  /-- `ARCHIVE_COPY` (R367). -/
  | archiveCopy (ok : Bool)
  /-- `CRYPTO_JOB_DONE` (R377). -/
  | cryptoJobDone
  /-- `KEY_REPLACE_DONE` (R380). -/
  | keyReplaceDone (kat : Bool)
  /-- `KEY_ROTATION_DUE` (R381). -/
  | keyRotationDue (slot : Nat)
  /-- `TAMPER` (R382). -/
  | tamper
  /-- `TAMPER_LOOP_TEST` (R382). -/
  | tamperLoopTest (isOpen : Bool)
  /-- `VGLITCH` (R382). -/
  | vglitch
  /-- `CGLITCH` (R382). -/
  | cglitch
  /-- `TGLITCH` (R382). -/
  | tglitch
  /-- `UPDSTATUS` (R393). -/
  | updstatus (cn : Nat) (rq : Nat)
  /-- `UPDLOAD` (R394). -/
  | updload (cn : Nat) (rq : Nat) (kind : Nat) (off : Nat) (bytes : List Byte) (last : Bool) (hashOk : Bool) (sigOk : Bool)
  /-- `UPDSTART` (R395). -/
  | updstart (cn : Nat) (rq : Nat) (w : Word)
  /-- `UPDCONFIRM` (R396). -/
  | updconfirm (cn : Nat) (rq : Nat)
  /-- `UPDABORT` (R398). -/
  | updabort (cn : Nat) (rq : Nat)
  /-- `UPDRECOVER` (R393). -/
  | updrecover (cn : Nat) (rq : Nat)
  /-- `ARCHEXPORT` (R393). -/
  | archexport (cn : Nat) (rq : Nat) (unit : Nat)
  /-- `UPDATE_STEP_PROVEN` (R397). -/
  | updateStepProven (met : Bool)
  /-- `UPDATE_PROOF_TIMEOUT` (R398). -/
  | updateProofTimeout
  /-- `RECOVERY_QUERY` (R406). -/
  | recoveryQuery (host : Nat) (sq : Half)
  /-- `RECOVERY_BEGIN` (R406). -/
  | recoveryBegin (host : Nat) (sq : Half) (kind : Nat) (total : Nat)
  /-- `RECOVERY_DATA` (R406). -/
  | recoveryData (host : Nat) (sq : Half) (off : Nat) (bytes : List Byte)
  /-- `RECOVERY_END` (R406). -/
  | recoveryEnd (host : Nat) (sq : Half) (hashOk : Bool) (sigOk : Bool)
  /-- `RECOVERY_ACTIVATE` (R406). -/
  | recoveryActivate (host : Nat) (sq : Half) (mask : BitVec 6)
  /-- `RECOVERY_SESSION_TIMEOUT` (R406). -/
  | recoverySessionTimeout
  /-- `ROTATION_TEST_CHUNK` (R412). -/
  | rotationTestChunk (p : Nat) (okNormal : Bool) (okShort : Bool) (final : Bool)
  /-- `SCRUB` (R416). -/
  | scrub (r : ScrubFind)
  /-- `CORE_CHECKPOINT` (R415). -/
  | coreCheckpoint
  /-- `CORE_LOCKSTEP_MISMATCH` (R415). -/
  | coreLockstepMismatch
  /-- `AGEING_MEASURE` (R421). -/
  | ageingMeasure (margin : Word)
  /-- `NAND_BLOCK_FAIL` (R418). -/
  | nandBlockFail
  /-- `DIP_START` (R430). -/
  | dipStart (vin : Word)
  /-- `DIP_END` (R430). -/
  | dipEnd (vin : Word)
  /-- `POWER_FAIL` (R431). -/
  | powerFail
  /-- `POWER_GOOD` (R436). -/
  | powerGood (b : BootFacts)
  /-- `BOOT_WATCHDOG` (R401). -/
  | bootWatchdog
  /-- `RSTN_ASSERT` (R435). -/
  | rstnAssert
  /-- `SWRESET` (R434). -/
  | swreset
  /-- `AUX_OVERLOAD` (R428). -/
  | auxOverload
  /-- `AUX_RETRY` (R428). -/
  | auxRetry (ovr : Bool)
  /-- `REGISTER_WRITE` (R7). -/
  | registerWrite (r : RegId) (v : Dword)
  /-- `SAFETY_FILTER_CHANGE` (R202). -/
  | safetyFilterChange (n : HalfChannel) (lvl : Bool) (samples : Nat)
  /-- `BAD_COPY` (R169). -/
  | badCopy (toField badA badB : Bool) (differ : SlotSeen)
  /-- `CAN_RECEIVE_ERROR` (R296). -/
  | canReceiveError (c : Nat) (lec : Nat) (inc : Nat)
  /-- `COLLISION` (R258). -/
  | collision (m : Nat) (late : Bool)
  /-- `BACKOFF_EXPIRY` (R258). -/
  | backoffExpiry (m : Nat)
  /-- `RESERVED_ENCODING` (R81). -/
  | reservedEncoding (p : Nat) (enc : Word)
  /-- `UNPARSABLE_MESSAGE` (R312). -/
  | unparsableMessage (cn : BadMsg)
  /-- `OSCILLATOR_RESTART` (R337). -/
  | oscillatorRestart
  /-- `VBAT_RESTORE` (R339). -/
  | vbatRestore
  /-- `FIELD_DIE_COOLED` (R456). -/
  | fieldDieCooled
  /-- `PIN_UPDATE` (R24). -/
  | pinUpdate (mw : Word)
  deriving DecidableEq, Repr

end Sys2Proof
end

