-- ==== Sys2Proof/WellFormed.lean ====
section
/-! DEFINITION. Which commands are well formed: every number that names a part of the module lies in the
range that the manual gives that part. A command that is not well formed names nothing that the module has. -/

namespace Sys2Proof

/-- A lane pair is 0 to 8 (R69). -/
def pairOk (n : Nat) : Bool := decide (n < 9)
/-- A task class is 0 to 3 (R34). -/
def classOk (n : Nat) : Bool := decide (n < 4)
/-- A scene is 0 to 7 (R54). -/
def sceneOk (n : Nat) : Bool := decide (n < 8)
/-- A digital input is 0 to 31. -/
def diOk (n : Nat) : Bool := decide (n < 32)
/-- A digital output is 0 to 15. -/
def doOk (n : Nat) : Bool := decide (n < 16)
/-- An analogue input is 0 to 7. -/
def aiOk (n : Nat) : Bool := decide (n < 8)
/-- An analogue output is 0 to 3. -/
def aoOk (n : Nat) : Bool := decide (n < 4)
/-- An encoder is 0 or 1. -/
def encOk (n : Nat) : Bool := decide (n < 2)
/-- A safety input is 0 to 7. -/
def sinOk (n : Nat) : Bool := decide (n < 8)
/-- A safety output channel is 0 to 3. -/
def sqOk (n : Nat) : Bool := decide (n < 4)
/-- A safety function is 0 to 7. -/
def sfOk (n : Nat) : Bool := decide (n < 8)
/-- A test source is SPT0 to SPT3 (R201). -/
def srcOk (n : Nat) : Bool := decide (n < 4)
/-- An MSL slot is 0 to 31 (R228). -/
def slotOk (n : Nat) : Bool := decide (n < 32)
/-- A MAC is 0 to 6 (R251). -/
def macOk (n : Nat) : Bool := decide (n < 7)
/-- An uplink is 0 or 1. -/
def uplinkOk (n : Nat) : Bool := decide (n < 2)
/-- A transmit queue is 0 to 3 (R260). -/
def queueOk (n : Nat) : Bool := decide (n < 4)
/-- A 10BASE-T1S segment is 1 to 4 (R10). -/
def segOk (n : Nat) : Bool := decide (1 ≤ n) && decide (n < 5)
/-- A network segment is 1 to 6 (R10). -/
def netOk (n : Nat) : Bool := decide (1 ≤ n) && decide (n < 7)
/-- A CAN controller is 0 or 1. -/
def canOk (n : Nat) : Bool := decide (n < 2)
/-- A CAN receive buffer is 0 to 63. -/
def bufOk (n : Nat) : Bool := decide (n < 64)
/-- A stage is 0 to 31 (R1). -/
def stageOk (n : Nat) : Bool := decide (n < 32)
/-- A point index has 16 bits. -/
def pointOk (n : Nat) : Bool := decide (n < 65536)
/-- A loop is 0 to 1,023. -/
def loopNoOk (n : Nat) : Bool := decide (n < 1024)
/-- A request number, and a loop number that a host sends, has 16 bits. -/
def reqOk (n : Nat) : Bool := decide (n < 65536)
/-- A key store slot is 0 to 33. -/
def keySlotOk (n : Nat) : Bool := decide (n < 34)
/-- An alarm is 0 or 1. -/
def alarmOk (n : Nat) : Bool := decide (n < 2)
/-- A node number has 8 bits. -/
def nodeOk (n : Nat) : Bool := decide (n < 256)
/-- An offset in a half-period is below 2,048 (R35). -/
def offOk (n : Nat) : Bool := decide (n < 2048)
/-- A safety output switch is 0 to 7: channel times two, plus 1 for the low switch. -/
def swOk (n : Nat) : Bool := decide (n < 8)
/-- An OUTCMD carries a class 0 to 3, or the outputs of the loop engine as 4 (R146). -/
def outNoOk (n : Nat) : Bool := decide (n < 5)

/-- A number that a host sends in a byte: the module answers for every value of it, BADARG where it names nothing. -/
def byteOk (n : Nat) : Bool := decide (n < 256)

/-- A register exists (R7): its index lies in its bank's range. -/
def regOk (r : RegId) : Bool :=
  match r with
  | .liogen0 | .liogen1 | .slatecfg | .ptpcfg | .mslgen | .timecfg => true
  | .dicfg n => diOk n
  | .docfg n => doOk n
  | .aicfg n => aiOk n
  | .aocfg n => aoOk n
  | .enccfg c => encOk c
  | .classcfg k => classOk k
  | .stgcfg st i => stageOk st && decide (i < 6)
  | .maccfg m | .maccount m _ => macOk m
  | .filt m i => macOk m && decide (i < 8)
  | .dscfg u => uplinkOk u
  | .ipcfg i => decide (i < 3)
  | .cannbt c | .candbt c | .cancfg0 c | .cancfg1 c | .cansync c => canOk c
  | .almcfg a i => alarmOk a && decide (i < 3)
  | .keypol i | .secpol i => decide (i < 2)
  | .canlost c b | .cannd c b => canOk c && bufOk b

/-- What the scrubber found lies in a memory of the module (R416, R417). -/
def scrubOk (f : ScrubFind) : Bool :=
  match f with
  | .sramCorrected row _ => decide (row < 8_360)
  | .mramCorrected | .netBuffer | .configCopy _ _ => true
  | .sectionCode stage _ | .programStore stage => stageOk stage
  | .imageWord pt | .mramPoint pt _ => pointOk pt
  | .mramLoop n _ => loopNoOk n
  | .keySlot slot => keySlotOk slot

/-- The command is well formed. -/
def Instr.wf (i : Instr) : Bool :=
  match i with
  | .nop p _ | .band p _ | .bandn p _ | .bor p _ | .born p _ | .bxor p _ | .bxorn p _ | .bnot p _ 
  | .ba1 p _ | .ba0 p _ | .bflg p _ | .pusha p _ | .pushan p _ | .pusho p _ | .pushx p _ | .popc p _ 
  | .stb p _ | .stbn p _ | .setb p _ | .clrb p _ | .rise p _ | .fall p _ | .ton p _ | .tof p _ 
  | .tp p _ | .tonr p _ | .tres p _ | .ctu p _ | .ctd p _ | .cld p _ | .crs p _ | .lda p _ | .sta p _ 
  | .xab p _ | .sel p _ | .addI p _ | .subI p _ | .mulI p _ | .divI p _ | .modI p _ | .negI p _ 
  | .absI p _ | .minI p _ | .maxI p _ | .ldb p _ | .andw p _ | .orw p _ | .xorw p _ | .notw p _ 
  | .shl p _ | .shr p _ | .sar p _ | .rol p _ | .addf p _ | .subf p _ | .mulf p _ | .divf p _ 
  | .negf p _ | .absf p _ | .minf p _ | .maxf p _ | .addq p _ | .subq p _ | .mulq p _ | .divq p _ 
  | .itf p _ | .fti p _ | .itq p _ | .qti p _ | .ftq p _ | .qtf p _ | .eqi p _ | .nei p _ | .gti p _ 
  | .gei p _ | .lti p _ | .lei p _ | .eqf p _ | .nef p _ | .gtf p _ | .gef p _ | .ltf p _ | .lef p _ 
  | .jmp p _ | .jt p _ | .jf p _ | .jz p _ | .jnz p _ | .jneg p _ | .jpos p _ | .loopOp p _ 
  | .endl p _ | .lexit p _ | .lexitc p _ | .callS p _ | .ret p _ | .retc p _ | .endS p _ | .qset p _ 
  | .qclr p _ | .qget p _ | .qput p _ | .lsp p _ | .lman p _ | .ltrk p _ | .lmode p _ | .lrd p _ 
  | .evt p _ | .lmt p _ | .lmth p _ | .lflt p _ | .lidx p _ | .lstw p _ | .cstw p _ | .sectionBudget p 
  | .blockCheckpoint p _ | .rotationTestChunk p _ _ _ | .reservedEncoding p _ => pairOk p
  | .sectionDispatch | .halfPeriodStart | .halfPeriodDeadline | .mainsCrossing _ | .missingPeriod 
  | .nominalEntry | .idleFrame _ | .configFrame _ _ | .safreq _ | .statusFrame _ _ _ 
  | .inputFrame _ _ _ | .safstat _ _ | .eventFrame _ | .burstDeadline | .linkBad _ _ | .linkRetrain _ 
  | .linkGood _ | .barrierLoss _ | .blholdExpiry | .fieldOvertemp | .loopEngineKat _ 
  | .safetyCycle _ _ | .supplyFault | .supplyRecovered | .tempFault | .safreqLapse 
  | .startDiagnostics _ | .addressAgeout _ | .ptpSync _ _ _ _ | .ptpSyncTimeout | .discovery _ _ 
  | .dhcpRetry | .dhcpLease _ | .tcpConnect _ _ | .tlsHandshakeDone _ _ | .loginTimeout _ 
  | .sessionIdleTimeout _ | .sessionClose _ | .notify _ _ | .serviceOpen | .tenantAdmission 
  | .rtcIncrement | .oscillatorStop | .vbatBrownout | .holdoverExpiry | .archiveCopy _ 
  | .cryptoJobDone | .keyReplaceDone _ | .tamper | .tamperLoopTest _ | .vglitch | .cglitch | .tglitch 
  | .updateStepProven _ | .updateProofTimeout | .recoveryQuery _ _ | .recoveryBegin _ _ _ _ 
  | .recoveryData _ _ _ _ | .recoveryEnd _ _ _ _ | .recoveryActivate _ _ _ | .recoverySessionTimeout 
  | .coreCheckpoint | .coreLockstepMismatch | .ageingMeasure _ | .nandBlockFail 
  | .dipStart _ | .dipEnd _ | .powerFail | .powerGood _ | .bootWatchdog | .rstnAssert | .swreset 
  | .auxOverload | .auxRetry _ | .badCopy _ _ _ _ | .unparsableMessage _ 
  | .oscillatorRestart | .vbatRestore | .fieldDieCooled | .pinUpdate _ => true
  | .sceneStart k j => classOk k && sceneOk j
  | .handOffPhase k | .outputPhase k => classOk k
  | .alignedTarget n | .doOverloadLatch n | .doRearm n | .doCondition n _ _ | .darkTestPulse n 
  | .darkTestCheck n _ => doOk n
  | .outcmd _ k | .outputApply k | .ack _ k => outNoOk k
  | .barrierMslToPair _ slot _ | .barrierMslFromPair _ slot _ | .mslOpen slot _ | .mslOpened slot _ 
  | .mslCheck slot _ | .mslData slot _ | .mslOpenRetry ⟨slot, _⟩ | .mslTimeout slot 
  | .mslProducerListen slot => slotOk slot
  | .diFilterChange n _ | .diWireBreak n _ | .diComparatorTest n _ => diOk n
  | .aiShuntOpen n | .aiShuntRetry n _ => aiOk n
  | .aoDeviation n _ => aoOk n
  | .encoderEdge c _ _ _ => encOk c
  | .loopSample off _ | .loopOutputWrite off => offOk off
  | .testPulse j | .testPulseCheck j _ _ => srcOk j
  | .discTimeout n | .safetyFilterChange ⟨_, n, _⟩ _ _ => sinOk n
  | .feedbackTimeout m => sqOk m
  | .switchOffPulse q _ | .switchQlow q | .switchQovl q | .lockoutOffTest q _ => swOk q
  | .standinExpiry f | .lockRelease f | .twoHandTimeout f => sfOk f
  | .frameReceive m _ | .frameTransmitDone m _ | .rxDescriptorReturn m _ | .linkDown m | .linkUp m _ 
  | .pauseFrame m _ | .pauseHoldEnd m | .pauseWatchdog m | .pauseBreakEnd m | .collision m _ 
  | .backoffExpiry m => macOk m
  | .txDescriptorSubmit m q _ => macOk m && queueOk q
  | .rateWindow1s u | .rateWindow100ms u | .rateChangeFail u => uplinkOk u
  | .queueWaitUpshift u q => uplinkOk u && queueOk q
  | .exchangeWindowOpen g | .exrep g _ | .exchangeTimeout g => segOk g
  | .acyc g node _ _ => segOk g && nodeOk node
  | .canFrameSent c | .canAttemptFail c _ | .canFrameReceived c _ | .headlong c | .canRecoveryDone c 
  | .canBusIntegrated c | .canReceiveError c _ _ => canOk c
  | .ndRead c buf | .lostClear c buf _ => canOk c && bufOk buf
  | .login _ rq stage => reqOk rq && byteOk stage
  | .logout _ rq | .ping _ rq | .unsubscribe _ rq _ | .txbegin _ rq | .txstage _ rq _ _ 
  | .txcommit _ rq | .txrollback _ rq | .txsign _ rq _ _ | .txstatus _ rq | .libstore _ rq _ 
  | .libdel _ rq _ | .evread _ rq _ _ _ _ | .evclear _ rq _ | .statread _ rq | .timeget _ rq 
  | .setsec _ rq _ | .setcal _ rq _ _ _ _ _ _ _ | .setofs _ rq _ | .dststep _ rq _ _ 
  | .leap _ rq _ _ _ _ | .timecfg _ rq _ | .updstatus _ rq | .updstart _ rq _ | .updconfirm _ rq 
  | .updabort _ rq | .updrecover _ rq | .archexport _ rq _ => reqOk rq
  | .read _ rq pts | .subscribe _ rq pts _ => reqOk rq && pts.all pointOk
  | .write _ rq ws => reqOk rq && ws.all (fun e => pointOk e.1)
  | .loopread _ rq loops => reqOk rq && loops.all reqOk
  | .freeze _ rq pt _ | .release _ rq pt => reqOk rq && pointOk pt
  | .safreset _ rq f | .safack _ rq f => reqOk rq && byteOk f
  | .mslack _ rq slot => reqOk rq && byteOk slot
  | .canabort _ rq c | .canrecover _ rq c => reqOk rq && byteOk c
  | .devreq _ rq g node _ _ _ _ => reqOk rq && byteOk g && nodeOk node
  | .devreqTimeout g node => netOk g && nodeOk node
  | .requestDequeue stage | .requestAgeShed stage | .shedWindowEnd stage | .txTimeout stage => stageOk stage
  | .almset _ rq al _ _ _ => reqOk rq && byteOk al
  | .logWindowEnd owner _ _ => stageOk owner
  | .keyRotationDue slot => keySlotOk slot
  | .scrub f => scrubOk f
  | .registerWrite r _ => regOk r
  | .updload _ rq kind _ _ _ _ _ => reqOk rq && byteOk kind

end Sys2Proof
end

