-- ==== Sys2Proof/Decode.lean ====
section
/-! DEFINITION. Decoding. The one encoding that the spec gives its commands is that of the Ecmund instructions (R80, R111):
opcode in bits [31:24], operand in bits [23:0]. The forms of the operands are checked where they are used
(Machine/Code.lean). -/

namespace Sys2Proof

/-- Opcodes of one high nibble, by their low nibble (R111). -/
def opRow0 (p : Nat) (w : BitVec 24) (lo : Nat) : Option Instr :=
  match lo with
  | 0x1 => some (.nop p w)
  | _ => none
def opRow1 (p : Nat) (w : BitVec 24) (lo : Nat) : Option Instr :=
  match lo with
  | 0x0 => some (.band p w)
  | 0x1 => some (.bandn p w)
  | 0x2 => some (.bor p w)
  | 0x3 => some (.born p w)
  | 0x4 => some (.bxor p w)
  | 0x5 => some (.bxorn p w)
  | 0x6 => some (.bnot p w)
  | 0x7 => some (.ba1 p w)
  | 0x8 => some (.ba0 p w)
  | 0x9 => some (.pusha p w)
  | 0xA => some (.pushan p w)
  | 0xB => some (.pusho p w)
  | 0xC => some (.pushx p w)
  | 0xD => some (.popc p w)
  | 0xE => some (.bflg p w)
  | _ => none
def opRow2 (p : Nat) (w : BitVec 24) (lo : Nat) : Option Instr :=
  match lo with
  | 0x0 => some (.stb p w)
  | 0x1 => some (.stbn p w)
  | 0x2 => some (.setb p w)
  | 0x3 => some (.clrb p w)
  | 0x4 => some (.rise p w)
  | 0x5 => some (.fall p w)
  | _ => none
def opRow3 (p : Nat) (w : BitVec 24) (lo : Nat) : Option Instr :=
  match lo with
  | 0x0 => some (.ton p w)
  | 0x1 => some (.tof p w)
  | 0x2 => some (.tp p w)
  | 0x3 => some (.tonr p w)
  | 0x4 => some (.tres p w)
  | 0x8 => some (.ctu p w)
  | 0x9 => some (.ctd p w)
  | 0xA => some (.cld p w)
  | 0xB => some (.crs p w)
  | _ => none
def opRow4 (p : Nat) (w : BitVec 24) (lo : Nat) : Option Instr :=
  match lo with
  | 0x0 => some (.lda p w)
  | 0x1 => some (.sta p w)
  | 0x2 => some (.xab p w)
  | 0x3 => some (.sel p w)
  | 0x4 => some (.addI p w)
  | 0x5 => some (.subI p w)
  | 0x6 => some (.mulI p w)
  | 0x7 => some (.divI p w)
  | 0x8 => some (.modI p w)
  | 0x9 => some (.negI p w)
  | 0xA => some (.absI p w)
  | 0xB => some (.minI p w)
  | 0xC => some (.maxI p w)
  | 0xD => some (.ldb p w)
  | _ => none
def opRow5 (p : Nat) (w : BitVec 24) (lo : Nat) : Option Instr :=
  match lo with
  | 0x0 => some (.andw p w)
  | 0x1 => some (.orw p w)
  | 0x2 => some (.xorw p w)
  | 0x3 => some (.notw p w)
  | 0x4 => some (.shl p w)
  | 0x5 => some (.shr p w)
  | 0x6 => some (.sar p w)
  | 0x7 => some (.rol p w)
  | _ => none
def opRow6 (p : Nat) (w : BitVec 24) (lo : Nat) : Option Instr :=
  match lo with
  | 0x0 => some (.addf p w)
  | 0x1 => some (.subf p w)
  | 0x2 => some (.mulf p w)
  | 0x3 => some (.divf p w)
  | 0x4 => some (.negf p w)
  | 0x5 => some (.absf p w)
  | 0x6 => some (.minf p w)
  | 0x7 => some (.maxf p w)
  | 0x8 => some (.addq p w)
  | 0x9 => some (.subq p w)
  | 0xA => some (.mulq p w)
  | 0xB => some (.divq p w)
  | _ => none
def opRow7 (p : Nat) (w : BitVec 24) (lo : Nat) : Option Instr :=
  match lo with
  | 0x0 => some (.itf p w)
  | 0x1 => some (.fti p w)
  | 0x2 => some (.itq p w)
  | 0x3 => some (.qti p w)
  | 0x4 => some (.ftq p w)
  | 0x5 => some (.qtf p w)
  | _ => none
def opRow8 (p : Nat) (w : BitVec 24) (lo : Nat) : Option Instr :=
  match lo with
  | 0x0 => some (.eqi p w)
  | 0x1 => some (.nei p w)
  | 0x2 => some (.gti p w)
  | 0x3 => some (.gei p w)
  | 0x4 => some (.lti p w)
  | 0x5 => some (.lei p w)
  | 0x8 => some (.eqf p w)
  | 0x9 => some (.nef p w)
  | 0xA => some (.gtf p w)
  | 0xB => some (.gef p w)
  | 0xC => some (.ltf p w)
  | 0xD => some (.lef p w)
  | _ => none
def opRow9 (p : Nat) (w : BitVec 24) (lo : Nat) : Option Instr :=
  match lo with
  | 0x0 => some (.jmp p w)
  | 0x1 => some (.jt p w)
  | 0x2 => some (.jf p w)
  | 0x3 => some (.jz p w)
  | 0x4 => some (.jnz p w)
  | 0x5 => some (.jneg p w)
  | 0x6 => some (.jpos p w)
  | 0x8 => some (.loopOp p w)
  | 0x9 => some (.endl p w)
  | 0xA => some (.lexit p w)
  | 0xB => some (.lexitc p w)
  | 0xC => some (.callS p w)
  | 0xD => some (.ret p w)
  | 0xE => some (.retc p w)
  | 0xF => some (.endS p w)
  | _ => none
def opRowA (p : Nat) (w : BitVec 24) (lo : Nat) : Option Instr :=
  match lo with
  | 0x0 => some (.qset p w)
  | 0x1 => some (.qclr p w)
  | 0x2 => some (.qget p w)
  | 0x3 => some (.qput p w)
  | _ => none
def opRowB (p : Nat) (w : BitVec 24) (lo : Nat) : Option Instr :=
  match lo with
  | 0x0 => some (.lsp p w)
  | 0x1 => some (.lman p w)
  | 0x2 => some (.ltrk p w)
  | 0x3 => some (.lmode p w)
  | 0x4 => some (.lrd p w)
  | _ => none
def opRowC (p : Nat) (w : BitVec 24) (lo : Nat) : Option Instr :=
  match lo with
  | 0x0 => some (.evt p w)
  | _ => none
def opRowD (p : Nat) (w : BitVec 24) (lo : Nat) : Option Instr :=
  match lo with
  | 0x0 => some (.lmt p w)
  | 0x1 => some (.lmth p w)
  | 0x2 => some (.lflt p w)
  | 0x3 => some (.lidx p w)
  | 0x4 => some (.lstw p w)
  | 0x5 => some (.cstw p w)
  | _ => none

/-- The instruction of an opcode and operand; none: the opcode is not in the map (R111). -/
def instrOf (p op : Nat) (w : BitVec 24) : Option Instr :=
  match op / 16 with
  | 0x0 => opRow0 p w (op % 16)
  | 0x1 => opRow1 p w (op % 16)
  | 0x2 => opRow2 p w (op % 16)
  | 0x3 => opRow3 p w (op % 16)
  | 0x4 => opRow4 p w (op % 16)
  | 0x5 => opRow5 p w (op % 16)
  | 0x6 => opRow6 p w (op % 16)
  | 0x7 => opRow7 p w (op % 16)
  | 0x8 => opRow8 p w (op % 16)
  | 0x9 => opRow9 p w (op % 16)
  | 0xA => opRowA p w (op % 16)
  | 0xB => opRowB p w (op % 16)
  | 0xC => opRowC p w (op % 16)
  | 0xD => opRowD p w (op % 16)
  | _ => none

/-- The instruction that pair `p` performs when the word at its PC is `enc`; none: its opcode is not in the map, and the word
is a reserved encoding, which RESERVED_ENCODING executes (R80, R81, R111). -/
def decodeEcmund (p : Nat) (enc : Word) : Option Instr := instrOf p (enc.toNat / 2 ^ 24) (enc.setWidth 24)

/-- The command that a word spells: of 32 bits, an Ecmund instruction on pair 0 (log entry 56). The opcode table gives its
other rows no bits. -/
def decodeTableWord (nbits w : Nat) : Option Instr :=
  if nbits = 32 then decodeEcmund 0 (BitVec.ofNat 32 w) else none

end Sys2Proof
end

