-- ==== Sys2Proof/Config.lean ====
section
/-! DEFINITION. What an implementation fixes and the manual leaves open: the free values. None has a
body, so nothing can be proved of a value of one; a claim about them holds for every choice. -/

namespace Sys2Proof

/-- The stream of free values: the n-th value that the manual leaves open in a run (log entry 2).
A step that needs one reads `Config.free` at the state's own counter and advances the counter. -/
opaque Config.free : Nat → Dword

/-- TCORE (R17) as measured at a tick: the manual gives no rule for its value (log entry 2). -/
opaque Config.coreTemp : Nat → Word

/-- What R192 leaves open of an encoder channel: whether the position rises when A leads B, whether it rises
on a pulse with B low, and which of four transitions counts in quadrature x1 (log entry 2). -/
opaque Config.quadUp : Bool
opaque Config.pulseUp : Bool
opaque Config.quadOfs : Nat

/-- The version of the mask ROM that a recovery QUERY reports (R406): the manual states no value (log entry 2). -/
opaque Config.romVersion : Word

end Sys2Proof
end

