-- ==== Sys2Proof/Machine/State.lean ====
section
/-! DEFINITION. The state of the module: every register, table, queue, counter, mode and pin that the
manual names, as plain data, and the state after a power-on reset. A field that ends in a collection by
number is a `Table`; its comment names what an unlisted key reads as. Times are counts of 25 MHz crystal
ticks (40 ns) on the model's own clock `now`, unless the comment says otherwise. -/

namespace Sys2Proof.Machine
open Sys2Proof

/-- The reasons for which the block would stop. None: the manual gives every command an effect, and what
its commands report as faults (R73, R217, R296 and others) are effects on the state. -/
inductive Fault where
  deriving DecidableEq, Repr

/-- The reasons for which the model would have no meaning for a command. -/
inductive Refusal where
  /-- Raised by the dispatch alone, for a row that has no meaning yet; safe, since nothing follows. -/
  | notModelled (mnemonic : String)
  deriving DecidableEq, Repr

/-! ### Points, tags and freezes (01_architecture.md) -/

/-- A point: value and quality (R15). `q` holds bits [8:0]; STAGE [15:11] is read from the tag. -/
structure PV where
  val : Word
  q : Half
  deriving DecidableEq, Repr

/-- The factory point (R15). -/
def PV.zero : PV := ⟨0, 0⟩

/-- A block tag (R12). -/
structure Tag where
  fixed : Bool
  pub : Bool
  owner : Nat
  deriving DecidableEq, Repr

/-- The factory tag of a block (R12). -/
def Tag.factory (blk : Nat) : Tag :=
  { fixed := blk < 4 || blk == 5 || blk == 6 || blk == 7
    pub := blk == 0 || blk == 1 || blk == 5
    owner := 0 }

/-- The point image, its retained copy, tags and freezes. -/
structure PointS where
  /-- R15: the underlying value and quality of every point; unlisted: `PV.zero`. -/
  pts : Table PV
  /-- R9: the image as of the last completed take; unlisted: `PV.zero`. -/
  retained : Table PV
  /-- R12: block tags; unlisted: `Tag.factory`. -/
  tags : Table Tag
  /-- R129, R131: forced values; unlisted: none. -/
  frz : Table (Option Word)
  /-- R417: image words with an uncorrectable error not yet rewritten. -/
  uecc : List Nat
  deriving DecidableEq, Repr

/-! ### The slate and the takes (02_slate_and_take.md) -/

/-- The slate modes with their codes (R26). -/
inductive SlateMode where
  | free | locked | flywheel | nominal | relock
  deriving DecidableEq, Repr

/-- CLASSCFGk (R34). -/
structure ClassCfg where
  outph : Nat
  en : Bool
  n : Nat
  deriving DecidableEq, Repr

/-- The factory class configuration (R34). -/
def ClassCfg.factory (k : Nat) : ClassCfg := { outph := 1536, en := k == 0, n := 0 }

/-- The slate (R25 to R33). -/
structure SlateS where
  mode : SlateMode
  /-- R32: the committed SLATECFG and the one in force. -/
  nom60C : Bool
  freeC : Bool
  nom60F : Bool
  freeF : Bool
  /-- R34: class configuration; unlisted: `ClassCfg.factory`. -/
  cls : Table ClassCfg
  started : Bool
  startAt : Nat
  halfStart : Nat
  /-- Length of the slate period in progress, and the flywheel period of R29, in ticks. -/
  period : Nat
  flyPer : Nat
  halfcnt : Word
  lastCross : Option Nat
  lastPer : Option Nat
  firstAfter : Bool
  missing : Bool
  /-- R30: consecutive plausible periods; R30: consecutive periods within four steps in RELOCK. -/
  run8 : Nat
  lockRun : Nat
  lastPlaus : Option Nat
  /-- R33 points. -/
  mainsPer : Word
  slatePer : Word
  mainsFreq : Word
  phErr : Word
  mainsAmp : Word
  lockLoss : Word
  implaus : Word
  slewRate : Word
  deriving DecidableEq, Repr

/-! ### The Ecmund machine (03, 04) -/

/-- A timer slot (R92). `ended` holds whether a TP or TOF is in the time after its timing ended, and
`kind` the opcode of the timer instruction that last evaluated it (0: none), by which a TRES sets ET. -/
structure Timer where
  ended : Bool
  kind : Nat
  pt : Word
  q : Bool
  run : Bool
  i : Bool
  s : Dword
  et : Word
  qual : Byte
  deriving DecidableEq, Repr

/-- An untouched timer slot. Its recorded quality before its first evaluation is 0x01. DESIGN CHOICE, log 65. -/
def Timer.zero : Timer := ⟨false, 0, 0, false, false, false, 0, 0, 1⟩

/-- A counter slot (R66, R93). -/
structure Counter where
  cv : Word
  pv : Word
  u : Bool
  d : Bool
  done : Bool
  zero : Bool
  sathi : Bool
  satlo : Bool
  qual : Byte
  deriving DecidableEq, Repr

/-- An untouched counter slot. Its recorded quality before its first evaluation is 0x01. DESIGN CHOICE, log 65. -/
def Counter.fresh : Counter := ⟨0, 0, true, true, true, true, false, false, 1⟩

/-- A branch-stack entry (R58, R61): BA, BQ, NC and the pending operation's code (R88). -/
structure BrEnt where
  ba : Bool
  bq : Byte
  nc : Bool
  op : BitVec 2
  deriving DecidableEq, Repr

/-- A call-stack entry (R58, R63). `lps` is the loop depth at the call, by which R105 judges an open loop. -/
structure CallEnt where
  ret : BitVec 20
  depth : Nat
  lps : Nat
  deriving DecidableEq, Repr

/-- A loop-stack entry (R58, R104). `endl` is the index of the ENDL that its LOOP names. -/
structure LpEnt where
  cnt : BitVec 13
  start : BitVec 20
  endl : Nat
  deriving DecidableEq, Repr

/-- A loop command in a write buffer (R107, R108). -/
structure LoopCmd where
  sp : Option (Word × Byte)
  man : Option (Word × Byte)
  trk : Option (Word × Byte)
  mode : Option Nat
  deriving DecidableEq, Repr

/-- No command. -/
def LoopCmd.none : LoopCmd := ⟨.none, .none, .none, .none⟩

/-- An event entry (R109). -/
structure EvEnt where
  stage : Nat
  secno : Nat
  sev : Nat
  code : Half
  wa : Word
  qa : Byte
  mt : Dword
  deriving DecidableEq, Repr

/-- A write buffer (R56, R64, R108, R109). -/
structure WBuf where
  /-- Points written, with the carried quality; unlisted: not written. -/
  pts : Table (Option (Word × Byte))
  tmr : Table (Option Timer)
  ctr : Table (Option Counter)
  cmds : Table LoopCmd
  evs : List EvEnt
  /-- Events past the sixteenth (R109). -/
  dropped : List EvEnt
  deriving DecidableEq, Repr

/-- The empty write buffer. -/
def WBuf.empty : WBuf := ⟨[], [], [], [], [], []⟩

/-- The machine state of a section (R58). -/
structure Core where
  pc : BitVec 20
  stw : Half
  bq : Byte
  wa : Word
  wb : Word
  qa : Byte
  qb : Byte
  br : List BrEnt
  calls : List CallEnt
  lps : List LpEnt
  /-- L0 to L63; unlisted: value 0 with quality 0x01. -/
  loc : Table (Word × Byte)
  deriving DecidableEq, Repr

/-- The state at section start (R58, R59). -/
def Core.start (first : BitVec 20) : Core :=
  { pc := first, stw := 2, bq := 1, wa := 0, wb := 0, qa := 1, qb := 1
    br := [], calls := [], lps := [], loc := [] }

/-- A section in execution on a lane pair (R58, R69, R78). -/
structure SecRun where
  stage : Nat
  secno : Nat
  cls : Nat
  scene : Nat
  core : Core
  buf : WBuf
  cycles : Nat
  w : Nat
  /-- Instructions and cycles since the last checkpoint (R69). -/
  ckI : Nat
  ckC : Nat
  /-- The restart point (R69): state, buffer and cycle count. -/
  rsCore : Core
  rsBuf : WBuf
  rsCycles : Nat
  deriving DecidableEq, Repr

/-- The progress of a section of the scene in execution. -/
inductive SecSt where
  | waiting | running | done | halted | stopped
  deriving DecidableEq, Repr

/-- A section's place in the scene in execution, with the buffer it completed with. -/
structure SecSlot where
  stage : Nat
  secno : Nat
  st : SecSt
  buf : WBuf
  deriving DecidableEq, Repr

/-- A section's fault record (R75, R110). -/
structure FaultRec where
  code : Byte
  execs : BitVec 24
  deriving DecidableEq, Repr

/-- The logic engine. -/
structure EngineS where
  /-- The section on each lane pair 0 to 8; unlisted: idle. -/
  run : Table (Option SecRun)
  /-- LANES (R411): bit p of each. -/
  inService : BitVec 9
  retired : BitVec 9
  /-- The scene in execution: class and scene number, and its sections. -/
  scene : Option (Nat × Nat)
  slots : List SecSlot
  /-- A restart point that waits for a free pair (R410). -/
  waiting : List SecRun
  /-- Disagreements recovered in the scene (R410). -/
  recovered : Nat
  /-- Fault records by stage * 8192 + section; unlisted: code 0. -/
  flt : Table FaultRec
  timers : Table Timer
  counters : Table Counter
  /-- Sections whose code has an uncorrectable error (R417): stage and index. -/
  codeUecc : List (Nat × Nat)
  deriving DecidableEq, Repr

/-! ### The loop engine (06) -/

/-- A loop descriptor as its fields (R140, R141); `secs` holds five coefficients each. -/
structure LoopDesc where
  kind : Nat
  np : Nat
  nsec : Nat
  dir : Bool
  fbmode : Nat
  initmode : Nat
  grole : Nat
  gpos : Nat
  glead : Nat
  pvpt : Nat
  sppt : Nat
  outpt : Nat
  extloop : Nat
  sample : Nat
  lat : Nat
  g : Word
  ki : Word
  ilo : Word
  ihi : Word
  olo : Word
  ohi : Word
  rate : Word
  fbval : Word
  offval : Word
  pvto : Nat
  safeval : Word
  secs : List (List Word)
  deriving DecidableEq, Repr

/-- The factory descriptor: unused (R141). -/
def LoopDesc.unused : LoopDesc :=
  { kind := 0, np := 0, nsec := 0, dir := false, fbmode := 0, initmode := 4, grole := 0, gpos := 0
    glead := 0, pvpt := 0, sppt := 0, outpt := 0, extloop := 0, sample := 0, lat := 0, g := 0, ki := 0
    ilo := 0, ihi := 0, olo := 0, ohi := 0, rate := 0, fbval := 0, offval := 0, pvto := 0, safeval := 0
    secs := [] }

/-- The commands in force for a loop (R152, R155). -/
structure LoopForce where
  mode : Nat
  sp : Word × Byte
  man : Word × Byte
  trk : Word × Byte
  deriving DecidableEq, Repr

/-- The state the engine keeps for a loop (R152, R162). -/
structure LoopRt where
  s1 : List (BitVec 48)
  s2 : List (BitVec 48)
  i : BitVec 48
  uprev : Word
  badcnt : Nat
  gbad : Nat
  force : LoopForce
  /-- What was in force when fallback began (R152, R157). -/
  saved : Option LoopForce
  status : Word
  /-- The next usable sample is a transition (R154). -/
  trans : Bool
  cmdrej : Bool
  /-- Set-point and process value used at the last sample (R107). -/
  lastSp : Word × Byte
  lastPv : Word × Byte
  /-- Output as last written with its quality. -/
  lastOut : Word × Byte
  deriving DecidableEq, Repr

/-- A loop that has never been committed: before its first sample and output LRD fields 0 to 2 read 0 with quality 0x00
(R107). DESIGN CHOICE, log 63. -/
def LoopRt.fresh : LoopRt :=
  { s1 := [], s2 := [], i := 0, uprev := 0, badcnt := 0, gbad := 0
    force := ⟨0, (0, 0), (0, 0), (0, 0)⟩, saved := none, status := 0, trans := true, cmdrej := false
    lastSp := (0, 0), lastPv := (0, 0), lastOut := (0, 0) }

/-- An output due (R146): the absolute phase step (half-period count times 2,048 plus offset). -/
structure DueOut where
  loop : Nat
  outpt : Nat
  val : Word
  q : Byte
  step : Nat
  deriving DecidableEq, Repr

/-- The loop engine. -/
structure LoopS where
  desc : Table LoopDesc
  rt : Table LoopRt
  due : List DueOut
  /-- R152: the loops' states and due outputs in MRAM, as of each loop's last completed evaluation. -/
  kept : Table LoopRt
  keptDue : List DueOut
  /-- R143: the half-period and offset last sampled. -/
  sampled : Option (Word × Nat)
  /-- R414, R425: in service; known-answer test pending; instants of double disagreements. -/
  inService : Bool
  katDue : Bool
  ddAt : List Nat
  /-- R159: the first latch has been reached. -/
  open_ : Bool
  deriving DecidableEq, Repr

/-! ### Takes (02) -/

/-- A stage's part of a take. -/
structure StageTake where
  ovr : Bool
  deriving DecidableEq, Repr

/-- A stage that has not overrun. -/
def StageTake.fresh : StageTake := ⟨false⟩

/-- A task class and its take in progress (R34 to R46). -/
structure ClassTake where
  active : Bool
  startHalf : Word
  mt : Dword
  /-- The take image (R38): points, and system points by key (R55). -/
  snap : Table PV
  sys : Table PV
  /-- The loop values as of the input phase (R107). -/
  loops : Table LoopRt
  /-- Merged writes by stage (R55, R57). -/
  merged : Table WBuf
  stage : Table StageTake
  /-- The half-period of the take in which each scene is placed (R39). -/
  place : List (Nat × Nat)
  /-- Scenes completed in this take. -/
  doneScenes : List Nat
  /-- TAKECNTk (R17). -/
  takecnt : Word
  /-- HALFCNT of this take's first half-period was the first of the class since start (R438). -/
  firstTake : Bool
  /-- The hand-off phase and the output phase of the take have passed. -/
  handed : Bool
  out : Bool
  deriving DecidableEq, Repr

/-- A class before its first take. -/
def ClassTake.idle : ClassTake :=
  { active := false, startHalf := 0, mt := 0, snap := [], sys := [], loops := [], merged := []
    stage := [], place := [], doneScenes := [], takecnt := 0, firstTake := true, handed := false, out := false }

/-! ### Programs (05) -/

/-- A section table entry with its sets (R115, R116) and its worst-case cycles W (R78). -/
structure SecDef where
  secno : Nat
  cls : Nat
  scene : Nat
  first : Nat
  count : Nat
  rd : List (Nat × Nat)
  wr : List (Nat × Nat)
  /-- Worst-case cycles as the tool computed them (R115), and as the loader did (R78). -/
  wtool : Nat
  w : Nat
  deriving DecidableEq, Repr

/-- An object table entry with its retention, initial and fallback values (R117, R118). -/
structure ObjDef where
  first : Nat
  count : Nat
  kind : Nat
  cls : Nat
  type : Nat
  subst : Nat
  retention : Nat
  init : List Word
  fallback : Option (List Word)
  deriving DecidableEq, Repr

/-- A slot table entry (R119). -/
structure SlotDef where
  counter : Bool
  num : Nat
  secno : Nat
  preset : Word
  cv : Word
  deriving DecidableEq, Repr

/-- A program in force (R112 to R120). -/
structure Prog where
  imageId : Word
  secs : List SecDef
  subs : List (Nat × Nat)
  objs : List ObjDef
  ranges : List (Nat × Nat × Nat)
  slots : List SlotDef
  code : List Word
  /-- Bytes of the image's set area (R21). -/
  setBytes : Nat
  deriving DecidableEq, Repr

/-- A library image (R112). -/
structure LibImage where
  stage : Nat
  imageId : Word
  bytes : List Byte
  /-- The stage's active image, from its commit on (R112), and the image of the program in force, which stays until the
  boundary of the one that replaces it (R128). -/
  active : Bool
  inForce : Bool
  /-- R376: the storage key under which the copy is encrypted, as it is wrapped, and its nonce: location and write count. -/
  under : Option (BitVec 320)
  loc : Nat
  writes : Nat
  deriving DecidableEq, Repr

/-- What the module keeps for a stage at run time (R17, R18, R46, R47). -/
structure StageRt where
  /-- STGSTATE [1:0], [2], [3]. -/
  state : Nat
  lastCold : Bool
  recutNow : Bool
  /-- Consecutive overruns by class (R46). -/
  ovc : Table Nat
  ovTotal : Half
  tagViol : Word
  shed : Word
  /-- STAGEREQ.FALLBACK, a pending write of 0, and CLROVR (R17, R47). -/
  fallback : Bool
  fbClear : Bool
  clrovr : Bool
  deriving DecidableEq, Repr

/-- A stage at reset. -/
def StageRt.fresh : StageRt :=
  { state := 0, lastCold := false, recutNow := false, ovc := [], ovTotal := 0, tagViol := 0, shed := 0
    fallback := false, fbClear := false, clrovr := false }

/-- A single-operation freeze, release or write that waits for an input phase (R130, R317); `sess` is the session that made
the request (R129). -/
inductive HostOp where
  | freeze (cn rq stage sess pt : Nat) (v : Word)
  | release (cn rq stage sess pt : Nat)
  | write (cn rq stage : Nat) (ws : List (Nat × Word))
  deriving DecidableEq, Repr

/-- Programs and pending host operations. -/
structure ProgS where
  prog : Table (Option Prog)
  lib : List LibImage
  /-- The location that the next new copy takes (R376). -/
  nextLoc : Nat
  stg : Table StageRt
  ops : List HostOp
  /-- R443: the pending next-start override by stage: true is cold. -/
  override : Table (Option Bool)
  /-- R39: the half-period of the take in which each scene is placed, by class. -/
  place : Table (List (Nat × Nat))
  deriving DecidableEq, Repr

/-! ### The barrier and local I/O (07) -/

/-- One end's judgement of one link (R169, R171). -/
structure LinkEnd where
  expSeq : Half
  synced : Bool
  bad : Bool
  noGood : Nat
  badAt : List Nat
  deriving DecidableEq, Repr

/-- A link as trained. -/
def LinkEnd.good : LinkEnd := ⟨0, false, false, 0, []⟩

/-- One end of the barrier (R169, R172). -/
structure BarEnd where
  a : LinkEnd
  b : LinkEnd
  prevGood : Bool
  noGood : Nat
  loss : Bool
  lossAt : Nat
  /-- R169: slots whose two good copies differed, saturating. -/
  diffs : Byte
  deriving DecidableEq, Repr

/-- Outputs of one class as carried by OUTCMD (R168). -/
structure OutCmd where
  half : Word
  ph : Nat
  doMask : Half
  doVal : Half
  aoMask : BitVec 4
  aoVal : List Word
  complete : Bool
  deriving DecidableEq, Repr

/-- An ACK to send (R168): the command, its SEQ, and the DO and AO states that will apply at its output phase. -/
structure AckS where
  cmd : OutCmd
  seq : Half
  dout : Half
  ao : List Nat
  deriving DecidableEq, Repr

/-- A field-side event that waits for an EVENT frame (R168): code, severity, owner, view and detail. -/
structure FieldEv where
  code : Nat
  sev : Nat
  owner : Nat
  view : Word
  src : Nat
  detail : List Byte
  deriving DecidableEq, Repr

/-- What returning means for a device (R51, R173). -/
inductive RetSt where
  | ok | discard | sendFull | await
  deriving DecidableEq, Repr

/-- Freshness of a device's inputs (R48, R49). -/
structure Fresh where
  /-- The instant of the input phase at which the last value entered. -/
  tr : Nat
  /-- Takes held stale so far. -/
  held : Nat
  stale : Bool
  subst : Bool
  deriving DecidableEq, Repr

/-- Never refreshed: stale since start (R16). -/
def Fresh.start : Fresh := ⟨0, 0, false, false⟩

/-- The barrier and what crosses it. -/
structure BarrierS where
  field : BarEnd
  core : BarEnd
  /-- R171: a BAD link: the instant of its judgement or of its last retraining attempt, and whether it
  has had an attempt. -/
  retrainA : Option (Nat × Bool)
  retrainB : Option (Nat × Bool)
  copiesA : Half
  copiesB : Half
  losses : Byte
  /-- The frames last sent to the field side and to the core, as R166 lays out their bytes. -/
  wireF : List Byte
  wireC : List Byte
  /-- R171: the field side's judgement of the links, BAD or not, as STATUS last reported it. -/
  repA : Bool
  repB : Bool
  /-- OUTCMDs formed at hand-off by class (core side), and whether acknowledged. -/
  outTx : Table (Option (OutCmd × Bool))
  /-- R173, R187: OUTCMDs whose output phase has come, and whether they had their ACK by then. -/
  judged : Table (Option (OutCmd × Bool))
  /-- The SEQ with which each OUTCMD was last sent (R168). -/
  outSeq : Table (Option Half)
  /-- R187: local outputs whose last OUTCMD had no ACK by its output phase. -/
  unacked : List Nat
  /-- R187: classes whose output phase has come since their outputs were last judged. -/
  phased : List Nat
  /-- The DO and AO states that the last ACK reported (R168). -/
  ackDo : Half
  ackAo : List Nat
  /-- INPUT frames of the burst in assembly: SUB and words; the half-period latched. -/
  burst : List (Nat × List Word)
  /-- The complete burst used last, with its latch instant and half-period (R144). -/
  lastBurst : List (Nat × List Word)
  lastHalf : Word
  burstDone : Bool
  /-- SAFSTAT frames of the burst in assembly. -/
  satBurst : List (Nat × List Word)
  /-- Segment 0 as a device (R173). -/
  ret : RetSt
  fresh : Table Fresh
  /-- CONFIG fragments still to send: byte offsets (R174). -/
  cfgResend : Bool
  /-- When the field side acknowledged the last complete OUTCMD (R173). -/
  ackAt : Nat
  /-- R438: the complete OUTCMD of a start is still to be acknowledged; classes whose local outputs have been
  handed off since the start. -/
  startFull : Bool
  handed : List Nat
  deriving DecidableEq, Repr

/-- A digital input on the field side (R182, R183). -/
structure DiS where
  filt : Bool
  wbrk : Bool
  cmpFault : Bool
  deriving DecidableEq, Repr

/-- An input at rest. -/
def DiS.zero : DiS := ⟨false, false, false⟩

/-- A digital output on the field side (R185, R186, R188). -/
structure DoS where
  cmd : Bool
  appl : Bool
  /-- Conditions 1 to 6 present, bit by code. -/
  cond : Byte
  latchedAt : Option Nat
  offSince : Bool
  /-- R42: a pending aligned change: value and target step. -/
  pend : Option (Bool × Nat)
  pulse : Option Nat
  lastPulse : Option Nat
  /-- R188: whether the readback fell in the pulse in progress. -/
  low : Option Bool
  deriving DecidableEq, Repr

/-- An output at rest. -/
def DoS.zero : DoS := ⟨false, false, 0, none, false, none, none, none, none⟩

/-- An analogue output (R191). -/
structure AoS where
  mv : Nat
  dev : Bool
  lim : Bool
  clamp : Bool
  deriving DecidableEq, Repr

/-- An analogue output at rest. -/
def AoS.zero : AoS := ⟨0, false, false, false⟩

/-- An encoder channel (R193). -/
structure EncS where
  pos : Word
  zlat : Word
  qerr : Byte
  zcnt : Half
  zseen : Bool
  qseen : Bool
  fast : Bool
  posFault : Bool
  a : Bool
  b : Bool
  z : Bool
  edges : Nat
  net : Int
  firstAt : Nat
  lastAt : Nat
  sub : Int
  /-- The last rising edge of A, by which the edge rate is judged. -/
  riseA : Option Nat
  deriving DecidableEq, Repr

/-- An encoder at rest. -/
def EncS.zero : EncS :=
  ⟨0, 0, 0, 0, false, false, false, false, false, false, false, 0, 0, 0, 0, 0, none⟩

/-- The local I/O configuration (R175 to R192). Unlisted channels read as their factory word. DESIGN CHOICE, log 55. -/
structure LioCfg where
  gen0 : Word
  gen1 : Word
  di : Table Word
  dout : Table Word
  ai : Table Word
  ao : Table Word
  enc : Table Word
  deriving DecidableEq, Repr

/-- Factory local I/O configuration (R177): BLHOLD 20, DTPER 10, H 2. -/
def LioCfg.factory : LioCfg :=
  { gen0 := 0x0001_4280, gen1 := 2, di := [], dout := [], ai := [], ao := [], enc := [] }

/-- The field side of the local I/O. DESIGN CHOICE, log 30. -/
structure FieldS where
  /-- R175: the configuration in force. -/
  cfg : LioCfg
  /-- R168: the bytes of CONFIG fragments the field side holds, by byte offset. -/
  held : Table Byte
  di : Table DiS
  dout : Table DoS
  aiShunt : Table (Option Nat)
  ao : Table AoS
  enc : Table EncS
  /-- The latch of the last half-period start: filtered and wire-break words, encoder points. -/
  latHalf : Word
  latAt : Nat
  latF : Word
  latW : Word
  latC : Word
  /-- Four points and a flag word (bit 0: FAULT of POS) of each channel. -/
  latEnc : List Word
  /-- DO and AO status at the latch, without what is measured. -/
  latDo : List Word
  latAo : List Word
  latPos : Word
  /-- What the converters measured in the period up to the latch (R190). -/
  latAi : List Word
  /-- OUTCMDs received and not yet applied, with their numbers, in order of arrival. -/
  pend : List (Nat × OutCmd)
  /-- R168: by number, the command to acknowledge, its SEQ, and the DO and AO states that will apply. -/
  acked : Table (Option AckS)
  /-- R172, R174: the barrier-loss state and its hold. -/
  blState : Bool
  blHoldTo : Option Nat
  needFull : Bool
  /-- R456. -/
  overtemp : Bool
  /-- The slate follower (R170): HALFCNT and period in ns. -/
  folHalf : Half
  folPer : Word
  /-- The STAMP last received: phase step, fraction in 1/4,096, and when. -/
  folStep : Nat
  folFrac : Nat
  folAt : Nat
  events : List FieldEv
  temp : Word
  deriving DecidableEq, Repr

/-! ### The safety pair (08) -/

/-- A function's configuration words (R208). -/
structure SfCfg where
  w0 : Word
  w1 : Word
  w2 : Word
  deriving DecidableEq, Repr

/-- A safety parameter set (R209). -/
structure SafSet where
  parid : Word
  sin : List Word
  sq : List Word
  sf : List SfCfg
  crc : Word
  deriving DecidableEq, Repr

/-- A safety input (R201, R202, R224). -/
structure SinS where
  a : Bool
  b : Bool
  failA : Bool
  failB : Bool
  /-- A fault attributed to the input as a whole (R218). -/
  failAll : Bool
  disAt : Option Nat
  fcode : Byte
  missA : Nat
  missB : Nat
  okA : Nat
  okB : Nat
  /-- When the channels last came to agree (R221). -/
  agreeAt : Nat
  deriving DecidableEq, Repr

/-- An open input. -/
def SinS.zero : SinS := ⟨false, false, false, false, false, none, 0, 0, 0, 0, 0, 0⟩

/-- A safety output channel (R204 to R207, R224). -/
structure SqS where
  cmd : Bool
  appl : Bool
  onAt : Nat
  offAt : Nat
  edm : Bool
  edmSince : Nat
  fbDone : Bool
  fail : Bool
  failH : Bool
  failL : Bool
  fcode : Byte
  dark : Table Nat
  okTests : Table Nat
  /-- Switch latched off by QOVL and when, by H 0 or L 1. -/
  ovlAt : Table (Option Nat)
  /-- FBPRE has been raised for the switch-on that is being refused (R204). -/
  pre : Bool
  /-- The faults that stand, switch (H 0, L 1) and code; a feedback fault stands at H (R217, R221). -/
  marks : List (Nat × Nat)
  /-- A switch that was reported low while commanded on (R206, R224). -/
  rbLow : Table Bool
  deriving DecidableEq, Repr

/-- A channel at rest. -/
def SqS.zero : SqS :=
  { cmd := false, appl := false, onAt := 0, offAt := 0, edm := false, edmSince := 0, fbDone := true, fail := false
    failH := false, failL := false, fcode := 0, dark := [], okTests := [], ovlAt := [], pre := false, marks := [], rbLow := [] }

/-- A request bit as the pair sees it (R212). -/
structure ReqS where
  lvl : Bool
  since : Nat
  deriving DecidableEq, Repr

/-- The states of a safety function (R213). -/
inductive SfState where
  | init | safe | armed | run | lockout
  deriving DecidableEq, Repr

/-- A safety function (R213 to R221). -/
structure SfS where
  st : SfState
  si : Bool
  siexp : Bool
  siEnd : Nat
  fcode : Byte
  /-- The fault that put it in LOCKOUT (code and index). -/
  cause : Option (Nat × Nat)
  ackreq : Bool
  locked : Bool
  unlock : Bool
  lockOut : Bool
  demand : Bool
  mslDem : Bool
  outon : Bool
  offSince : Nat
  firstRun : Bool
  /-- Type 4 (R216): first button instant; both released seen since SAFE. -/
  t1 : Option Nat
  first1 : Bool
  reqR : ReqS
  reqA : ReqS
  reqU : Bool
  gotReset : Bool
  gotAck : Bool
  /-- The first fault that acted on it in INIT, code and index, until its start diagnostics end (R222). -/
  initF : Option (Nat × Nat)
  /-- Its LOCKOUT comes from the retained list (R222). -/
  listed : Bool
  /-- It has made the transition of the cycle in progress, and the faults that wait for the next one (R213). -/
  moved : Bool
  held : List (Nat × Nat × Nat)
  deriving DecidableEq, Repr

/-- A function at start (R222). -/
def SfS.zero : SfS :=
  { st := .init, si := false, siexp := false, siEnd := 0, fcode := 0, cause := none, ackreq := false
    locked := false, unlock := false, lockOut := false, demand := false, mslDem := false, outon := false
    offSince := 0, firstRun := true, t1 := none, first1 := false, reqR := ⟨false, 0⟩
    reqA := ⟨false, 0⟩, reqU := false, gotReset := false, gotAck := false, initF := none, listed := false
    moved := false, held := [] }

/-- The safety pair. -/
structure SafetyS where
  /-- R209: the bytes of the committed set (none: the factory set), and the set in force once both
  halves have verified it. -/
  committed : Option (List Byte)
  inForce : Option SafSet
  ins : Table SinS
  sq : Table SqS
  sf : Table SfS
  /-- R196: the inputs as half B samples and filters them, and the functions as it evaluates them; `ins` and `sf` are those
  of half A. The switches, their readback and the mirror contacts are one. -/
  insB : Table SinS
  sfB : Table SfS
  /-- Faults detected and not yet judged: code, index, instant (R213, R217). -/
  pendF : List (Nat × Nat × Nat)
  cmpcnt : Half
  lastDiffer : Bool
  /-- R234: in this cycle a telegram was formed or judged differently by the halves. -/
  rowDiff : Bool
  /-- R217: a ROM, RAM or clock check of a half failed in the last cycle. -/
  selfBad : Bool
  mfcode : Byte
  diag : Bool
  ha : Bool
  hb : Bool
  stand : Half
  faults : Half
  supplyBad : Bool
  tempBad : Bool
  lastSafreq : Nat
  safreqLost : Bool
  /-- R222: the retained lockout list: function, code, SIEXP. -/
  lockList : List (Nat × Byte × Bool)
  /-- R212: request bits of QHP operations: function, bit, end instant. -/
  hostReq : List (Nat × Nat × Nat)
  /-- R212: the request bits read at the last half-period start, bit 3 f + 0 RESET, 1 ACK, 2 UNLOCK. -/
  reqTx : BitVec 24
  /-- R221: the bits whose last request came of a QHP operation. -/
  reqSrc : BitVec 24
  /-- The cycles run, for the frame and second of R201, R206, and when the last one began. -/
  cycle : Nat
  cycAt : Nat
  /-- R201: when the last pulse of a source began, the sources whose pulse has been judged, and those whose readback fault
  stands. -/
  pulseAt : Table (Option Nat)
  pulseSeen : BitVec 4
  srcBad : BitVec 4
  /-- R206, R221: the first cycle in which a switch's off-pulse may be judged again, and its off-test while it is off. -/
  nextOff : Table Nat
  nextTest : Table Nat
  /-- R224: the status words as the last cycle latched them. -/
  latW : Table Word
  /-- Agreeing cycles since the pair's last restart (R396). -/
  agree : Nat
  deriving DecidableEq, Repr

/-! ### MSL (09) -/

/-- A connection entry (R229). -/
structure MslEnt where
  connid : Word
  texp : Nat
  net : Nat
  len : Nat
  pbit : Nat
  addr : Word
  deriving DecidableEq, Repr

/-- An MSL parameter set (R228). -/
structure MslSet where
  parid : Word
  ents : List MslEnt
  crc : Word
  deriving DecidableEq, Repr

/-- The slot states with their codes 0 to 4 (R236, R237). -/
inductive MslSt where
  | unused | idle | opening | run | halt
  deriving DecidableEq, Repr

/-- An MSL slot (R235 to R240, R249). `idle` is CLOSED or LISTEN. -/
structure MslSlot where
  st : MslSt
  own : Word
  peer : Word
  c0 : Word
  openAt : Nat
  /-- Consumer: low half of the last CHECK sent, its instant, and whether one is due. -/
  lastChk : Option Half
  chkAt : Nat
  chkDue : Bool
  /-- Consumer: deadline of the time expectation, and whether it has passed in this cycle. Producer: instant of the last
  good CHECK. -/
  expTo : Nat
  late : Bool
  lastGood : Nat
  applied : List Byte
  pasv : Bool
  fresh : Bool
  echo : Half
  sent : List Byte
  dataDue : Bool
  crcAt : Option Nat
  err : Nat
  crccnt : Byte
  tocnt : Byte
  rxPasv : Bool
  /-- Repetitions discarded (R235). -/
  reps : Nat
  deriving DecidableEq, Repr

/-- An unused slot. -/
def MslSlot.zero : MslSlot :=
  { st := .unused, own := 0, peer := 0, c0 := 0, openAt := 0, lastChk := none, chkAt := 0, chkDue := false
    expTo := 0, late := false, lastGood := 0, applied := [], pasv := false, fresh := false, echo := 0, sent := []
    dataDue := false, crcAt := none, err := 0, crccnt := 0, tocnt := 0, rxPasv := false, reps := 0 }

/-- MSL. -/
structure MslS where
  /-- R228: the bytes of the committed set; none: the factory set, every slot unused. -/
  committed : Option (List Byte)
  inForce : Option MslSet
  slot : Table MslSlot
  gen : Word
  discards : Word
  /-- R249: when each status word last crossed the barrier, and the word. -/
  statAt : Table Nat
  statW : Table Word
  /-- Telegrams on their way: to the pair by slot, and from the pair by slot. -/
  toPair : Table (List Byte)
  fromPair : Table (List Byte)
  /-- Fragments received at the far end, by slot. -/
  rxPair : Table (List Byte)
  rxCore : Table (List Byte)
  /-- Whole telegrams that have crossed to the pair and are not yet judged, slot and bytes, oldest first (R244). -/
  inbox : List (Nat × List Byte)
  /-- Slots whose first OPEN has been forwarded or that have entered LISTEN (R333). -/
  opened : List Nat
  deriving DecidableEq, Repr

/-! ### Ethernet and the field exchange (10) -/

/-- A pause hold (R266, R267): began, ends. -/
structure Hold where
  began : Nat
  ends : Nat
  deriving DecidableEq, Repr

/-- A receive descriptor (R262). -/
structure RxDesc where
  buf : Word
  own : Bool
  stat : Word
  ts : Dword
  deriving DecidableEq, Repr

/-- A transmit descriptor in a ring (R261). -/
structure TxD where
  d : TxDesc
  own : Bool
  err : Nat
  ts : Dword
  /-- The source address of a forwarded frame. -/
  fwd : Option (BitVec 48)
  at_ : Nat
  /-- A frame that the module forms itself (R273, R243): its kind, 6 for a datagram, and its bytes from the EtherType on. -/
  made : Option (Nat × List Byte)
  deriving DecidableEq, Repr

/-- A MAC (R251 to R270). -/
structure Mac where
  linkUp : Bool
  rate : Nat
  cfg : Word
  filt : Table Dword
  txq : Table (List TxD)
  /-- The queue of the frame in progress, its collisions so far, and the instant its back-off ends. -/
  busy : Option Nat
  colls : Nat
  backoff : Option Nat
  /-- The receive ring, from the MAC's position on. -/
  rx : List RxDesc
  hold : Option Hold
  pauseOff : Option Nat
  cnt : Table Word
  /-- Bits 31 that rose: counter interrupts raised (R268). -/
  irq : List Nat
  /-- The upper halves kept by the house firmware (R268). -/
  hi : Table Word
  /-- Uplinks: octets in the 1 s and 100 ms windows, quiet windows, hold and block instants, and a
  renegotiation in progress with the rate advertised and when (R256). -/
  oct1 : Nat × Nat
  oct01 : Nat × Nat
  quiet : Nat
  holdTo : Nat
  failTo : Nat
  reneg : Option (Nat × Nat)
  /-- The link has been up since the start, at `rate` when it was last up. -/
  wasUp : Bool
  deriving DecidableEq, Repr

/-- A MAC at reset: link down, 1000 Mbit/s class of rate recorded as 0. DESIGN CHOICE, log 7. -/
def Mac.zero : Mac :=
  { linkUp := false, rate := 0, cfg := 0x0C80_0003, filt := [], txq := [], busy := none, colls := 0
    backoff := none, rx := [], hold := none, pauseOff := none, cnt := [], irq := [], hi := []
    oct1 := (0, 0), oct01 := (0, 0), quiet := 0, holdTo := 0, failTo := 0, reneg := none, wasUp := false }

/-- A field device entry (R274). -/
structure DevEnt where
  node : Nat
  cls : Nat
  stage : Nat
  mac : BitVec 48
  respto : Nat
  outFirst : Nat
  inFirst : Nat
  outCnt : Nat
  inCnt : Nat
  h : Nat
  f : Nat
  deriving DecidableEq, Repr

/-- What the module keeps for a field device. -/
structure DevRt where
  /-- SEQ and FULL of the last request. -/
  seq : Half
  full : Bool
  ret : RetSt
  fresh : Fresh
  /-- Accepted input values that wait for the input phase (R275), and INVAL. -/
  input : Option (List Word × Half)
  missed : Bool
  /-- Outputs handed off for the next exchange, and those handed off in the take in progress (R40). -/
  outs : List Word
  next : Option (List Word)
  started : Bool
  deriving DecidableEq, Repr

/-- A device not yet exchanged. -/
def DevRt.zero : DevRt := ⟨0, false, .sendFull, Fresh.start, none, false, [], none, false⟩

/-- A segment's window (R275): whether this half-period's is still to open, is open, the entries still to
exchange, the one in exchange, and when its request's FCS ended; none while the request is still to be sent. -/
structure SegWin where
  ready : Bool
  isOpen : Bool
  todo : List Nat
  cur : Option Nat
  reqAt : Option Nat
  deriving DecidableEq, Repr

/-- No window. -/
def SegWin.none : SegWin := ⟨false, false, [], .none, .none⟩

/-- Ethernet, the switch, PTP configuration and the field segments. -/
structure EthS where
  mac : Table Mac
  /-- R253: learned addresses: address, uplink, last refreshed. -/
  learned : List (BitVec 48 × Nat × Nat)
  fwdBytes : Nat
  baseMac : BitVec 48
  dscfg : Table Word
  ptpcfg : Word
  ip : Table Word
  name : List Byte
  ipAddr : Option Word
  dhcpAt : Option Nat
  /-- R274: device entries by segment * 16 + entry, and their state. -/
  dev : Table (Option DevEnt)
  devRt : Table DevRt
  win : Table SegWin
  /-- R243: the Ethernet address last seen with an IPv4 source address, by address; unlisted: none. -/
  nbr : Table (Option (BitVec 48))
  /-- R257: uplinks that are to upshift for an MSL set as soon as they may. -/
  wantUp : List Nat
  deriving DecidableEq, Repr

/-! ### CAN (11) -/

/-- A frame to send: identifier word, data, kind, and the take it belongs to. -/
structure CanTx where
  idw : Word
  data : List Byte
  /-- 0 cyclic, 1 acyclic, 2 sync, 3 MSL. -/
  kind : Nat
  take : Word
  ent : Nat
  enteredAt : Nat
  tried : Bool
  /-- R286, R289: remove when its attempt fails; by an abort-head request. -/
  doomed : Bool
  aborted : Bool
  deriving DecidableEq, Repr

/-- A receive buffer (R292, R294), with the frame's stamp and the instants at which ND and LOST were last set (R7); its arrival
number is in `ArrS`. -/
structure CanBuf where
  idw : Word
  used : Bool
  data : List Byte
  nd : Bool
  lost : Bool
  stamp : Dword
  ndAt : Option Nat
  lostAt : Option Nat
  deriving DecidableEq, Repr

/-- An unused buffer. -/
def CanBuf.zero : CanBuf := ⟨0, false, [], false, false, 0, none, none⟩

/-- A frame table entry (R283). -/
structure CanEnt where
  idw : Word
  tx : Bool
  req : Bool
  dev : Nat
  len : Nat
  first : Nat
  deriving DecidableEq, Repr

/-- A CAN device entry (R283). -/
structure CanDev where
  node : Nat
  stage : Nat
  h : Nat
  f : Nat
  deriving DecidableEq, Repr

/-- A CAN device at run time. -/
structure CanDevRt where
  ret : RetSt
  got : List Nat
  deriving DecidableEq, Repr

/-- A CAN controller (R279 to R299). -/
structure Can where
  nbt : Word
  dbt : Word
  cfg0 : Word
  cfg1 : Word
  sync : Word
  dev : Table (Option CanDev)
  frame : Table (Option CanEnt)
  st : Nat
  /-- TEC and REC (R296). -/
  txe : Nat
  rxe : Nat
  lec : Nat
  pq : List CanTx
  fifo : List CanTx
  /-- R285: when the priority queue last began to hold a frame, and when the bus was last seen to end a frame. -/
  pqAt : Nat
  busAt : Nat
  /-- Whose frame is in an attempt, where that has been settled: the priority queue's or the FIFO's (R286, R289). -/
  att : Option Bool
  buf : Table CanBuf
  sealed : Table (List Byte)
  headlong : Bool
  /-- R290: since when the FIFO has held a frame and sent none; R299: since when its head has waited. -/
  holdSince : Option Nat
  headSince : Option Nat
  recreq : Bool
  abortReq : Bool
  prevAbort : Bool
  prevRecover : Bool
  cnt : Table Word
  undel : Table Bool
  /-- R40: the values handed off in the take in progress, by frame entry; unlisted: none. -/
  handed : Table (Option (List Word))
  devRt : Table CanDevRt
  fresh : Table Fresh
  syncAt : Nat
  deriving DecidableEq, Repr

/-- A controller at factory configuration (R280, R282), off. -/
def Can.factory : Can :=
  { nbt := 0x007E_3E7C, dbt := 0x0726_6780, cfg0 := 0x1403_0000, cfg1 := 0, sync := 1
    dev := [], frame := [], st := 0, txe := 0, rxe := 0, lec := 0, pq := [], fifo := [], pqAt := 0, busAt := 0, att := none
    buf := [], sealed := [], headlong := false, holdSince := none, headSince := none, recreq := false, abortReq := false
    prevAbort := false, prevRecover := false, cnt := [], undel := [], handed := [], devRt := [], fresh := [], syncAt := 0 }

/-! ### Stages, hosts and transactions (12) -/

/-- STGCFG0 to STGCFG5 of a stage as words (R300). -/
structure StgCfg where
  c0 : Word
  c1 : Word
  c2 : Word
  c3 : Word
  c4 : Word
  c5 : Word
  deriving DecidableEq, Repr

/-- A principal (R303). -/
structure Principal where
  num : Nat
  key : BitVec 256
  stage : Nat
  roles : Half
  deriving DecidableEq, Repr

/-- A subscription (R318). -/
structure Sub where
  num : Nat
  pts : List Nat
  minint : Nat
  /-- Values and qualities last sent, by point. -/
  last : Table (Option PV)
  lastAt : Option Nat
  queued : Option (List (Nat × PV))
  gap : Bool
  /-- The points of NOTIFYs that were shed: the next one carries them (R318). -/
  owed : List Nat
  queuedAt : Nat
  deriving DecidableEq, Repr

/-- A queued request of categories R, S, E, X (R331). -/
inductive Req where
  | read (pts : List Nat)
  | subscribe (pts : List Nat) (minint : Nat)
  | unsubscribe (sub : Nat)
  | notify (sub : Nat)
  | loopread (loops : List Nat)
  | evread (start : Option Word) (back : Bool) (n minsev : Nat)
  | statread
  deriving DecidableEq, Repr

/-- A queue entry. `cat`: 0 R, 1 S, 2 E, 3 X. -/
structure QEnt where
  cn : Nat
  rq : Nat
  cat : Nat
  cost : Nat
  at_ : Nat
  req : Req
  deriving DecidableEq, Repr

/-- A connection and its session (R308 to R312). -/
structure Conn where
  port : Port
  tls : Bool
  key : BitVec 256
  at_ : Nat
  /-- Session number, stage, principal and roles once logged in. -/
  sess : Option Nat
  stage : Nat
  principal : Nat
  roles : Half
  lastMsg : Nat
  bad : Nat
  outstanding : Nat
  subs : List Sub
  nextSub : Nat
  deriving DecidableEq, Repr

/-- A stage's admission state (R331, R332). -/
structure Admit where
  /-- Tokens, times 25,000,000, as of `at_`. -/
  tok : Nat
  at_ : Nat
  queue : List QEnt
  win : Option Nat
  busy : Nat
  shedN : Nat
  inFlight : Nat
  deriving DecidableEq, Repr

/-- A stage with an empty queue and an empty bucket (filled at service opening). -/
def Admit.zero : Admit := ⟨0, 0, [], none, 0, 0, 0⟩

/-- A DEVREQ (R319). -/
structure DevReq where
  cn : Nat
  rq : Nat
  stage : Nat
  toMs : Nat
  txid : Nat
  rxid : Nat
  data : List Byte
  seq : Half
  /-- When the device exchange started; none while it waits (R20, R319). Its frame has been sent. -/
  startAt : Option Nat
  sent : Bool
  /-- The CAN receive buffer 56 to 63 of the reply (R292). -/
  buf : Nat
  deriving DecidableEq, Repr

/-- What the module sends, newest first in `out`. `resp`: connection, request, operation, status, words. -/
inductive Out where
  | greeting (cn state retry : Nat)
  | resp (cn rq op status retry : Nat) (pay : List Word)
  /-- A notification with the house time at which it is sent (R336). -/
  | note (cn op sub status : Nat) (gap : Bool) (stamp : Dword) (pay : List Word)
  | closed (cn : Nat)
  | discovery (port : Port) (state : Nat) (pay : List Word)
  /-- A frame on the wire (R251, R260): MAC and queue, destination and source, length with FCS, the bytes from the EtherType
  on of a frame that the module forms itself, and the buffers of one that firmware or the switch gave. -/
  | frame (mac q : Nat) (da sa : BitVec 48) (len : Nat) (bytes : List Byte) (bufs : List Word)
  /-- A read of a live CAN buffer (R294): ND as read, LOST, identifier word and data. -/
  | buffer (c buf : Nat) (nd lost : Bool) (idw : Word) (data : List Byte)
  | recovery (host op status seq offset : Nat) (pay : List Byte)
  deriving DecidableEq, Repr

/-- A countersignature (R329). -/
structure Sig where
  principal : Nat
  key : BitVec 256
  roles : Half
  at_ : Nat
  /-- The signature itself, its first byte in bits 7 to 0 (R329). -/
  bits : BitVec 512
  deriving DecidableEq, Repr

/-- A stage's open transaction (R320 to R325). -/
structure Tx where
  num : Word
  entries : List Entry
  partial_ : Option (List Byte)
  sigs : List Sig
  at_ : Nat
  svcFree : Bool
  deriving DecidableEq, Repr

/-- A committed transaction that waits for its boundary (R323, R324). -/
structure Commit where
  stage : Nat
  num : Word
  cn : Nat
  /-- The session that committed (R129). -/
  sess : Nat
  entries : List Entry
  full : Bool
  classes : List Nat
  deriving DecidableEq, Repr

/-- Stages, hosts, sessions and transactions. -/
structure HostS where
  stg : Table StgCfg
  principals : List Principal
  commissioning : Bool
  conns : Table (Option Conn)
  adm : Table Admit
  devReq : Table (List DevReq)
  devUsed : Nat
  opsHigh : Nat
  discN : Table (Nat × Nat)
  tx : Table (Option Tx)
  ended : List Nat
  commits : List Commit
  nextTx : Word
  logpub : List (Nat × Word)
  svcOpen : Bool
  tenants : Bool
  openAt : Nat
  loginFails : List Nat
  /-- Commits that wait for the swap of their stage's storage key: connection, request and stage (R380). -/
  swapWait : List (Nat × Nat × Nat)
  deriving DecidableEq, Repr

/-! ### Time (13) -/

/-- An alarm (R351 to R355). -/
structure Alarm where
  w0 : Word
  w1 : Word
  w2 : Word
  hw : Int
  fired : Half
  late : Bool
  rpt : Bool
  pend : Option (Word × Word × Word)
  deriving DecidableEq, Repr

/-- An alarm at its factory value (R351). -/
def Alarm.factory : Alarm := ⟨0x07D0_0101, 0x0100_0000, 0x0000_007F, 0, 0, false, false, none⟩

/-- The RTC domain. -/
structure RtcS where
  count : BitVec 40
  incAt : Nat
  fracHeld : Option (BitVec 24)
  osf : Bool
  /-- R340: untrusted for want of PTP lock. -/
  holdUntr : Bool
  oscStopped : Bool
  vbatLow : Bool
  localOfs : Int
  pendOfs : Option Int
  dst : Option (Bool × Nat)
  leap : Option (Nat × Bool)
  repeated : Bool
  timecfg : Word
  ptpLocked : Bool
  ptpGood : Nat
  lastSync : Option Nat
  /-- The standing of the master selected (R271). -/
  master : Option Nat
  lastLock : Option Nat
  ptpStep : Option Int
  /-- The slew of house time against the 25 MHz crystal, in 10^-9: at most 200,000 either way (R350). -/
  rate : Int
  alarms : Table Alarm
  /-- TIMESTAT [0] became set during the outage (R439, R440). -/
  osfOutage : Bool
  /-- The latched time points 0x0004 to 0x000C (R338). -/
  latched : List PV
  /-- A start's first increment is still to come (R440). -/
  startJump : Bool
  deriving DecidableEq, Repr

/-! ### The continuity log (14) -/

/-- A record (R357), without its CRC, which its other bytes give. -/
structure Rec where
  rseq : Word
  arr : Word
  time : Dword
  code : Nat
  sev : Nat
  noclr : Bool
  summ : Bool
  rpt : Bool
  untr : Bool
  src : Nat
  owner : Nat
  view : Word
  detail : List Byte
  deriving DecidableEq, Repr

/-- A rate-limit window (R362 to R364). `band`: 0 module or low band, 1 high band, 2 catch-all. -/
structure LogWin where
  owner : Nat
  code : Nat
  prog : Bool
  band : Nat
  start : Nat
  len : Nat
  limit : Nat
  stored : Nat
  supp : Nat
  maxSev : Nat
  first : Dword
  last : Dword
  view : Word
  src : Nat
  deriving DecidableEq, Repr

/-- The continuity log. -/
structure LogS where
  /-- The MRAM ring, oldest first, with the archived mark. -/
  ring : List (Rec × Bool)
  archive : List Rec
  next : Word
  dropped : Word
  overwr : Word
  overwr7 : Word
  archlost : Word
  wins : List LogWin
  archFailed : Bool
  deriving DecidableEq, Repr

/-! ### Keys (15) -/

/-- A key store slot as it lies in MRAM (R375): the key only as it is wrapped under the KEK. -/
structure KeySlot where
  slot : Nat
  kind : Nat
  owner : Nat
  st : Nat
  gen : Word
  wrapped : BitVec 320
  kcv : Word
  created : Dword
  crc : Word
  deriving DecidableEq, Repr

/-- An empty slot: zeros. -/
def KeySlot.empty : KeySlot := ⟨0, 0, 0, 0, 0, 0, 0, 0, 0⟩

/-- The helper data and the check value (R373): the 6 KiB are a code offset of the root that they hide and of the response at
the enrolment, which is stored nowhere; what they add to a response is that root. DESIGN CHOICE, log 67. -/
structure Helper where
  root : BitVec 256
  check : BitVec 256
  deriving DecidableEq, Repr

/-- The certificate of the device key (R376): the public key, the station address as subject name, and whether the module has
signed it itself. -/
structure Cert where
  pub : BitVec 256
  subject : BitVec 48
  selfSigned : Bool
  deriving DecidableEq, Repr

/-- The jobs of the unit, by the rows of R379. -/
inductive JobKind where
  | gcm | wrap | hmac | x25519 | sign | verify | sha
  deriving DecidableEq, Repr

/-- The key that a job unwraps: none, one of a slot, or one of a connection's. -/
inductive JobKey where
  | unkeyed
  | store (slot : Nat)
  | conn (cn : Nat)
  deriving DecidableEq, Repr

/-- A job (R378); `copy`: the stage and location of the copy whose re-encryption it completes. -/
structure KeyJob where
  kind : JobKind
  key : JobKey
  copy : Option (Nat × Nat)
  deriving DecidableEq, Repr

/-- A key replacement in progress (R380); `old`: the key that is replaced, as it was wrapped, unless it had failed. -/
structure KeyRepl where
  slot : Nat
  staging : Nat
  kind : Nat
  owner : Nat
  old : Option (BitVec 320)
  deriving DecidableEq, Repr

/-- The key unit and the security alarm. -/
structure KeyS where
  root : Option (BitVec 256)
  kek : Option (BitVec 256)
  /-- What the working key register holds. -/
  working : Option JobKey
  helper : Option Helper
  cert : Option Cert
  slots : Table KeySlot
  /-- The queues S and B, and what waits at the producers of each. -/
  qs : List KeyJob
  qb : List KeyJob
  waitS : List KeyJob
  waitB : List KeyJob
  job : Option KeyJob
  lastB : Bool
  repl : Option KeyRepl
  todo : List Nat
  pol0 : Word
  pol1 : Word
  sec0 : Word
  sec1 : Word
  latched : BitVec 6
  loopOpen : Bool
  locked : Bool
  erased : Bool
  keyloss : Bool
  /-- Latched by the always-on domain or fired while down; applied at the next start (R382). -/
  vbatTamper : Bool
  /-- A signature failure that the ROM has found, at a start or in recovery; applied once the firmware runs (R382, R391). -/
  sigPend : Bool
  deriving DecidableEq, Repr

/-! ### Update and recovery (16) -/

/-- A firmware image as its bank holds it (R390). -/
structure Bank where
  valid : Bool
  /-- The ROM's verdict at the last start that checked it (R391, R401). -/
  romOk : Bool
  bytes : List Byte
  version : Word
  provides : Half
  imgfmt : Half
  epoch : Word
  accepts : List (Half × Half)
  deriving DecidableEq, Repr

/-- An erased bank. DESIGN CHOICE, log 9. -/
def Bank.erased : Bank := ⟨false, true, [], 0, 0, 0, 0, []⟩

/-- The image set delivered at manufacture: it accepts any level. DESIGN CHOICE, log 9. -/
def Bank.factory : Bank := ⟨true, true, [], 0, 0, 0, 0, []⟩

/-- An update in progress (R395 to R398). -/
structure Upd where
  mask : BitVec 6
  steps : List Nat
  doneSteps : List Nat
  cur : Option Nat
  activated : Bool
  activatedAt : Nat
  autoconf : Bool
  proofwin : Nat
  /-- The self checks of the house firmware have passed (R396). -/
  checked : Bool
  /-- What a proof forbids has happened since the activation (R396). -/
  spoilt : Bool
  rollback : Bool
  code : Nat
  bursts : Nat
  takes : Nat
  cn : Nat
  startSet : List (Nat × Bool)
  /-- The step whose failure began the rollback (R398). -/
  failed : Nat
  deriving DecidableEq, Repr

/-- A recovery session (R406). -/
structure RecSess where
  host : Nat
  lastSeen : Nat
  kind : Nat
  bankB : Bool
  /-- The length announced, and the bytes written so far; kind 0: no load in progress. -/
  total : Nat
  offset : Nat
  /-- The kinds loaded in this session and the banks that hold them: true is B. -/
  loaded : List (Nat × Bool)
  deriving DecidableEq, Repr

/-- Banks, update and recovery. -/
structure UpdS where
  /-- Banks by kind * 2 + (0 A, 1 B); unlisted: erased. -/
  bank : Table Bank
  /-- The bank in service by kind: true is B. -/
  inB : Table Bool
  floor : Table Word
  bootCnt : Nat
  bootFail : Nat
  bootPrev : Nat
  load : Option (Nat × Nat)
  upd : Option Upd
  lastErr : Nat
  /-- An UPDRECOVER has been accepted (R403). -/
  recover : Bool
  /-- The cause of a recovery that is still to be recorded (R403). -/
  cause : Option Nat
  sess : Option RecSess
  restartAt : Option Nat
  /-- IMGFMT under which retained state was written (R442), kinds 4 and 5. -/
  fmt4 : Half
  fmt5 : Half
  deriving DecidableEq, Repr

/-! ### Integrity (17) -/

/-- Self-repair and prediction. -/
structure IntegS where
  /-- R413: retirements in service by pair (0, 1, 2), and marginal rotations in a row (R412). -/
  retCount : Table Nat
  marginal : Table Nat
  rotFailN : Bool
  rotFailS : Bool
  /-- R415: cores in service, which pair is active (true: the spare), held work, last checkpoint. -/
  cores : BitVec 4
  spareActive : Bool
  issued : List Out
  ckptAt : Nat
  eccSram : Word
  eccMram : Word
  rowSpare : Nat
  rowHist : List (Nat × Nat × Nat)
  nandFree : Nat
  nandOut : Bool
  ageMargin : Word
  predicted : List Nat
  modstate : Nat
  /-- R420: a start found more failing rows than spares. -/
  holdRows : Bool
  placeCheck : Bool
  tested : Bool
  /-- The self test's pairs passed and rows repaired, to be recorded when service opens (R419). -/
  bist : Option (Nat × Nat)
  /-- R417: configuration regions with both copies bad: 0 tags, 1 stages, 2 networks and other configuration,
  3 boot and update state. -/
  cfgBad : List Nat
  deriving DecidableEq, Repr

/-! ### Power (18, 19) -/

/-- Whether the module is down, up, or in ROM recovery. -/
inductive PMode where
  | down | up | recovery
  deriving DecidableEq, Repr

/-- Power, reset and start. -/
structure PowerS where
  mode : PMode
  rstn : Bool
  vin : Word
  dip : Option (Nat × Nat)
  lastDipEnd : Option Nat
  lowVin : Word
  tpf : Option Nat
  mtTpf : Option Dword
  aTpf : Nat
  /-- The last retained MT (R439). -/
  mtLast : Dword
  mtBase : Dword
  mtAt : Nat
  pfw : Bool
  aux : Bool
  auxOffAt : Option Nat
  auxFault : Bool
  goodAt : Nat
  cause : Nat
  firstPower : Bool
  pin : Word
  stepReached : Nat
  deriving DecidableEq, Repr

/-! ### The whole module -/

/-- Arrival numbers (R53): the next one, the clock at which the last items were numbered with the ranks of their sources in
ascending order, and the numbers of the frames in CAN receive buffers, by controller * 64 + buffer. -/
structure ArrS where
  next : Word
  at_ : Nat
  ranks : List Nat
  can : Table Word
  deriving DecidableEq, Repr

/-- The module. `pending` is the queue of commands, first in, first out. -/
structure State where
  pending : List Instr
  now : Nat
  /-- The model's own count of free values drawn. -/
  freeCtr : Nat
  /-- R53: the module-wide arrival numbers. -/
  arrSeq : ArrS
  /-- R2: the variant fuses. -/
  variant : Byte
  out : List Out
  points : PointS
  slate : SlateS
  takes : Table ClassTake
  eng : EngineS
  progs : ProgS
  loops : LoopS
  bar : BarrierS
  field : FieldS
  saf : SafetyS
  msl : MslS
  eth : EthS
  can : Table Can
  host : HostS
  rtc : RtcS
  log : LogS
  keys : KeyS
  upd : UpdS
  integ : IntegS
  power : PowerS
  deriving DecidableEq, Repr

/-- STGCFG of a stage at the factory (R300), on a variant with `loops` loops. DESIGN CHOICE, log 9. -/
def StgCfg.factory (loops stage : Nat) : StgCfg :=
  if stage = 0 then
    { c0 := 0x80C4_0A00, c1 := BitVec.ofNat 32 (loops <<< 11), c2 := 0x0004_0000, c3 := 0x0008_0000
      c4 := 0x9C40_1F40, c5 := 0x2018_0000 }
  else { c0 := 0x00C0_0A00, c1 := 0, c2 := 0, c3 := 0, c4 := 0, c5 := 0 }

/-- The module right after a power-on reset, in its factory state, before power-good (R429, R436). Where
the manual gives no reset value the log entries 4 to 9 name the one taken here. -/
def State.reset : State where
  pending := []
  now := 0
  freeCtr := 0
  arrSeq := { next := 0, at_ := 0, ranks := [], can := [] }
  variant := 1
  out := []
  points := { pts := [], retained := [], tags := [], frz := [], uecc := [] }
  slate :=
    { mode := .nominal, nom60C := false, freeC := false, nom60F := false, freeF := false, cls := []
      started := false, startAt := 0, halfStart := 0, period := 500_000, flyPer := 500_000, halfcnt := 0
      lastCross := none, lastPer := none, firstAfter := true, missing := false, run8 := 0, lockRun := 0
      lastPlaus := none, mainsPer := 0, slatePer := 0, mainsFreq := 0, phErr := 0, mainsAmp := 0
      lockLoss := 0, implaus := 0, slewRate := 0 }
  takes := []
  eng :=
    { run := [], inService := 0x1FF, retired := 0, scene := none, slots := [], waiting := []
      recovered := 0, flt := [], timers := [], counters := [], codeUecc := [] }
  progs := { prog := [], lib := [], nextLoc := 0, stg := [], ops := [], override := [], place := [] }
  loops := { desc := [], rt := [], due := [], kept := [], keptDue := [], sampled := none, inService := true, katDue := false, ddAt := [], open_ := false }
  bar :=
    { field := ⟨LinkEnd.good, LinkEnd.good, true, 0, false, 0, 0⟩
      core := ⟨LinkEnd.good, LinkEnd.good, true, 0, false, 0, 0⟩
      retrainA := none, retrainB := none, copiesA := 0, copiesB := 0, losses := 0, wireF := [], wireC := [], repA := false, repB := false
      outTx := [], judged := [], outSeq := [], unacked := [], phased := [], ackDo := 0, ackAo := []
      burst := [], lastBurst := [], lastHalf := 0, burstDone := false, satBurst := [], ret := .ok
      fresh := [], cfgResend := false, ackAt := 0, startFull := true, handed := [] }
  field :=
    { cfg := LioCfg.factory, held := [], di := [], dout := [], aiShunt := [], ao := [], enc := []
      latHalf := 0, latAt := 0, latF := 0, latW := 0, latC := 0, latEnc := [], latDo := [], latAo := [], latPos := 0, latAi := [], pend := []
      acked := [], blState := true, blHoldTo := none, needFull := true, overtemp := false, folHalf := 0
      folPer := 0, folStep := 0, folFrac := 0, folAt := 0, events := [], temp := 0 }
  saf :=
    { committed := none, inForce := none, ins := [], sq := [], sf := [], insB := [], sfB := [], pendF := [], cmpcnt := 0
      lastDiffer := false, rowDiff := false, selfBad := false, mfcode := 0, diag := false, ha := false, hb := false, stand := 0, faults := 0
      supplyBad := false, tempBad := false, lastSafreq := 0, safreqLost := false, lockList := []
      hostReq := [], reqTx := 0, reqSrc := 0, cycle := 0, cycAt := 0, pulseAt := [], pulseSeen := 0, srcBad := 0, nextOff := []
      nextTest := [], latW := []
      agree := 0 }
  msl :=
    { committed := none, inForce := none, slot := [], gen := 0, discards := 0, statAt := [], statW := []
      toPair := [], fromPair := [], rxPair := [], rxCore := [], inbox := [], opened := [] }
  eth :=
    { mac := [], learned := [], fwdBytes := 0, baseMac := 0, dscfg := [], ptpcfg := 4, ip := [], name := []
      ipAddr := none, dhcpAt := none, dev := [], devRt := [], win := [], nbr := [], wantUp := [] }
  can := []
  host :=
    { stg := [], principals := [], commissioning := true, conns := [], adm := [], devReq := []
      devUsed := 0, opsHigh := 0, discN := [], tx := [], ended := [], commits := [], nextTx := 1, logpub := []
      svcOpen := false, tenants := false, openAt := 0, loginFails := [], swapWait := [] }
  rtc :=
    { count := 0, incAt := 0, fracHeld := none, osf := true, holdUntr := false, oscStopped := false, vbatLow := false
      localOfs := 0, pendOfs := none, dst := none, leap := none, repeated := false, timecfg := 0x003C_2502
      ptpLocked := false, ptpGood := 0, lastSync := none, master := none, lastLock := none, ptpStep := none, rate := 0
      alarms := [], osfOutage := false, latched := [], startJump := false }
  log :=
    { ring := [], archive := [], next := 0, dropped := 0, overwr := 0, overwr7 := 0, archlost := 0
      wins := [], archFailed := false }
  keys :=
    { root := none, kek := none, working := none, helper := none, cert := none
      slots := [], qs := [], qb := [], waitS := [], waitB := [], job := none, lastB := false
      repl := none, todo := [], pol0 := 0, pol1 := 0, sec0 := 10, sec1 := 0x003C_0000, latched := 0
      loopOpen := false, locked := false, erased := false, keyloss := true, vbatTamper := false
      sigPend := false }
  upd :=
    { bank := [(2, Bank.factory), (4, Bank.factory), (6, Bank.factory), (8, Bank.factory),
        (10, Bank.factory), (12, Bank.factory)]
      inB := [], floor := [], bootCnt := 0, bootFail := 0, bootPrev := 0, load := none, upd := none
      lastErr := 0, recover := false, cause := none, sess := none, restartAt := none, fmt4 := 0, fmt5 := 0 }
  integ :=
    { retCount := [], marginal := [], rotFailN := false, rotFailS := false, cores := 0xF
      spareActive := false, issued := [], ckptAt := 0, eccSram := 0, eccMram := 0, rowSpare := 168
      rowHist := [], nandFree := 3360, nandOut := false, ageMargin := 0, predicted := [], modstate := 0
      holdRows := false, placeCheck := false, tested := false, bist := none, cfgBad := [] }
  power :=
    { mode := .down, rstn := true, vin := 0, dip := none, lastDipEnd := none, lowVin := 0, tpf := none
      mtTpf := none, aTpf := 0, mtLast := 0, mtBase := 0, mtAt := 0, pfw := true, aux := false
      auxOffAt := none, auxFault := false, goodAt := 0, cause := 0, firstPower := true, pin := 0
      stepReached := 0 }

end Sys2Proof.Machine
end

