-- ==== Sys2Proof/Machine/Ops.lean ====
section
/-! DEFINITION. The named operations over the state: tables, bit fields, byte strings and CRCs, the
clock, free values, the stage and point lookups that every family uses. -/

namespace Sys2Proof.Machine
open Sys2Proof

/-! ### Tables -/

/-- The value at a key; `d` where the key is not listed. -/
def Table.get {α : Type} (d : α) : Table α → Nat → α
  | [], _ => d
  | (k, v) :: t, a => if k = a then v else Table.get d t a

/-- The table with key `a` set to `v`; a key set to the default is not listed. -/
def Table.set {α : Type} [DecidableEq α] (d : α) : Table α → Nat → α → Table α
  | [], a, v => if v = d then [] else [(a, v)]
  | (k, w) :: t, a, v =>
    if a < k then (if v = d then (k, w) :: t else (a, v) :: (k, w) :: t)
    else if a = k then (if v = d then t else (a, v) :: t)
    else (k, w) :: Table.set d t a v

/-- Every listed key is at or above `lo`, the keys rise strictly and no listed value is the default. -/
def Table.wfFrom {α : Type} [DecidableEq α] (d : α) : Nat → Table α → Bool
  | _, [] => true
  | lo, (k, v) :: t => decide (lo ≤ k) && !decide (v = d) && Table.wfFrom d (k + 1) t

/-- The canonical form of a table. -/
def Table.wf {α : Type} [DecidableEq α] (d : α) (t : Table α) : Bool := Table.wfFrom d 0 t

/-- The table with the value at a key changed by `f`. -/
def Table.upd {α : Type} [DecidableEq α] (d : α) (t : Table α) (a : Nat) (f : α → α) : Table α :=
  Table.set d t a (f (Table.get d t a))

/-! ### Bits and bytes -/

/-- Bits [hi:lo] as a number. -/
def bitsOf {n : Nat} (w : BitVec n) (hi lo : Nat) : Nat := (w.toNat >>> lo) % 2 ^ (hi - lo + 1)

/-- Bit `i` of a number. -/
def natBit (v i : Nat) : Bool := (v >>> i) % 2 == 1

/-- One bit as a number. -/
def b2n (b : Bool) : Nat := if b then 1 else 0

/-- A word with bits [hi:lo] replaced. -/
def setBits (w : Word) (hi lo v : Nat) : Word :=
  let m := (2 ^ (hi - lo + 1) - 1) <<< lo
  (w &&& ~~~(BitVec.ofNat 32 m)) ||| BitVec.ofNat 32 ((v <<< lo) % 2 ^ 32 &&& m)

/-- A word with one bit replaced. -/
def setBit (w : Word) (i : Nat) (b : Bool) : Word := setBits w i i (b2n b)

/-- `n` bytes of a number, least significant first. -/
def bytesLE : Nat → Nat → List Byte
  | 0, _ => []
  | n + 1, v => BitVec.ofNat 8 v :: bytesLE n (v >>> 8)

/-- The number that bytes spell, least significant first. -/
def natLE : List Byte → Nat
  | [] => 0
  | b :: t => b.toNat + natLE t * 256

/-- `n` bytes at an offset as a number; absent bytes are 0. -/
def getLE (bs : List Byte) (off n : Nat) : Nat := natLE ((bs.drop off).take n)

/-- One step of a reflected CRC register. -/
def crcBit (poly c : BitVec 32) : BitVec 32 :=
  if c.getLsbD 0 then (c >>> 1) ^^^ poly else c >>> 1

/-- Eight steps after a byte enters. -/
def crcByte (poly c : BitVec 32) (b : Byte) : BitVec 32 :=
  let c := c ^^^ b.setWidth 32
  let f := crcBit poly
  f (f (f (f (f (f (f (f c)))))))

/-- A reflected CRC over bytes, initial value and final exclusive-or all ones. -/
def crcRefl (poly : BitVec 32) (bs : List Byte) : Word :=
  ~~~(bs.foldl (crcByte poly) (BitVec.allOnes 32))

/-- CRC-32 of IEEE 802.3 (R167). -/
def crc32 (bs : List Byte) : Word := crcRefl 0xEDB8_8320 bs

/-- CRC-32C (R233). -/
def crc32c (bs : List Byte) : Word := crcRefl 0x82F6_3B78 bs

/-- Signed limits of a width (R150). -/
def satTo (bits : Nat) (v : Int) : Int :=
  if v > 2 ^ (bits - 1) - 1 then 2 ^ (bits - 1) - 1 else if v < -2 ^ (bits - 1) then -2 ^ (bits - 1) else v

/-- v / 2^k to the nearest integer, a tie to the even one (R150). -/
def rhe (v : Int) (k : Nat) : Int :=
  let q := v / 2 ^ k
  let r := v % 2 ^ k
  if 2 * r > 2 ^ k then q + 1
  else if 2 * r = 2 ^ k then (if q % 2 = 0 then q else q + 1)
  else q

/-! ### Time on the model's clock -/

/-- The quotient rounded up. -/
def ceilDiv (n k : Nat) : Nat := (n + k - 1) / k

/-- Ticks of 40 ns in a microsecond, a millisecond and a second. -/
def usT (n : Nat) : Nat := n * 25
def msT (n : Nat) : Nat := n * 25_000
def secT (n : Nat) : Nat := n * 25_000_000

/-- Ticks of the crystal as house time counts them at a slew (R350). -/
def slewed (rate : Int) (n : Nat) : Nat := n * (1_000_000_000 + rate).toNat / 1_000_000_000

/-- Ticks of the crystal in which house time counts `n` at a slew. -/
def unslewed (rate : Int) (n : Nat) : Nat := n * 1_000_000_000 / (1_000_000_000 + rate).toNat

/-- House time at a tick (R336, R337): the count and the fraction, which runs at the slew of R350 and holds at its greatest
value; before the last increment, by the seconds that lie between. -/
def houseTimeAt (s : State) (t : Nat) : Dword :=
  let back := ceilDiv (s.rtc.incAt - t) 25_000_000
  let frac := min (slewed s.rtc.rate (t + back * 25_000_000 - s.rtc.incAt) * 2 ^ 24 / 25_000_000) 0xFF_FFFF
  BitVec.ofNat 64 ((s.rtc.count.toNat - back) * 2 ^ 24 + frac)

/-- House time now. -/
def houseTime (s : State) : Dword := houseTimeAt s s.now

/-- The monotonic microsecond count (R65, R439). -/
def mtNow (s : State) : Dword := s.power.mtBase + BitVec.ofNat 64 ((s.now - s.power.mtAt) / 25)

/-- The always-on tick count A at 32.768 kHz (R439). -/
def alwaysOn (s : State) : Nat := s.now * 32_768 / 25_000_000

/-! ### Free values, answers, gates -/

/-- The next free value and the state after drawing it (log entry 2). -/
def draw (s : State) : Dword × State := (Config.free s.freeCtr, { s with freeCtr := s.freeCtr + 1 })

/-- A free value in [lo, lo + span). DESIGN CHOICE, log 2. -/
def drawIn (lo span : Nat) (s : State) : Nat × State :=
  (lo + (Config.free s.freeCtr).toNat % span, { s with freeCtr := s.freeCtr + 1 })

/-- What the application cores issue waits for their next checkpoint (R415); the segment MACs' own frames and
the ROM's datagrams do not. DEDUCED, log 12. -/
def Out.held : Out → Bool
  | .frame _ _ _ _ _ _ _ => false
  | .buffer _ _ _ _ _ _ => false
  | .recovery _ _ _ _ _ _ => false
  | _ => true

/-- The module sends something. DEDUCED, log 12. -/
def emit (o : Out) (s : State) : State :=
  if o.held then { s with integ := { s.integ with issued := o :: s.integ.issued } } else { s with out := o :: s.out }

/-- The house firmware runs: a core pair is in service (R425), and the cores are up again after an activation of
their image (R396). -/
def coresUp (s : State) : Bool := s.integ.cores != 0 && decide (s.power.goodAt ≤ s.now)

/-- What the proof of an update step forbids has happened while a step of one of these kinds is being proven
(R396). -/
def spoilProof (kinds : List Nat) (s : State) : State :=
  { s with upd := { s.upd with upd := s.upd.upd.map (fun (u : Upd) => match u.cur with
    | some k => if u.activated && kinds.contains k then { u with spoilt := true } else u
    | none => u) } }

/-- The meaning of an event that only a running module has. DESIGN CHOICE, log 10. -/
def whenUp (s : State) (f : State → State) : Host.Outcome State Fault Refusal :=
  if s.power.mode = .up then .next (f s) else .next s

/-- The meaning of an event under a condition. DESIGN CHOICE, log 10. -/
def whenUpAnd (s : State) (c : Bool) (f : State → State) : Host.Outcome State Fault Refusal :=
  if s.power.mode = .up ∧ c = true then .next (f s) else .next s

/-- The meaning of an event of the internal switch, which also runs in recovery (R404). -/
def whenSwitch (s : State) (c : Bool) (f : State → State) : Host.Outcome State Fault Refusal :=
  if s.power.mode ≠ .down ∧ c = true then .next (f s) else .next s

/-! ### Arrival numbers (R53) -/

/-- A number of the last `k` rises by one from `n` on: an earlier source has arrived in the same clock. -/
def raiseArr (n : Word) (k : Nat) (a : Word) : Word := if (a - n).toNat < k then a + 1 else a

/-- An item of a source is numbered behind the items of this clock whose sources do not rank after its own; the later ones
move up by one. The number, and the state with it given. -/
def nextArr (rank : Nat) (s : State) : Word × State :=
  let a := s.arrSeq
  let ranks := if a.at_ = s.now then a.ranks else []
  let before := ranks.takeWhile (fun r => decide (r ≤ rank))
  let later := ranks.drop before.length
  let n := a.next - BitVec.ofNat 32 later.length
  (n, { s with
    arrSeq :=
      { next := a.next + 1, at_ := s.now, ranks := before ++ rank :: later
        can := a.can.foldl (fun t e => Table.set 0 t e.1 (raiseArr n later.length e.2)) [] }
    log := { s.log with ring := s.log.ring.map (fun e => ({ e.1 with arr := raiseArr n later.length e.1.arr }, e.2)) } })

/-! ### Variant limits (R1) -/

def isS (s : State) : Bool := s.variant == 3
def numBlocks (s : State) : Nat := if isS s then 256 else 1024
def numLoops (s : State) : Nat := if isS s then 256 else 1024
def numStages (s : State) : Nat := if isS s then 8 else 32
def numSessions (s : State) : Nat := if isS s then 16 else 64

/-! ### Tags and points -/

def blockOf (pt : Nat) : Nat := pt / 64

/-- The tag of a block (R12). -/
def tagOf (s : State) (blk : Nat) : Tag := Table.get (Tag.factory blk) s.points.tags blk

def ownerOf (s : State) (pt : Nat) : Nat := (tagOf s (blockOf pt)).owner

/-- R4, R13: the point exists on the variant and is not in block 6 or 7. -/
def pointExists (s : State) (pt : Nat) : Bool :=
  decide (blockOf pt < numBlocks s) && blockOf pt != 6 && blockOf pt != 7

/-- R14: the stage may read the point. -/
def mayRead (s : State) (stage pt : Nat) : Bool :=
  pointExists s pt && ((tagOf s (blockOf pt)).owner == stage || (tagOf s (blockOf pt)).pub)

/-- Points 0x0020 to 0x003F are stage-relative (R18). -/
def isRel (pt : Nat) : Bool := 0x20 ≤ pt && pt < 0x40

/-- The one stage-relative point with access RW (R17). -/
def isRelRW (pt : Nat) : Bool := pt == 0x30

/-- Read-only under R17: every listed or reserved system point but STAGEREQ, and the reserved indices
0x0168 to 0x016F, P 0x015F and 0x017B to 0x017F, and the points of block 5, which are all RO. -/
def isReadOnly (pt : Nat) : Bool :=
  (pt < 0x100 && pt != 0x30) || (0x140 ≤ pt && pt < 0x180)

/-- R14, R73 check 1: the stage may write the point. -/
def mayWrite (s : State) (stage pt : Nat) : Bool :=
  pointExists s pt && (((tagOf s (blockOf pt)).owner == stage && !isReadOnly pt) || isRelRW pt)

/-- The quality as presented: STAGE from the tag (R15), the rest as stored. -/
def withStage (s : State) (pt : Nat) (q : Half) : Half :=
  (q &&& 0x01FF) ||| BitVec.ofNat 16 (ownerOf s pt * 2048)

/-- The underlying point. -/
def rawPoint (s : State) (pt : Nat) : PV := Table.get PV.zero s.points.pts pt

/-- The forced value of a frozen point. -/
def frozen (s : State) (pt : Nat) : Option Word := Table.get none s.points.frz pt

/-- R131: what a reader sees of a point whose image value is `v`. -/
def present (s : State) (pt : Nat) (v : PV) : PV :=
  match frozen s pt with
  | some w => ⟨w, withStage s pt ((v.q &&& 0x0100) ||| 0x0009)⟩
  | none => ⟨v.val, withStage s pt v.q⟩

/-- The underlying point set, bits [8:0] of its quality only. -/
def putPoint (pt : Nat) (v : PV) (s : State) : State :=
  { s with points := { s.points with pts := Table.set PV.zero s.points.pts pt ⟨v.val, v.q &&& 0x01FF⟩ } }

/-- The underlying quality changed. -/
def mapQual (pt : Nat) (f : Half → Half) (s : State) : State :=
  putPoint pt ⟨(rawPoint s pt).val, f (rawPoint s pt).q⟩ s

/-- Quality bits by name (R15). -/
def qVALID : Half := 0x001
def qSTALE : Half := 0x002
def qSUBST : Half := 0x004
def qFROZEN : Half := 0x008
def qOVER : Half := 0x010
def qUNDER : Half := 0x020
def qWBRK : Half := 0x040
def qFAULT : Half := 0x080
def qUNDELIV : Half := 0x100

/-- R68: the stored quality: bits [7:0] but FROZEN from the carried quality, the rest as it was. -/
def storeQual (old : Half) (c : Byte) : Half := (old &&& 0x0108) ||| (c.setWidth 16 &&& 0x00F7)

/-- Carried quality of a point's quality (R67). -/
def carried (q : Half) : Byte := (q &&& 0x00F7).setWidth 8

/-- The combination of carried qualities (R67). -/
def comb (a b : Byte) : Byte := ((a &&& b) &&& 1) ||| ((a ||| b) &&& 0xF6)

/-! ### Per-number state with its factory value -/

def clsCfg (s : State) (k : Nat) : ClassCfg := Table.get (ClassCfg.factory k) s.slate.cls k
def takeOf (s : State) (k : Nat) : ClassTake := Table.get ClassTake.idle s.takes k
def putTake (k : Nat) (t : ClassTake) (s : State) : State :=
  { s with takes := Table.set ClassTake.idle s.takes k t }
def stgRt (s : State) (st : Nat) : StageRt := Table.get StageRt.fresh s.progs.stg st
def putStg (st : Nat) (r : StageRt) (s : State) : State :=
  { s with progs := { s.progs with stg := Table.set StageRt.fresh s.progs.stg st r } }
def stgCfg (s : State) (st : Nat) : StgCfg := Table.get (StgCfg.factory (numLoops s) st) s.host.stg st
def progOf (s : State) (st : Nat) : Option Prog := Table.get none s.progs.prog st
def loopDesc (s : State) (n : Nat) : LoopDesc := Table.get LoopDesc.unused s.loops.desc n
def loopRt (s : State) (n : Nat) : LoopRt := Table.get LoopRt.fresh s.loops.rt n
def putLoop (n : Nat) (r : LoopRt) (s : State) : State :=
  { s with loops := { s.loops with rt := Table.set LoopRt.fresh s.loops.rt n r } }

/-- The fields of STGCFG (R300). -/
def stageOn (s : State) (st : Nat) : Bool :=
  decide (st < numStages s) && (st == 0 || (stgCfg s st).c0.getLsbD 31)
def ovlim (s : State) (st : Nat) : Nat := bitsOf (stgCfg s st).c0 29 22
def sesmax (s : State) (st : Nat) : Nat := bitsOf (stgCfg s st).c0 21 15
def txto (s : State) (st : Nat) : Nat := bitsOf (stgCfg s st).c0 14 8
def loopFirst (s : State) (st : Nat) : Nat := bitsOf (stgCfg s st).c1 31 22
def loopCnt (s : State) (st : Nat) : Nat := bitsOf (stgCfg s st).c1 21 11
def tmrFirst (s : State) (st : Nat) : Nat := bitsOf (stgCfg s st).c2 31 19
def tmrCnt (s : State) (st : Nat) : Nat := bitsOf (stgCfg s st).c2 18 5
def ctrFirst (s : State) (st : Nat) : Nat := bitsOf (stgCfg s st).c3 31 20
def ctrCnt (s : State) (st : Nat) : Nat := bitsOf (stgCfg s st).c3 19 7
def tokrate (s : State) (st : Nat) : Nat := bitsOf (stgCfg s st).c4 31 16
def tokburst (s : State) (st : Nat) : Nat := bitsOf (stgCfg s st).c4 15 0
def qlen (s : State) (st : Nat) : Nat := bitsOf (stgCfg s st).c5 31 21
def opmax (s : State) (st : Nat) : Nat := bitsOf (stgCfg s st).c5 20 12

/-- The loop is allocated to the stage (R138). -/
def ownsLoop (s : State) (st n : Nat) : Bool :=
  decide (loopFirst s st ≤ n) && decide (n < loopFirst s st + loopCnt s st) && decide (n < numLoops s)

/-- The owner of a loop: the lowest stage whose allocation covers it. -/
def loopOwner (s : State) (n : Nat) : Nat :=
  ((List.range 32).find? (fun st => ownsLoop s st n)).getD 0

/-- All stages that exist. -/
def stagesOn (s : State) : List Nat := (List.range 32).filter (stageOn s)

/-- Enabled classes (R34). -/
def classesOn (s : State) : List Nat := (List.range 4).filter (fun k => (clsCfg s k).en)

/-- Whether a half-period number begins a take of a class (R34). -/
def beginsTake (s : State) (half : Word) (k : Nat) : Bool :=
  (clsCfg s k).en && half.toNat % 2 ^ (clsCfg s k).n == 0

/-- Whether a half-period is the last of a take of the class. -/
def lastHalfOf (s : State) (half : Word) (k : Nat) : Bool :=
  (clsCfg s k).en && (half.toNat + 1) % 2 ^ (clsCfg s k).n == 0

/-- The output phase of a class's take is still to come in this half-period, which is its last (R37). -/
def outputDue (s : State) (k : Nat) : Bool :=
  (takeOf s k).active && lastHalfOf s s.slate.halfcnt k && (takeOf s k).handed && !(takeOf s k).out

/-- A full boundary (R36). -/
def fullBoundary (s : State) (half : Word) : Bool :=
  (classesOn s).all (beginsTake s half)

/-- The length of the first half of a slate period: ph 2048 begins half a period after ph 0, to the next whole tick. -/
def firstHalf (s : State) : Nat := (s.slate.period + 1) / 2

/-- The ticks since ph 0 of the slate period in progress. -/
def sincePh0 (s : State) : Nat :=
  s.now - s.slate.halfStart + (if s.slate.halfcnt.getLsbD 0 then firstHalf s else 0)

/-- The first phase step of the half-period in progress: ph 0 or ph 2048. -/
def halfPh (s : State) : Nat := if s.slate.halfcnt.getLsbD 0 then 2048 else 0

/-- The offset in the half-period in progress, in phase steps: step n of a period of p ticks begins n p / 4,096 ticks after
ph 0, to the next whole tick (R25, R35). -/
def offsetNow (s : State) : Nat := sincePh0 s * 4096 / s.slate.period - halfPh s

/-- The tick at which an offset of the half-period in progress begins. -/
def offsetTick (s : State) (off : Nat) : Nat :=
  s.slate.halfStart + (ceilDiv ((halfPh s + off) * s.slate.period) 4096 - (if s.slate.halfcnt.getLsbD 0 then firstHalf s else 0))

/-- The absolute phase step of an offset in the half-period in progress. -/
def absStep (s : State) (off : Nat) : Nat := s.slate.halfcnt.toNat * 2048 + off

/-- An absolute phase step has begun; steps are compared modulo the wrap of HALFCNT. -/
def stepReached (s : State) (t : Nat) : Bool :=
  decide ((absStep s (offsetNow s) + 2 ^ 43 - t % 2 ^ 43) % 2 ^ 43 < 2 ^ 42)

/-- Fold a state change over a list. -/
def foldS {α : Type} (l : List α) (f : α → State → State) (s : State) : State :=
  l.foldl (fun s a => f a s) s

end Sys2Proof.Machine
end

