-- ==== Sys2Proof/Machine/Jobs.lean ====
section
/-! DEFINITION. The two job queues of the crypto and key unit and its working register (R377 to R379). -/

namespace Sys2Proof.Machine
open Sys2Proof

/-- The keyed column of R379. -/
def JobKind.keyed : JobKind → Bool
  | .verify => false
  | .sha => false
  | _ => true

/-- A queue that holds up to `cap` jobs takes those that wait for it. -/
def fillQueue (cap : Nat) (q w : List KeyJob) : List KeyJob × List KeyJob :=
  (q ++ w.take (cap - q.length), w.drop (cap - q.length))

/-- Queue S holds 64 jobs and queue B 16; what does not fit waits at its producer (R378). -/
def fillQueues (s : State) : State :=
  let a := fillQueue 64 s.keys.qs s.keys.waitS
  let b := fillQueue 16 s.keys.qb s.keys.waitB
  { s with keys := { s.keys with qs := a.1, waitS := a.2, qb := b.1, waitB := b.2 } }

/-- The unit takes its next job: one from each queue in turn while both hold jobs. A keyed job unwraps its key into the working
register, if there is a KEK to unwrap it under; an unkeyed one does not touch the register. DEDUCED, log 47. -/
def startJob (s : State) : State :=
  let k := s.keys
  let b := if k.qs.isEmpty then true else if k.qb.isEmpty then false else !k.lastB
  match k.job, if b then k.qb else k.qs with
  | none, j :: rest =>
    fillQueues { s with keys := { k with
        job := some j, lastB := b, working := if j.kind.keyed && k.kek.isSome then some j.key else none
        qs := if b then k.qs else rest, qb := if b then rest else k.qb } }
  | _, _ => s

/-- Work for a queue. -/
def addJobs (b : Bool) (js : List KeyJob) (s : State) : State :=
  let k := s.keys
  startJob (fillQueues { s with keys :=
    { k with waitS := if b then k.waitS else k.waitS ++ js, waitB := if b then k.waitB ++ js else k.waitB } })

/-- Work on `n` bytes in jobs of at most 65,536. -/
def splitJobs (kind : JobKind) (key : JobKey) (n : Nat) : List KeyJob :=
  List.replicate (ceilDiv n 65_536) ⟨kind, key, none⟩

/-- The job of a TLS record of a connection, one for each message. DEDUCED, log 47. -/
def record (cn : Nat) (s : State) : State := addJobs false [⟨.gcm, .conn cn, none⟩] s

/-- The jobs of a TLS handshake, as the worked example of R379 lists them. DEDUCED, log 47. -/
def handshakeJobs (s : State) (cn : Nat) : List KeyJob :=
  let dev := ((List.range 34).find? (fun i => let k := Table.get KeySlot.empty s.keys.slots i; k.kind == 1 && k.st == 0)).getD 0
  [⟨.x25519, .conn cn, none⟩, ⟨.x25519, .conn cn, none⟩, ⟨.sign, .store dev, none⟩, ⟨.verify, .unkeyed, none⟩] ++
    List.replicate 12 ⟨.hmac, .conn cn, none⟩ ++ List.replicate 4 ⟨.sha, .unkeyed, none⟩

end Sys2Proof.Machine
end

