-- ==== Sys2Proof/Machine/Code.lean ====
section
/-! DEFINITION. The encodings of Ecmund instructions (R80, R81, R83 to R86, R111): the operand form and the
cycles of every opcode, and which words are reserved. The lanes and the loader both read them here. -/

namespace Sys2Proof.Machine
open Sys2Proof

/-- The operand forms of 04_ecmund_instructions.md. -/
inductive Form where
  | none
  /-- A bit operand that is read, one that is written, and the PNT form of the edge memories. -/
  | bitR | bitW | bitEdge
  | flag
  /-- SLOTREF, by whether PW may be 1 (R91). -/
  | slot (pw : Bool)
  | wordR | wordW
  | shift | target | loopOp | qop
  /-- LOOPREF, with the greatest value of [23:21]. -/
  | loopRef (max : Nat)
  | evt | cstw
  deriving DecidableEq, Repr

/-- The form of an opcode; none: the opcode is reserved (R111). -/
def formOf (op : Nat) : Option Form :=
  if op < 0x10 then (if op = 0x01 then some .none else none)
  else if op ≤ 0x15 then some .bitR
  else if op ≤ 0x1D then some .none
  else if op = 0x1E then some .flag
  else if op < 0x20 then none
  else if op ≤ 0x23 then some .bitW
  else if op ≤ 0x25 then some .bitEdge
  else if op < 0x30 then none
  else if op ≤ 0x33 then some (.slot true)
  else if op = 0x34 then some (.slot false)
  else if op < 0x38 then none
  else if op ≤ 0x3A then some (.slot true)
  else if op = 0x3B then some (.slot false)
  else if op < 0x40 then none
  else if op = 0x40 then some .wordR
  else if op = 0x41 then some .wordW
  else if op ≤ 0x4C then some .none
  else if op = 0x4D then some .wordR
  else if op < 0x50 then none
  else if op ≤ 0x53 then some .none
  else if op ≤ 0x57 then some .shift
  else if op < 0x60 then none
  else if op ≤ 0x6B then some .none
  else if op < 0x70 then none
  else if op ≤ 0x75 then some .none
  else if op < 0x80 then none
  else if op ≤ 0x85 then some .none
  else if op < 0x88 then none
  else if op ≤ 0x8D then some .none
  else if op < 0x90 then none
  else if op ≤ 0x96 then some .target
  else if op = 0x97 then none
  else if op = 0x98 then some .loopOp
  else if op = 0x99 then some .none
  else if op ≤ 0x9C then some .target
  else if op ≤ 0x9F then some .none
  else if op ≤ 0xA1 then some .qop
  else if op ≤ 0xA3 then some .none
  else if op < 0xB0 then none
  else if op ≤ 0xB2 then some (.loopRef 0)
  else if op = 0xB3 then some (.loopRef 4)
  else if op = 0xB4 then some (.loopRef 3)
  else if op = 0xC0 then some .evt
  else if op < 0xD0 then none
  else if op ≤ 0xD4 then some .none
  else if op = 0xD5 then some .cstw
  else none

/-- The cycles of an opcode (R111). -/
def cyclesOf (op : Nat) : Nat :=
  if op = 0x46 || op = 0x62 || op = 0x6A || op = 0x9C then 2
  else if op = 0x47 || op = 0x48 || op = 0x63 || op = 0x6B then 16
  else 1

/-- Fields [hi:lo] of an operand. -/
def fld (w : BitVec 24) (hi lo : Nat) : Nat := bitsOf w hi lo

/-- A bit operand read (R83, R84) is not reserved. -/
def bitReadOk (w : BitVec 24) : Bool :=
  let m := fld w 2 0
  let b := fld w 7 3
  if m = 0 then true
  else if m = 1 then fld w 23 14 == 0
  else if m = 2 then b < 16
  else if m = 3 then fld w 22 21 == 0 && (if fld w 23 23 = 0 then b < 2 else b < 4)
  else true

/-- A bit operand written (R89): PNT, LOC and IND. -/
def bitWriteOk (w : BitVec 24) : Bool :=
  let m := fld w 2 0
  if m = 1 then fld w 23 14 == 0 else m == 0 || 4 ≤ m

/-- A word operand read (R85, R86). -/
def wordReadOk (w : BitVec 24) : Bool :=
  let m := fld w 23 20
  if m = 0 || m = 1 || m = 4 then fld w 19 16 == 0
  else if m = 2 then fld w 19 6 == 0
  else if m = 3 then true
  else if m = 5 then fld w 19 18 == 0
  else if m = 6 then fld w 18 16 < 2 && fld w 15 13 == 0
  else false

/-- A word operand written: not PQW, IMM, IMMH or ET (R85, R86). -/
def wordWriteOk (w : BitVec 24) : Bool :=
  let m := fld w 23 20
  wordReadOk w && (m == 0 || m == 2 || m == 5 || (m == 6 && !(fld w 19 19 == 0 && fld w 18 16 == 0)))

/-- The operand fits its form (R81). LOOP takes D from 1 to 4,095, and 0 is reserved (R104). DESIGN CHOICE, log 28. -/
def formOk (f : Form) (w : BitVec 24) : Bool :=
  match f with
  | .none => w == 0
  | .bitR => bitReadOk w
  | .bitW => bitWriteOk w
  | .bitEdge => fld w 2 0 == 0
  | .flag => fld w 23 5 == 0 && 2 ≤ fld w 3 0 && fld w 3 0 ≤ 8
  | .slot pw => fld w 22 13 == 0 && (pw || fld w 23 23 == 0)
  | .wordR => wordReadOk w
  | .wordW => wordWriteOk w
  | .shift => fld w 23 5 == 0
  | .target => fld w 23 20 == 0
  | .loopOp => 1 ≤ fld w 11 0
  | .qop => fld w 23 10 == 0 && fld w 9 8 < 3 && !w.getLsbD 3
  | .loopRef m => fld w 20 10 == 0 && fld w 23 21 ≤ m
  | .evt => fld w 20 16 == 0 && fld w 23 21 ≤ 5
  | .cstw => fld w 23 9 == 0 && fld w 4 0 == 0

/-- An opcode with an operand is a reserved encoding (R81). -/
def reservedOp (op : Nat) (w : BitVec 24) : Bool :=
  match formOf op with
  | none => true
  | some f => !formOk f w

/-- Opcode and operand of a word (R80). -/
def opOf (w : Word) : Nat := bitsOf w 31 24
def operandOf (w : Word) : BitVec 24 := w.setWidth 24

/-- A word is a reserved encoding. -/
def reservedWord (w : Word) : Bool := reservedOp (opOf w) (operandOf w)

end Sys2Proof.Machine
end

