-- ==== Sys2Proof/Machine/Flags.lean ====
section
/-! DEFINITION. Every result and flag computation of the Ecmund instructions (R62, R94 to R101): integer,
bitwise, binary32, Q16.16, conversions and compares, each as one pure function of the accumulators. -/

namespace Sys2Proof.Machine
open Sys2Proof

/-- The result of a word operation: the value of WA, Z and N, what it does to C, which sticky flags it
sets, and whether it adds FAULT to QA. -/
structure Alu where
  val : Word
  z : Bool
  n : Bool
  c : Option Bool
  v : Bool
  dz : Bool
  nan : Bool
  fault : Bool
  deriving DecidableEq, Repr

/-- A result whose Z and N follow its 32 bits (R95). -/
def Alu.ofWord (w : Word) : Alu :=
  { val := w, z := w == 0, n := w.getLsbD 31, c := none, v := false, dz := false, nan := false, fault := false }

/-- A signed result that wraps, with V where it does not fit (R62). -/
def Alu.ofInt (x : Int) : Alu :=
  { Alu.ofWord (BitVec.ofInt 32 x) with v := decide (x < -2 ^ 31) || decide (2 ^ 31 - 1 < x) }

/-- sat of R99: limited to the signed range, with V where it limits. -/
def Alu.sat (x : Int) : Alu :=
  { Alu.ofWord (BitVec.ofInt 32 (satTo 32 x)) with v := decide (satTo 32 x ≠ x) }

/-! ### Integers (R94, R95) -/

def aluAdd (b a : Word) : Alu :=
  { Alu.ofInt (b.toInt + a.toInt) with c := some (decide (2 ^ 32 ≤ b.toNat + a.toNat)) }

def aluSub (b a : Word) : Alu :=
  { Alu.ofInt (b.toInt - a.toInt) with c := some (decide (b.toNat < a.toNat)) }

def aluMul (b a : Word) : Alu := Alu.ofInt (b.toInt * a.toInt)

/-- A zero divisor: result 0, DZ and V set, FAULT added (R62). -/
def Alu.divZero : Alu := { Alu.ofWord 0 with v := true, dz := true, fault := true }

def aluDiv (b a : Word) : Alu :=
  if a = 0 then Alu.divZero else Alu.ofInt (b.toInt.tdiv a.toInt)

def aluMod (b a : Word) : Alu :=
  if a = 0 then Alu.divZero else Alu.ofWord (BitVec.ofInt 32 (b.toInt.tmod a.toInt))

def aluNeg (a : Word) : Alu := Alu.ofInt (-a.toInt)

def aluAbs (a : Word) : Alu := Alu.ofInt a.toInt.natAbs

def aluMin (b a : Word) : Alu := Alu.ofWord (if b.toInt ≤ a.toInt then b else a)

def aluMax (b a : Word) : Alu := Alu.ofWord (if a.toInt ≤ b.toInt then b else a)

/-! ### Bits and shifts (R96) -/

def aluShl (a : Word) (k : Nat) : Alu := Alu.ofWord (a <<< k)
def aluShr (a : Word) (k : Nat) : Alu := Alu.ofWord (a >>> k)
def aluSar (a : Word) (k : Nat) : Alu := Alu.ofWord (a.sshiftRight k)
def aluRol (a : Word) (k : Nat) : Alu := Alu.ofWord (a.rotateLeft k)

/-! ### binary32 (R97, R98) -/

/-- The canonical quiet NaN (R98). -/
def qNaN : Word := 0x7FC0_0000

def fSign (w : Word) : Bool := w.getLsbD 31
def fExp (w : Word) : Nat := (w.toNat >>> 23) % 256
def fFrac (w : Word) : Nat := w.toNat % 2 ^ 23
def isNaN (w : Word) : Bool := fExp w == 255 && fFrac w != 0
def isInf (w : Word) : Bool := fExp w == 255 && fFrac w == 0
def isZeroF (w : Word) : Bool := fExp w == 0 && fFrac w == 0

/-- The magnitude of a finite value is `fMant w * 2 ^ fPow w`; subnormals in full (R98). -/
def fMant (w : Word) : Nat := if fExp w = 0 then fFrac w else fFrac w + 2 ^ 23
def fPow (w : Word) : Int := (max (fExp w) 1 : Nat) - 150

/-- A word with a sign. -/
def withSign (neg : Bool) (mag : Nat) : Word := BitVec.ofNat 32 (mag + b2n neg * 2 ^ 31)

def infF (neg : Bool) : Word := withSign neg (255 * 2 ^ 23)

/-- The magnitude `n / d * 2 ^ e` rounded to binary32, nearest with ties to even, and whether it
overflowed to infinity. `d` is positive. -/
def roundMag (n d : Nat) (e : Int) : Nat × Bool :=
  if n = 0 then (0, false)
  else
    let k : Int := (Nat.log2 n : Int) - Nat.log2 d
    -- the binary exponent of n / d
    let k := if (if 0 ≤ k then d * 2 ^ k.toNat ≤ n else d ≤ n * 2 ^ (-k).toNat) then k else k - 1
    let ex : Int := max (k + e - 23) (-149)
    let num := if 0 ≤ e - ex then n * 2 ^ (e - ex).toNat else n
    let den := if 0 ≤ e - ex then d else d * 2 ^ (ex - e).toNat
    let q := num / den
    let r := num % den
    let q := if den < 2 * r || (2 * r == den && q % 2 == 1) then q + 1 else q
    -- a carry out of the significand moves to the next exponent
    let (q, ex) := if q = 2 ^ 24 then (2 ^ 23, ex + 1) else (q, ex)
    if q < 2 ^ 23 then (q, false)
    else if 104 < ex then (255 * 2 ^ 23, true)
    else ((ex + 150).toNat * 2 ^ 23 + (q - 2 ^ 23), false)

/-- A binary32 result with its flags: Z for either zero, N the sign bit (R97). -/
def Alu.ofFloat (w : Word) : Alu :=
  { Alu.ofWord w with z := isZeroF w, n := fSign w }

/-- The NaN result (R98). -/
def Alu.nanF : Alu := { Alu.ofFloat qNaN with nan := true, fault := true }

/-- A rounded finite result; V where it overflows to infinity. -/
def Alu.rounded (neg : Bool) (n d : Nat) (e : Int) : Alu :=
  let m := roundMag n d e
  { Alu.ofFloat (withSign neg m.1) with v := m.2 }

/-- The sum of two finite values. -/
def sumF (b a : Word) : Alu :=
  let e := min (fPow b) (fPow a)
  let sc (w : Word) : Int :=
    (if fSign w then -1 else 1) * ((fMant w * 2 ^ (fPow w - e).toNat : Nat) : Int)
  let x := sc b + sc a
  if x = 0 then Alu.ofFloat (withSign (fSign b && fSign a) 0)
  else Alu.rounded (decide (x < 0)) x.natAbs 1 e

def aluAddF (b a : Word) : Alu :=
  if isNaN b || isNaN a then Alu.nanF
  else if isInf b && isInf a then (if fSign b = fSign a then Alu.ofFloat b else Alu.nanF)
  else if isInf b then Alu.ofFloat b
  else if isInf a then Alu.ofFloat a
  else sumF b a

/-- The sign bit inverted. -/
def flipF (a : Word) : Word := a ^^^ 0x8000_0000

def aluSubF (b a : Word) : Alu := aluAddF b (flipF a)

def aluMulF (b a : Word) : Alu :=
  let neg := fSign b != fSign a
  if isNaN b || isNaN a then Alu.nanF
  else if (isInf b && isZeroF a) || (isZeroF b && isInf a) then Alu.nanF
  else if isInf b || isInf a then Alu.ofFloat (infF neg)
  else Alu.rounded neg (fMant b * fMant a) 1 (fPow b + fPow a)

def aluDivF (b a : Word) : Alu :=
  let neg := fSign b != fSign a
  if isNaN b || isNaN a then Alu.nanF
  else if isZeroF a then
    if isZeroF b then { Alu.nanF with dz := true } else { Alu.ofFloat (infF neg) with dz := true }
  else if isInf b then (if isInf a then Alu.nanF else Alu.ofFloat (infF neg))
  else if isInf a then Alu.ofFloat (withSign neg 0)
  else Alu.rounded neg (fMant b) (fMant a) (fPow b - fPow a)

def aluNegF (a : Word) : Alu := Alu.ofFloat (flipF a)

def aluAbsF (a : Word) : Alu := Alu.ofFloat (a &&& 0x7FFF_FFFF)

/-- The order of R98 for MINF and MAXF: -0 below +0. -/
def keyF (w : Word) : Int := if fSign w then -((w.toNat % 2 ^ 31 : Nat) : Int) - 1 else (w.toNat % 2 ^ 31 : Nat)

def aluMinF (b a : Word) : Alu :=
  if isNaN b || isNaN a then Alu.nanF else Alu.ofFloat (if keyF b ≤ keyF a then b else a)

def aluMaxF (b a : Word) : Alu :=
  if isNaN b || isNaN a then Alu.nanF else Alu.ofFloat (if keyF a ≤ keyF b then b else a)

/-! ### Q16.16 (R99) -/

/-- n / d to the nearest integer, a tie to the even one; d not 0. -/
def divRhe (n d : Int) : Int :=
  let n' := if d < 0 then -n else n
  let d' := d.natAbs
  let q := n' / d'
  let r := n' % d'
  if (d' : Int) < 2 * r then q + 1
  else if 2 * r = d' then (if q % 2 = 0 then q else q + 1)
  else q

def aluAddQ (b a : Word) : Alu := Alu.sat (b.toInt + a.toInt)
def aluSubQ (b a : Word) : Alu := Alu.sat (b.toInt - a.toInt)
def aluMulQ (b a : Word) : Alu := Alu.sat (rhe (b.toInt * a.toInt) 16)
def aluDivQ (b a : Word) : Alu :=
  if a = 0 then Alu.divZero else Alu.sat (divRhe (b.toInt * 2 ^ 16) a.toInt)

/-! ### Conversions (R100) -/

/-- An integer times 2^e as binary32. -/
def intToF (x : Int) (e : Int) : Alu := Alu.rounded (decide (x < 0)) x.natAbs 1 e

/-- A binary32 value times 2^k to the nearest integer, ties to even, saturated. -/
def fToInt (a : Word) (k : Int) : Alu :=
  if isNaN a then { Alu.ofWord 0 with nan := true, fault := true }
  else if isInf a then
    { Alu.ofWord (if fSign a then 0x8000_0000 else 0x7FFF_FFFF) with v := true }
  else
    let p := fPow a + k
    let m : Int := if fSign a then -(fMant a : Int) else fMant a
    if 0 ≤ p then Alu.sat (m * 2 ^ p.toNat) else Alu.sat (rhe m (-p).toNat)

def aluItf (a : Word) : Alu := intToF a.toInt 0
def aluFti (a : Word) : Alu := fToInt a 0
def aluItq (a : Word) : Alu := Alu.sat (a.toInt * 2 ^ 16)
def aluQti (a : Word) : Alu := Alu.ofInt (rhe a.toInt 16)
def aluFtq (a : Word) : Alu := fToInt a 16
def aluQtf (a : Word) : Alu := intToF a.toInt (-16)

/-! ### Compares (R101) -/

/-- A compare: its result, Z, N, whether it sets NAN, and whether its quality carries FAULT. -/
structure Cmp where
  res : Bool
  z : Bool
  n : Bool
  nan : Bool
  deriving DecidableEq, Repr

/-- A signed compare of b with a: the results for equal, less and greater. -/
def cmpInt (eq lt gt : Bool) (b a : Word) : Cmp :=
  { res := if b.toInt = a.toInt then eq else if b.toInt < a.toInt then lt else gt
    z := b == a, n := decide (b.toInt < a.toInt), nan := false }

/-- The IEEE order, -0 equal to +0. -/
def ordF (w : Word) : Int := if fSign w then -((w.toNat % 2 ^ 31 : Nat) : Int) else (w.toNat % 2 ^ 31 : Nat)

/-- A binary32 compare; `un` is the result of an unordered one. -/
def cmpFloat (eq lt gt un : Bool) (b a : Word) : Cmp :=
  if isNaN b || isNaN a then { res := un, z := false, n := false, nan := true }
  else
    { res := if ordF b = ordF a then eq else if ordF b < ordF a then lt else gt
      z := decide (ordF b = ordF a), n := decide (ordF b < ordF a), nan := false }

end Sys2Proof.Machine
end

