-- ==== Sys2Proof/Machine/Log.lean ====
section
/-! DEFINITION. The continuity log (14_continuity_log.md): records, views, rate limits, storage and
overwrite, archive and window ends. -/

namespace Sys2Proof.Machine
open Sys2Proof

/-- TIMESTAT [1], time untrusted (R340). -/
def timeUntrusted (s : State) : Bool := s.rtc.osf || s.rtc.holdUntr

/-- The view that holds every stage. -/
def viewAll : Word := BitVec.allOnes 32

/-- The view of one stage. -/
def viewOf (st : Nat) : Word := BitVec.ofNat 32 (2 ^ st)

/-- "House +" a stage (R361). -/
def viewHouse (st : Nat) : Word := viewOf 0 ||| viewOf st

/-- The house publication list adds stages to a module code's view (R368). -/
def pubView (s : State) (code : Nat) : Word :=
  s.host.logpub.foldl (fun v e => if e.1 = code then v ||| e.2 else v) 0

/-- The bytes of a record but its CRC (R357, R358). -/
def Rec.head (r : Rec) : List Byte :=
  bytesLE 4 r.rseq.toNat ++ bytesLE 4 r.arr.toNat ++ bytesLE 8 r.time.toNat ++ bytesLE 2 r.code ++
  bytesLE 1 (r.sev + b2n r.untr * 16 + b2n r.rpt * 32 + b2n r.summ * 64 + b2n r.noclr * 128) ++
  bytesLE 1 (r.src * 32 + r.owner) ++ bytesLE 4 r.view.toNat ++
  (r.detail ++ List.replicate 36 0).take 36

/-- The 64 bytes of a record (R357). -/
def Rec.bytes (r : Rec) : List Byte := r.head ++ bytesLE 4 (crc32c r.head).toNat

/-- Items of a detail, each at its natural size and alignment (R359): size and value. -/
def packD (items : List (Nat × Nat)) : List Byte :=
  items.foldl (fun bs e =>
    bs ++ List.replicate ((e.1 - bs.length % e.1) % e.1) 0 ++ bytesLE e.1 e.2) []

/-- The counters of R366 saturate. -/
def satInc (w : Word) : Word := if w = BitVec.allOnes 32 then w else w + 1

/-- Ring capacity (R19). -/
def ringCap : Nat := 65_536

/-- Archive capacity (R367): 2,048 units of 2,048 records. -/
def archCap : Nat := 4_194_304

/-- The index of the record of lowest severity, the oldest among equals (R366 step 3). -/
def lowestIdx : List (Rec × Bool) → Option (Nat × Nat)
  | [] => none
  | (r, _) :: t =>
    match lowestIdx t with
    | none => some (0, r.sev)
    | some (i, sv) => if r.sev ≤ sv then some (0, r.sev) else some (i + 1, sv)

/-- A record joins the ring by its arrival number, before those of its clock that come later, which are the last `later`;
RSEQ ascends with the arrival numbers (R365). `next` is the RSEQ that the last record takes. -/
def insertRec (r : Rec) (later : Nat) (next : Word) (ring : List (Rec × Bool)) : List (Rec × Bool) :=
  let n := ((ring.reverse.take later).takeWhile (fun e => decide ((e.1.arr - r.arr).toNat < later + 1))).length
  ring.take (ring.length - n) ++ ({ r with rseq := next - BitVec.ofNat 32 n }, false) ::
    (ring.drop (ring.length - n)).map (fun e => ({ e.1 with rseq := e.1.rseq + 1 }, e.2))

/-- R366: a record enters the ring; RSEQ rises for a stored record. -/
def pushRec (r : Rec) (s : State) : State :=
  let l := s.log
  let into := insertRec r (s.arrSeq.next - r.arr - 1).toNat l.next
  if l.ring.length < ringCap then
    { s with log := { l with ring := into l.ring, next := l.next + 1 } }
  else
    match l.ring.findIdx? (fun e => e.2) with
    | some i => { s with log := { l with ring := into (l.ring.eraseIdx i), next := l.next + 1 } }
    | none =>
      match lowestIdx l.ring with
      | none => { s with log := { l with dropped := satInc l.dropped } }
      | some (i, sv) =>
        if r.sev < sv then { s with log := { l with dropped := satInc l.dropped } }
        else
          { s with log := { l with
              ring := into (l.ring.eraseIdx i), next := l.next + 1
              overwr := satInc l.overwr
              overwr7 := if sv = 7 then satInc l.overwr7 else l.overwr7 } }

/-- A record stamped now (R53, R357). -/
def mkRec (s : State) (code sev owner : Nat) (view : Word) (src : Nat) (detail : List Byte) : Rec :=
  { rseq := 0, arr := 0, time := houseTime s, code := code, sev := sev, noclr := false, summ := false
    rpt := s.rtc.repeated, untr := timeUntrusted s, src := src, owner := owner
    view := view ||| viewOf owner ||| (if src = 1 then 0 else pubView s code), detail := detail }

/-- Where the source of a record stands among those of its clock (R53): the safety pair, the field ASIC, the segments 1 to 6,
the loop engine, the host sessions by number. The rule does not list the house firmware and the logic engine, which come last
here. DESIGN CHOICE, log 10. -/
def Rec.rank (r : Rec) : Nat :=
  if r.src = 2 then 1
  else if r.src = 3 then 2
  else if r.src = 4 then 10
  else if r.src != 0 then 1000
  else if r.code = 0x31 ∨ r.code = 0x32 then 7 + getLE r.detail 0 1
  else if r.code = 0x33 ∧ 2 ≤ getLE r.detail 0 1 ∧ getLE r.detail 0 1 < 6 then getLE r.detail 0 1 + 1
  else if r.code = 0x33 ∧ 7 ≤ getLE r.detail 0 1 then getLE r.detail 0 1
  else if r.code = 0x40 then 20 + getLE r.detail 8 1
  else 1000

/-- Stamp and store without a limit. Without an application core nothing is stored (R425), nor in recovery (R404). -/
def storeRec (r : Rec) (s : State) : State :=
  let n := nextArr r.rank s
  if n.2.integ.cores = 0 ∨ n.2.power.mode = .recovery then n.2 else pushRec { r with arr := n.1 } n.2

/-- R361: the limit N / W of a module code; none for a dash. -/
def codeLimit (code : Nat) : Option (Nat × Nat) :=
  if [0x01, 0x02, 0x21, 0x22, 0x23, 0x30, 0x41, 0x42, 0x43, 0x52, 0x60, 0x80, 0x81, 0x82, 0x83, 0x86,
      0x87, 0x90, 0x91].contains code then none
  else if code = 0x11 then some (10, 10)
  else if code = 0x13 || code = 0x32 then some (20, 10)
  else if code = 0x16 then some (20, 60)
  else if code = 0x20 || code = 0x40 then some (50, 10)
  else if code = 0x44 then some (1, 1)
  else some (10, 60)

/-- R362: the limit of a program code's severity band. -/
def bandLimit (sev : Nat) : Nat × Nat := if sev ≤ 2 then (5, 60) else (20, 10)

/-- A window's end. -/
def LogWin.ends (w : LogWin) : Nat := w.start + w.len

/-- R364: the summary of a window that suppressed records. -/
def summaryOf (s : State) (w : LogWin) : Rec :=
  { rseq := 0, arr := 0, time := houseTimeAt s w.ends, code := 1, sev := w.maxSev, noclr := false
    summ := true, rpt := s.rtc.repeated, untr := timeUntrusted s, src := if w.band = 2 ∨ w.src = 1 then 0 else w.src
    owner := w.owner, view := w.view
    detail := bytesLE 2 w.code ++ bytesLE 1 w.src ++ bytesLE 1 w.maxSev ++ bytesLE 4 w.supp ++
      bytesLE 8 w.first.toNat ++ bytesLE 8 w.last.toNat }

/-- A window closes: its summary is stored if it suppressed anything (R364). DEDUCED, log 46. -/
def closeWin (w : LogWin) (s : State) : State :=
  let s := { s with log := { s.log with wins := s.log.wins.filter (fun x => x != w) } }
  if w.supp = 0 then s else storeRec (summaryOf s w) s

/-- Whether a window is the one of an owner, code and band. -/
def LogWin.isFor (w : LogWin) (owner code band : Nat) (prog : Bool) : Bool :=
  w.owner == owner && w.code == code && w.band == band && w.prog == prog

/-- A window that has counted one more suppressed record; its view is then that of all the records it suppressed. DEDUCED,
log 46. -/
def LogWin.count (w : LogWin) (r : Rec) : LogWin :=
  { w with supp := w.supp + 1, maxSev := max w.maxSev r.sev
           first := if w.supp = 0 then r.time else w.first, last := r.time
           view := if w.supp = 0 then r.view else w.view ||| r.view }

/-- Replace a window. -/
def putWin (old new : LogWin) (s : State) : State :=
  { s with log := { s.log with wins := s.log.wins.map (fun x => if x = old then new else x) } }

/-- R363: a record suppressed into the stage's catch-all window; it has been stamped all the same (R53). DEDUCED, log 46. -/
def catchAll (r : Rec) (s : State) : State :=
  let s := (nextArr r.rank s).2
  match s.log.wins.find? (fun w => w.isFor r.owner 0xFFFF 2 false && decide (s.now < w.ends)) with
  | some w => putWin w (w.count r) s
  | none =>
    { s with log := { s.log with wins := s.log.wins ++
        [{ owner := r.owner, code := 0xFFFF, prog := false, band := 2, start := s.now, len := secT 60
           limit := 0, stored := 0, supp := 1, maxSev := r.sev, first := r.time, last := r.time
           view := r.view, src := r.src }] } }

/-- The stage has its 128 windows open (R363). -/
def windowsFull (s : State) (owner : Nat) : Bool :=
  decide (128 ≤ (s.log.wins.filter (fun w => w.owner == owner && w.band != 2 && decide (s.now < w.ends))).length)

/-- R362, R363: a record is judged by its window and stored or suppressed. DEDUCED, log 46. -/
def judgeRec (r : Rec) (band n secs : Nat) (s : State) : State :=
  let prog := r.src == 1
  -- a window of this code that has ended closes first (R364)
  let s := match s.log.wins.find? (fun w => w.isFor r.owner r.code band prog && decide (w.ends ≤ s.now)) with
    | some w => closeWin w s
    | none => s
  match s.log.wins.find? (fun w => w.isFor r.owner r.code band prog) with
  | some w =>
    if w.stored < w.limit then storeRec r (putWin w { w with stored := w.stored + 1 } s)
    else if r.sev = 7 then storeRec r s
    else putWin w (w.count r) (nextArr r.rank s).2
  | none =>
    if windowsFull s r.owner then
      if r.sev = 7 then storeRec r s else catchAll r s
    else
      storeRec r { s with log := { s.log with wins := s.log.wins ++
        [{ owner := r.owner, code := r.code, prog := prog, band := band, start := s.now, len := secT secs
           limit := n, stored := 1, supp := 0, maxSev := 0, first := 0, last := 0, view := r.view
           src := r.src }] } }

/-- A module record (R361), stamped now. `src` is the SRC code of R357. -/
def logEv (code sev owner : Nat) (view : Word) (src : Nat) (detail : List Byte) (s : State) : State :=
  let r := mkRec s code sev owner view src detail
  match codeLimit code with
  | none => storeRec r s
  | some (n, w) => judgeRec r 0 n w s

/-- A program event (R109, R359, R362). -/
def logProg (e : EvEnt) (s : State) : State :=
  let d := bytesLE 2 e.secno ++ [e.qa, 0] ++ bytesLE 4 e.wa.toNat ++ bytesLE 4 0 ++ bytesLE 8 e.mt.toNat
  let r := mkRec s e.code.toNat e.sev e.stage 0 1 d
  let (n, w) := bandLimit e.sev
  judgeRec r (if e.sev ≤ 2 then 0 else 1) n w s

/-- R363: an entry dropped past the sixteenth of an execution is suppressed under its own code, in the window that it opens if
there is none; where the stage has no window left, into the catch-all. DEDUCED, log 46. -/
def logDropped (e : EvEnt) (s : State) : State :=
  let r := mkRec s e.code.toNat e.sev e.stage 0 1 []
  let band := if e.sev ≤ 2 then 0 else 1
  let (n, w) := bandLimit e.sev
  match s.log.wins.find? (fun x => x.isFor e.stage e.code.toNat band true && decide (s.now < x.ends)) with
  | some x => putWin x (x.count r) (nextArr r.rank s).2
  | none =>
    if windowsFull s e.stage then catchAll r s
    else
      let s := (nextArr r.rank s).2
      { s with log := { s.log with wins := s.log.wins ++
        [{ owner := e.stage, code := e.code.toNat, prog := true, band := band, start := s.now, len := secT w
           limit := n, stored := 0, supp := 1, maxSev := e.sev, first := r.time, last := r.time
           view := viewOf e.stage, src := 1 }] } }

/-- LOG_WINDOW_END: a window of the code that has ended closes (R364). -/
def execLogWindowEnd (owner code band : Nat) (s : State) : Host.Outcome State Fault Refusal :=
  whenUp s fun s =>
    match s.log.wins.find? (fun w => w.owner == owner && w.code == code && w.band == band && decide (w.ends ≤ s.now)) with
    | some w => closeWin w s
    | none => s

/-- The first record of the ring not yet archived becomes archived. -/
def archiveFirst : List (Rec × Bool) → Option (Rec × List (Rec × Bool))
  | [] => none
  | (r, true) :: t => (archiveFirst t).map (fun x => (x.1, (r, true) :: x.2))
  | (r, false) :: t => some (r, (r, true) :: t)

/-- ARCHIVE_COPY: the next stored record is copied to the archive in RSEQ order (R367); when the archive
is full its oldest unit of 2,048 records is erased and counted. `ok` is whether the NAND took the copy. -/
def execArchiveCopy (ok : Bool) (s : State) : Host.Outcome State Fault Refusal :=
  whenUp s fun s =>
    if !ok || s.integ.nandOut then { s with log := { s.log with archFailed := true } }
    else
      match archiveFirst s.log.ring with
      | none => s
      | some (r, ring) =>
        let l := s.log
        if l.archive.length < archCap then
          { s with log := { l with ring := ring, archive := l.archive ++ [r], archFailed := false } }
        else
          { s with log := { l with
              ring := ring, archive := l.archive.drop 2048 ++ [r], archFailed := false
              archlost := BitVec.ofNat 32 (min (l.archlost.toNat + 2048) (2 ^ 32 - 1)) } }

/-- The records of the log as one, oldest first: archive, then ring records not archived (R367). -/
def allRecs (s : State) : List Rec :=
  s.log.archive ++ (s.log.ring.filter (fun e => !e.2)).map (·.1) ++
    ((s.log.ring.filter (fun e => e.2)).map (·.1)).filter (fun r => !s.log.archive.contains r)

/-- LOGSEQ (R365): the RSEQ of the newest stored record in a stage's view. -/
def logSeq (s : State) (st : Nat) : Word :=
  match (s.log.ring.reverse.find? (fun e => e.1.view.getLsbD st)) with
  | some e => e.1.rseq
  | none =>
    match s.log.archive.reverse.find? (fun r => r.view.getLsbD st) with
    | some r => r.rseq
    | none => 0

end Sys2Proof.Machine
end

