-- ==== Sys2Proof/Machine/Points.lean ====
section
/-! DEFINITION. The system points, the stage-relative points and the mains and slate points as they stand
(R17, R18, R33, R383, R411), the image snapshot of a take (R38, R55), and what a host reads (R316). -/

namespace Sys2Proof.Machine
open Sys2Proof

/-- A point that the module computes and that no image word holds: blocks 0 to 3, P 0x015F, the reserved
indices of block 5, and the mains and slate points (R17, R33). -/
def isSysPoint (pt : Nat) : Bool :=
  pt < 0x100 || pt == 0x15F || (0x168 ≤ pt && pt < 0x180)

/-- The key of a system point as one stage sees it (R18). -/
def sysKey (st pt : Nat) : Nat := if isRel pt then st * 65536 + pt else pt

/-- A valid system point. DEDUCED, log 27. -/
def sysV (w : Word) : PV := ⟨w, qVALID⟩

/-- SECALARM (R383). -/
def secalarm (s : State) : Word :=
  BitVec.ofNat 32 (s.keys.latched.toNat + b2n s.keys.loopOpen * 2 ^ 8 + b2n s.keys.locked * 2 ^ 16 +
    b2n s.keys.erased * 2 ^ 17 + b2n s.keys.keyloss * 2 ^ 18)

/-- CLASSCFG (P 0x0014). -/
def classcfgPoint (s : State) : Word :=
  BitVec.ofNat 32 ((List.range 4).foldl (fun a k =>
    a + (b2n (clsCfg s k).en * 8 + (clsCfg s k).n % 8) * 2 ^ (4 * k)) 0)

/-- A link as the module treats it: good unless either end judges it BAD (R171). DEDUCED, log 35. -/
def linkGoodA (s : State) : Bool := !s.bar.core.a.bad && !s.bar.repA
def linkGoodB (s : State) : Bool := !s.bar.core.b.bad && !s.bar.repB

/-- The slate mode's code (R26). -/
def SlateMode.code : SlateMode → Nat
  | .free => 0
  | .locked => 1
  | .flywheel => 2
  | .nominal => 3
  | .relock => 4

/-- FLYTIME (R33): milliseconds since the last plausible crossing, or since the slate started; 0 while
LOCKED. -/
def flytime (s : State) : Word :=
  if s.slate.mode = .locked then 0
  else BitVec.ofNat 32 (min ((s.now - s.slate.lastPlaus.getD s.slate.startAt) / 25_000) (2 ^ 32 - 1))

/-- Operations in flight now (R20). -/
def opsNow (s : State) : Nat :=
  ((List.range 32).map (fun st => (Table.get Admit.zero s.host.adm st).inFlight)).sum + s.host.devUsed

/-- Open sessions bound to a stage (P 0x0025). -/
def sessionsOf (s : State) (st : Nat) : Nat :=
  (s.host.conns.filter (fun e => match e.2 with
    | some c => c.sess.isSome && c.stage == st
    | none => false)).length

/-- CORES (P 0x0086): the application cores in service. -/
def coresPoint (s : State) : Word := s.integ.cores.setWidth 32

/-- The bank in service of an image kind (R389). -/
def bankInService (s : State) (kind : Nat) : Bank :=
  Table.get Bank.erased s.upd.bank (kind * 2 + b2n (Table.get false s.upd.inB kind))

/-- The value and quality of a system point as one stage sees it now (R17, R18, R33). DEDUCED, log 27. -/
def liveSys (s : State) (st pt : Nat) : PV :=
  let r := stgRt s st
  if 0x04 ≤ pt && pt ≤ 0x0C then (s.rtc.latched.getD (pt - 4) PV.zero)
  else if 0x10 ≤ pt && pt ≤ 0x13 then sysV (takeOf s (pt - 0x10)).takecnt
  else match pt with
  | 0x00 => sysV (s.variant.setWidth 32)
  | 0x01 => sysV ((bankInService s 6).provides.setWidth 32)
  | 0x02 => sysV (BitVec.ofNat 32 s.integ.modstate)
  | 0x14 => sysV (classcfgPoint s)
  | 0x20 => sysV (BitVec.ofNat 32 st)
  | 0x21 => sysV (BitVec.ofNat 32 (r.state + b2n r.lastCold * 4 + b2n r.recutNow * 8))
  | 0x22 => sysV (BitVec.ofNat 32
      (((List.range 4).foldl (fun m k => max m (Table.get 0 r.ovc k)) 0) * 2 ^ 16 + r.ovTotal.toNat))
  | 0x23 => sysV r.tagViol
  | 0x24 => sysV r.shed
  | 0x25 => sysV (BitVec.ofNat 32 (sessionsOf s st))
  | 0x26 => sysV (BitVec.ofNat 32 (b2n (Table.get none s.host.tx st).isSome))
  | 0x27 => sysV (logSeq s st)
  | 0x30 => sysV (BitVec.ofNat 32 (b2n r.fallback))
  | 0x80 => sysV s.power.vin
  | 0x81 => sysV s.power.pin
  | 0x82 => sysV (Config.coreTemp s.now)
  | 0x83 => sysV s.field.temp
  | 0x84 => sysV (BitVec.ofNat 32 (s.eng.retired.toNat * 2 ^ 16 + s.eng.inService.toNat))
  | 0x85 => sysV (BitVec.ofNat 32 s.integ.rowSpare)
  | 0x86 => sysV (coresPoint s)
  | 0x87 => sysV (BitVec.ofNat 32 (b2n (linkGoodA s) + b2n (linkGoodB s) * 2))
  | 0x88 => sysV s.integ.ageMargin
  | 0x89 => sysV (BitVec.ofNat 32 (s.host.opsHigh * 2 ^ 16 + opsNow s))
  | 0x8A => sysV (secalarm s)
  | 0x8B => sysV (BitVec.ofNat 32 s.upd.bootFail)
  | 0x8C => sysV s.integ.eccSram
  | 0x8D => sysV s.integ.eccMram
  | 0x170 => sysV (BitVec.ofNat 32 (s.slate.mode.code + b2n s.slate.nom60F * 8 + b2n s.slate.freeF * 16))
  | 0x171 => sysV s.slate.mainsPer
  | 0x172 => sysV s.slate.slatePer
  | 0x173 => sysV s.slate.mainsFreq
  | 0x174 => sysV s.slate.phErr
  | 0x175 => sysV s.slate.mainsAmp
  | 0x176 => sysV s.slate.lockLoss
  | 0x177 => sysV s.slate.implaus
  | 0x178 => sysV (flytime s)
  | 0x179 => sysV s.slate.halfcnt
  | 0x17A => sysV s.slate.slewRate
  | _ => PV.zero

/-- The listed absolute system points, in rising order. -/
def sysList : List Nat :=
  [0x00, 0x01, 0x02, 0x04, 0x05, 0x06, 0x07, 0x08, 0x09, 0x0A, 0x0B, 0x0C, 0x10, 0x11, 0x12, 0x13, 0x14,
   0x80, 0x81, 0x82, 0x83, 0x84, 0x85, 0x86, 0x87, 0x88, 0x89, 0x8A, 0x8B, 0x8C, 0x8D,
   0x170, 0x171, 0x172, 0x173, 0x174, 0x175, 0x176, 0x177, 0x178, 0x179, 0x17A]

/-- The listed stage-relative points, in rising order (R18). -/
def relList : List Nat := [0x20, 0x21, 0x22, 0x23, 0x24, 0x25, 0x26, 0x27, 0x30]

/-- The system points as they stand, by key, for the stages that are on (R55). DEDUCED, log 27. -/
def snapSys (s : State) : Table PV :=
  -- the keys of stage 0's own points lie between the absolute ones
  let zero := relList.map (fun pt => (pt, liveSys s 0 pt))
  let abs := sysList.map (fun pt => (pt, liveSys s 0 pt))
  let low := abs.filter (fun e => e.1 < 0x20)
  let high := abs.filter (fun e => 0x20 ≤ e.1)
  let rel := ((stagesOn s).filter (fun st => st != 0)).flatMap (fun st =>
    relList.map (fun pt => (st * 65536 + pt, liveSys s st pt)))
  (low ++ zero ++ high ++ rel).filter (fun e => e.2 != PV.zero)

/-- What a reader of stage `st` sees of a point now (R18, R131, R316). -/
def readNow (s : State) (st pt : Nat) : PV :=
  if isSysPoint pt then
    let v := liveSys s st pt
    ⟨v.val, withStage s pt v.q⟩
  else present s pt (rawPoint s pt)

end Sys2Proof.Machine
end

