-- ==== Sys2Proof/Machine/Operands.lean ====
section
/-! DEFINITION. What a section sees and where its writes go (R55, R56, R64, R67, R68), the checks of R73,
and every operand form of R83 to R86. -/

namespace Sys2Proof.Machine
open Sys2Proof

/-- A section fault (R73): its code, and the reference of its record (R359): kind 1 a point, 2 a loop. -/
structure SFault where
  code : Nat
  kind : Nat
  ref : Nat
  deriving DecidableEq, Repr

def fTAGW (pt : Nat) : SFault := ⟨1, 1, pt⟩
def fTAGR (pt : Nat) : SFault := ⟨2, 1, pt⟩
def fIDX (pt : Nat) : SFault := ⟨3, 1, pt⟩
def fWSET (pt : Nat) : SFault := ⟨4, 1, pt⟩
def fOPC : SFault := ⟨5, 0, 0⟩
def fSTK : SFault := ⟨6, 0, 0⟩
def fUECC : SFault := ⟨7, 0, 0⟩
def fBUDGET : SFault := ⟨8, 0, 0⟩

/-! ### The machine state's parts (R58, R59) -/

def Core.flag (c : Core) (i : Nat) : Bool := c.stw.getLsbD i
def Core.setFlag (c : Core) (i : Nat) (b : Bool) : Core :=
  { c with stw := if b then c.stw ||| (1#16 <<< i) else c.stw &&& ~~~(1#16 <<< i) }
def Core.ba (c : Core) : Bool := c.flag 0
def Core.nc (c : Core) : Bool := c.flag 1
def Core.setBa (c : Core) (b : Bool) : Core := c.setFlag 0 b
def Core.setNc (c : Core) (b : Bool) : Core := c.setFlag 1 b
/-- A sticky flag: set, never cleared (R59). -/
def Core.stick (c : Core) (i : Nat) (b : Bool) : Core := if b then c.setFlag i true else c

/-- An operand enters the chain (R60): NC = 1 opens it, NC = 0 combines. -/
def Core.chain (f : Bool → Bool → Bool) (v : Bool) (q : Byte) (c : Core) : Core :=
  if c.nc then { (c.setBa v).setNc false with bq := q }
  else { (c.setBa (f c.ba v)).setNc false with bq := comb c.bq q }

/-- A word result enters WA, with quality `q` and FAULT where the result adds it; the flags of R95. -/
def Core.putAlu (a : Alu) (q : Byte) (c : Core) : Core :=
  let c := (c.setFlag 2 a.z).setFlag 3 a.n
  let c := match a.c with
    | some b => c.setFlag 4 b
    | none => c
  let c := ((c.stick 5 a.v).stick 6 a.dz).stick 7 a.nan
  { c with wa := a.val, qa := if a.fault then q ||| 0x80 else q }

/-- Local word n (R58). -/
def Core.local_ (c : Core) (n : Nat) : Word × Byte := Table.get (0, 1) c.loc n
def Core.setLocal (c : Core) (n : Nat) (v : Word) (q : Byte) : Core :=
  { c with loc := Table.set (0, 1) c.loc n (v, q) }

/-- A word with one bit replaced. -/
def putBit (w : Word) (i : Nat) (b : Bool) : Word :=
  if b then w ||| (1#32 <<< i) else w &&& ~~~(1#32 <<< i)

/-! ### The section's definition and its view (R55, R56, R131) -/

/-- The section table entry of a section in execution. -/
def secDef (s : State) (stage secno : Nat) : Option SecDef :=
  match progOf s stage with
  | none => none
  | some p => p.secs.find? (fun d => d.secno == secno)

/-- The merged writes of the section's stage in its class's take. -/
def mergedOf (s : State) (cls stage : Nat) : WBuf := Table.get WBuf.empty (takeOf s cls).merged stage

/-- A point as the take image holds it: a system point by the reader's key, any other by its index. -/
def imagePV (s : State) (r : SecRun) (pt : Nat) : PV :=
  if isSysPoint pt then Table.get PV.zero (takeOf s r.cls).sys (sysKey r.stage pt)
  else Table.get PV.zero (takeOf s r.cls).snap pt

/-- The write that the view holds for a point: the section's own, else a merged one. -/
def bufferedPV (s : State) (r : SecRun) (pt : Nat) : Option (Word × Byte) :=
  match Table.get none r.buf.pts pt with
  | some e => some e
  | none => Table.get none (mergedOf s r.cls r.stage).pts pt

/-- The underlying point in the section's view: value and quality bits [8:0]. A section that has written P 0x0030 in its take
reads there what it wrote, CLROVR too: R56's own write goes before R17. DESIGN CHOICE, log 27. -/
def underView (s : State) (r : SecRun) (pt : Nat) : PV :=
  let im := imagePV s r pt
  match bufferedPV s r pt with
  | some (v, c) => ⟨v, storeQual im.q c⟩
  | none => im

/-- The point as the section reads it: the forced value under a freeze (R56, R131). -/
def viewPV (s : State) (r : SecRun) (pt : Nat) : PV := present s pt (underView s r pt)

/-- The read takes the value from an image word that has an uncorrectable error (R73). -/
def imageBad (s : State) (r : SecRun) (pt : Nat) : Bool :=
  (bufferedPV s r pt).isNone && (frozen s pt).isNone && s.points.uecc.contains pt

/-- The range declared for the instruction at the section's PC holds the point (R73). -/
def inRange (s : State) (r : SecRun) (pt : Nat) : Bool :=
  match progOf s r.stage with
  | none => false
  | some p => p.ranges.any (fun e => e.1 == r.core.pc.toNat && e.2.1 ≤ pt && pt ≤ e.2.2)

/-- The section's declared write set holds the point (R73). -/
def inWrSet (s : State) (r : SecRun) (pt : Nat) : Bool :=
  match secDef s r.stage r.secno with
  | none => false
  | some d => d.wr.any (fun e => e.1 ≤ pt && pt ≤ e.2)

/-- The checks of a read in the order of R73. -/
def checkRead (s : State) (r : SecRun) (pt : Nat) (ind : Bool) : Except SFault Unit :=
  if !mayRead s r.stage pt then .error (fTAGR pt)
  else if ind && !inRange s r pt then .error (fIDX pt)
  else if imageBad s r pt then .error fUECC
  else .ok ()

/-- The checks of a write in the order of R73. An uncorrectable image word raises nothing where a bit store reads it. DESIGN
CHOICE, log 65. -/
def checkWrite (s : State) (r : SecRun) (pt : Nat) (ind : Bool) : Except SFault Unit :=
  if !mayWrite s r.stage pt then .error (fTAGW pt)
  else if ind && !inRange s r pt then .error (fIDX pt)
  else if !inWrSet s r pt then .error (fWSET pt)
  else .ok ()

/-- A write to a point enters the section's buffer with its carried quality (R56, R68). -/
def SecRun.writePt (r : SecRun) (pt : Nat) (v : Word) (q : Byte) : SecRun :=
  { r with buf := { r.buf with pts := Table.set none r.buf.pts pt (some (v, q &&& 0xF7)) } }

/-- The point of an IND operand: base plus [15:0] of the index local, modulo 65,536 (R83, R85). -/
def indPoint (c : Core) (base n : Nat) : Nat := (base + (c.local_ (60 + n)).1.toNat % 65536) % 65536

/-! ### Slots (R64, R84, R86) -/

/-- The slot is within the stage's allocation; beyond it, it is a reserved encoding (R91). -/
def slotFits (s : State) (st : Nat) (ctr : Bool) (n : Nat) : Bool :=
  if ctr then decide (n < ctrCnt s st) else decide (n < tmrCnt s st)

/-- A timer slot in the section's view. -/
def timerView (s : State) (r : SecRun) (n : Nat) : Timer :=
  match Table.get none r.buf.tmr n with
  | some t => t
  | none =>
    match Table.get none (mergedOf s r.cls r.stage).tmr n with
    | some t => t
    | none => Table.get Timer.zero s.eng.timers (tmrFirst s r.stage + n)

/-- A counter slot in the section's view. -/
def counterView (s : State) (r : SecRun) (n : Nat) : Counter :=
  match Table.get none r.buf.ctr n with
  | some c => c
  | none =>
    match Table.get none (mergedOf s r.cls r.stage).ctr n with
    | some c => c
    | none => Table.get Counter.fresh s.eng.counters (ctrFirst s r.stage + n)

def SecRun.writeTimer (r : SecRun) (n : Nat) (t : Timer) : SecRun :=
  { r with buf := { r.buf with tmr := Table.set none r.buf.tmr n (some t) } }
def SecRun.writeCounter (r : SecRun) (n : Nat) (c : Counter) : SecRun :=
  { r with buf := { r.buf with ctr := Table.set none r.buf.ctr n (some c) } }

/-- The status bits of a counter from its count and preset (R93). -/
def Counter.judge (c : Counter) : Counter :=
  { c with done := decide (c.pv.toInt ≤ c.cv.toInt), zero := c.cv == 0
           sathi := c.cv == 0x7FFF_FFFF, satlo := c.cv == 0x8000_0000 }

/-- A status bit of a slot (R84). -/
def slotBit (s : State) (r : SecRun) (ctr : Bool) (n b : Nat) : Bool :=
  if ctr then
    let c := counterView s r n
    if b = 0 then c.done else if b = 1 then c.zero else if b = 2 then c.sathi else c.satlo
  else
    let t := timerView s r n
    if b = 0 then t.q else t.run

/-- A write to PT: a negative value writes 0 and sets V (R86). -/
def SecRun.writePT (s : State) (r : SecRun) (n : Nat) (v : Word) : SecRun :=
  let r' := r.writeTimer n { timerView s r n with pt := if v.getLsbD 31 then 0 else v }
  { r' with core := r'.core.stick 5 (v.getLsbD 31) }

/-- A write to a slot field (R86): CV recomputes the status bits at once, PV and PT do not. -/
def SecRun.writeSlot (s : State) (r : SecRun) (ctr : Bool) (field n : Nat) (v : Word) : SecRun :=
  if ctr then
    if field = 0 then r.writeCounter n ({ counterView s r n with cv := v }).judge
    else r.writeCounter n { counterView s r n with pv := v }
  else r.writePT s n v

/-! ### Operands -/

/-- A bit operand read: its value and carried quality (R83). -/
def readBitOp (s : State) (r : SecRun) (w : BitVec 24) : Except SFault (Bool × Byte) :=
  let m := fld w 2 0
  let b := fld w 7 3
  if m = 1 then
    let l := r.core.local_ (fld w 13 8)
    .ok (l.1.getLsbD b, l.2)
  else if m = 3 then
    let ctr := fld w 23 23 == 1
    let n := fld w 20 8
    if slotFits s r.stage ctr n then
      .ok (slotBit s r ctr n b, if ctr then (counterView s r n).qual else (timerView s r n).qual)
    else .error fOPC
  else if m = 2 then do
    let pt := fld w 23 8
    checkRead s r pt false
    pure ((viewPV s r pt).q.getLsbD b, 1)
  else do
    let pt := if m = 0 then fld w 23 8 else indPoint r.core (fld w 23 8) (fld w 1 0)
    checkRead s r pt (m != 0)
    pure ((viewPV s r pt).val.getLsbD b, carried (viewPV s r pt).q)

/-- A bit operand written (R89): the underlying value of the section's view with one bit replaced.
`v` is none for a SETB or CLRB that finds BA = 0: the checks are made and nothing is written. -/
def writeBitOp (s : State) (r : SecRun) (w : BitVec 24) (v : Option Bool) : Except SFault SecRun :=
  let m := fld w 2 0
  let b := fld w 7 3
  if m = 1 then
    let n := fld w 13 8
    match v with
    | none => .ok r
    | some x => .ok { r with core := r.core.setLocal n (putBit (r.core.local_ n).1 b x) r.core.bq }
  else do
    let pt := if m = 0 then fld w 23 8 else indPoint r.core (fld w 23 8) (fld w 1 0)
    checkWrite s r pt (m != 0)
    match v with
    | none => pure r
    | some x => pure (r.writePt pt (putBit (underView s r pt).val b x) r.core.bq)

/-- A word operand read: its value and quality (R85, R86). -/
def readWordOp (s : State) (r : SecRun) (w : BitVec 24) : Except SFault (Word × Byte) :=
  let m := fld w 23 20
  if m = 2 then .ok (r.core.local_ (fld w 5 0))
  else if m = 3 then .ok ((w.setWidth 20).signExtend 32, 1)
  else if m = 4 then .ok (BitVec.ofNat 32 (fld w 15 0 * 65536), 1)
  else if m = 6 then
    let ctr := fld w 19 19 == 1
    let n := fld w 12 0
    if slotFits s r.stage ctr n then
      .ok (if ctr then (if fld w 18 16 = 0 then (counterView s r n).cv else (counterView s r n).pv, 1)
           else (if fld w 18 16 = 0 then (timerView s r n).et else (timerView s r n).pt, 1))
    else .error fOPC
  else if m = 1 then do
    let pt := fld w 15 0
    checkRead s r pt false
    pure ((viewPV s r pt).q.setWidth 32, 1)
  else do
    let pt := if m = 0 then fld w 15 0 else indPoint r.core (fld w 15 0) (fld w 17 16)
    checkRead s r pt (m != 0)
    pure ((viewPV s r pt).val, carried (viewPV s r pt).q)

/-- A word operand written with WA and QA (R94, R85, R86). -/
def writeWordOp (s : State) (r : SecRun) (w : BitVec 24) : Except SFault SecRun :=
  let m := fld w 23 20
  if m = 2 then .ok { r with core := r.core.setLocal (fld w 5 0) r.core.wa r.core.qa }
  else if m = 6 then
    let ctr := fld w 19 19 == 1
    let n := fld w 12 0
    if slotFits s r.stage ctr n then .ok (r.writeSlot s ctr (fld w 18 16) n r.core.wa)
    else .error fOPC
  else do
    let pt := if m = 0 then fld w 15 0 else indPoint r.core (fld w 15 0) (fld w 17 16)
    checkWrite s r pt (m != 0)
    pure (r.writePt pt r.core.wa r.core.qa)

end Sys2Proof.Machine
end

