-- ==== Sys2Proof/Machine/Image.lean ====
section
/-! DEFINITION. The program image (R113 to R120): reading its header, regions and tables from the bytes, and
the checks of the loader's format group that concern them (R122 group 1). -/

namespace Sys2Proof.Machine
open Sys2Proof

/-- An error of the loader or of another check: code, section, instruction, and the point, slot, loop, stage
or entry concerned (R121). -/
structure LoadErr where
  code : Nat
  secno : Nat
  index : Nat
  ref : Nat
  deriving DecidableEq, Repr

/-- An error of the image as a whole. -/
def imgErr (code : Nat) : LoadErr := ⟨code, 0xFFFF, 0xFFFF_FFFF, 0⟩

/-- The header and directory (R113). -/
structure ImgHead where
  stage : Nat
  imageId : Word
  ninstr : Nat
  nsect : Nat
  nsub : Nat
  nobj : Nat
  nslot : Nat
  nrange : Nat
  dir : List (Nat × Nat)
  deriving DecidableEq, Repr

/-- The nine regions of the directory as offset and length. -/
def readDir (bs : List Byte) : List (Nat × Nat) :=
  (List.range 9).map (fun i => (getLE bs (0x28 + 8 * i) 4, getLE bs (0x2C + 8 * i) 4))

def readHead (bs : List Byte) : ImgHead :=
  { stage := getLE bs 6 1, imageId := BitVec.ofNat 32 (getLE bs 0x0C 4), ninstr := getLE bs 0x18 4
    nsect := getLE bs 0x1C 2, nsub := getLE bs 0x1E 2, nobj := getLE bs 0x20 2, nslot := getLE bs 0x22 2
    nrange := getLE bs 0x24 4, dir := readDir bs }

/-- The length that each region must have for the counts of the header; none: not fixed by a count. -/
def regionLen (h : ImgHead) (i : Nat) : Option Nat :=
  match i with
  | 0 => some (h.nsect * 32)
  | 1 => some (h.nsub * 8)
  | 2 => some (h.nobj * 16)
  | 3 => some h.nobj
  | 5 => some (h.nrange * 8)
  | 6 => some (h.nslot * 12)
  | 8 => some (h.ninstr * 4)
  | _ => none

/-- Two regions share a byte. -/
def regionsMeet (a b : Nat × Nat) : Bool :=
  decide (0 < a.2) && decide (0 < b.2) && decide (a.1 < b.1 + b.2) && decide (b.1 < a.1 + a.2)

/-- Pairwise over a list. -/
def pairsOk {α : Type} (ok : α → α → Bool) : List α → Bool
  | [] => true
  | a :: t => t.all (ok a) && pairsOk ok t

/-- Region `i`'s bytes. -/
def regionBytes (bs : List Byte) (h : ImgHead) (i : Nat) : List Byte :=
  let r := h.dir.getD i (0, 0)
  (bs.drop r.1).take r.2

/-- A section table entry (R115) with its sets (R116). -/
def readSec (bs : List Byte) (h : ImgHead) (i : Nat) : SecDef :=
  let o := (h.dir.getD 0 (0, 0)).1 + 32 * i
  let sets := regionBytes bs h 4
  let entries (ofs n : Nat) : List (Nat × Nat) :=
    (List.range n).map (fun j => (getLE sets (ofs + 4 * j) 2, getLE sets (ofs + 4 * j + 2) 2))
  { secno := getLE bs o 2, wtool := getLE bs (o + 12) 4, cls := getLE bs (o + 2) 1, scene := getLE bs (o + 3) 1
    first := getLE bs (o + 4) 4, count := getLE bs (o + 8) 4
    rd := entries (getLE bs (o + 16) 4) (getLE bs (o + 20) 2)
    wr := entries (getLE bs (o + 24) 4) (getLE bs (o + 22) 2), w := 0 }

/-- An object table entry (R117) with its retention (R118) and values. -/
def readObj (bs : List Byte) (h : ImgHead) (i : Nat) : ObjDef :=
  let o := (h.dir.getD 2 (0, 0)).1 + 16 * i
  let n := getLE bs (o + 2) 2
  let vals := regionBytes bs h 7
  let words (ofs : Nat) : List Word :=
    (List.range n).map (fun j => BitVec.ofNat 32 (getLE vals (ofs + 4 * j) 4))
  let fb := getLE bs (o + 12) 4
  { first := getLE bs o 2, count := n, kind := getLE bs (o + 4) 1, cls := getLE bs (o + 5) 1
    type := getLE bs (o + 6) 1, subst := getLE bs (o + 7) 1
    retention := getLE (regionBytes bs h 3) i 1, init := words (getLE bs (o + 8) 4)
    fallback := if fb = 0xFFFF_FFFF then none else some (words fb) }

/-- A slot table entry (R119). -/
def readSlot (bs : List Byte) (h : ImgHead) (i : Nat) : SlotDef :=
  let o := (h.dir.getD 6 (0, 0)).1 + 12 * i
  let r := getLE bs o 2
  { counter := natBit r 15, num := r % 2 ^ 13, secno := getLE bs (o + 2) 2
    preset := BitVec.ofNat 32 (getLE bs (o + 4) 4), cv := BitVec.ofNat 32 (getLE bs (o + 8) 4) }

/-- The program an image describes, W not yet computed. -/
def readProg (bs : List Byte) : Prog :=
  let h := readHead bs
  { imageId := h.imageId
    secs := (List.range h.nsect).map (readSec bs h)
    subs := (List.range h.nsub).map (fun i =>
      let o := (h.dir.getD 1 (0, 0)).1 + 8 * i
      (getLE bs o 4, getLE bs (o + 4) 4))
    objs := (List.range h.nobj).map (readObj bs h)
    ranges := (List.range h.nrange).map (fun i =>
      let o := (h.dir.getD 5 (0, 0)).1 + 8 * i
      (getLE bs o 4, getLE bs (o + 4) 2, getLE bs (o + 6) 2))
    slots := (List.range h.nslot).map (readSlot bs h)
    code := (List.range h.ninstr).map (fun i =>
      BitVec.ofNat 32 (getLE bs ((h.dir.getD 8 (0, 0)).1 + 4 * i) 4))
    setBytes := (h.dir.getD 4 (0, 0)).2 }

/-- The greatest image (R113). -/
def imageMax : Nat := 6_291_456

/-- The header is sound (R113, R114): LENGTH, MAGIC, VERSION, zero fields, and the regions. A region whose length is not its
header count times the size of an entry is FORMAT too. DESIGN CHOICE, log 28. -/
def headOk (bs : List Byte) : Bool :=
  let h := readHead bs
  let len := bs.length
  decide (132 ≤ len) && getLE bs 8 4 == len && decide (len ≤ imageMax) &&
    getLE bs 0 4 == 0x4D50_4651 && getLE bs 5 1 == 1 && getLE bs 7 1 == 0 && getLE bs 0x70 16 == 0 &&
    decide (1 ≤ h.nsect) && decide (h.nsect ≤ 8192) &&
    h.dir.all (fun r => r.1 % 4 == 0 && (r.2 == 0 || decide (128 ≤ r.1)) && decide (r.1 + r.2 ≤ len - 4)) &&
    pairsOk (fun a b => !regionsMeet a b) h.dir &&
    (List.range 9).all (fun i => match regionLen h i with
      | some n => (h.dir.getD i (0, 0)).2 == n
      | none => true)

/-- The offset of a section table entry. -/
def secOfs (bs : List Byte) (i : Nat) : Nat := ((readHead bs).dir.getD 0 (0, 0)).1 + 32 * i

/-- A section table entry is sound (R115): its numbers, its run in the code and its sets in the set area. A set that runs
outside the set area is FORMAT. DESIGN CHOICE, log 28. -/
def secEntryOk (bs : List Byte) (i : Nat) : Bool :=
  let h := readHead bs
  let d := readSec bs h i
  let o := secOfs bs i
  let setLen := (h.dir.getD 4 (0, 0)).2
  decide (d.secno ≤ 8191) && decide (d.cls ≤ 3) && decide (d.scene ≤ 7) && decide (1 ≤ d.count) &&
    decide (d.first + d.count ≤ h.ninstr) && getLE bs (o + 28) 4 == 0 &&
    decide (getLE bs (o + 16) 4 + 4 * getLE bs (o + 20) 2 ≤ setLen) &&
    decide (getLE bs (o + 24) 4 + 4 * getLE bs (o + 22) 2 ≤ setLen)

/-- A slot table entry is sound (R119). -/
def slotEntryOk (bs : List Byte) (i : Nat) : Bool :=
  let h := readHead bs
  let d := readSlot bs h i
  let r := getLE bs ((h.dir.getD 6 (0, 0)).1 + 12 * i) 2
  r / 2 ^ 13 % 4 == 0 && (d.counter || (!d.preset.getLsbD 31 && d.cv == 0))

/-- An object's values lie in the initial values region (R117); those of an input object that substitutes
its last value are never used. Values outside the region are FORMAT. DESIGN CHOICE, log 28. -/
def objEntryOk (bs : List Byte) (i : Nat) : Bool :=
  let h := readHead bs
  let o := (h.dir.getD 2 (0, 0)).1 + 16 * i
  let n := getLE bs (o + 2) 2
  let len := (h.dir.getD 7 (0, 0)).2
  let fb := getLE bs (o + 12) 4
  decide (1 ≤ n) &&
    ((getLE bs (o + 4) 1 == 1 && getLE bs (o + 7) 1 == 0) || decide (getLE bs (o + 8) 4 + 4 * n ≤ len)) &&
    (fb == 0xFFFF_FFFF || decide (fb + 4 * n ≤ len))

/-- Every run of code, of sections and subroutines. -/
def bodies (p : Prog) : List (Nat × Nat) := p.secs.map (fun d => (d.first, d.count)) ++ p.subs

/-- FORMAT of the tables under a sound header: every entry, unique section numbers, disjoint runs (R114 to R120). -/
def tableErrs (bs : List Byte) : List LoadErr :=
  let h := readHead bs
  let p := readProg bs
  ((List.range h.nsect).filter (fun i => !secEntryOk bs i)).map (fun i => ⟨0x0101, (readSec bs h i).secno, 0xFFFF_FFFF, 0⟩) ++
    ((List.range h.nslot).filter (fun i => !slotEntryOk bs i)).map (fun i =>
      ⟨0x0101, (readSlot bs h i).secno, 0xFFFF_FFFF, (readSlot bs h i).num⟩) ++
    ((List.range h.nobj).filter (fun i => !objEntryOk bs i)).map (fun i => ⟨0x0101, 0xFFFF, 0xFFFF_FFFF, (readObj bs h i).first⟩) ++
    (if pairsOk (fun a b => a.secno != b.secno) p.secs &&
        p.subs.all (fun b => decide (1 ≤ b.2) && decide (b.1 + b.2 ≤ h.ninstr)) &&
        pairsOk (fun a b => !regionsMeet a b) (bodies p) then [] else [imgErr 0x0101])

/-- FORMAT of a whole image. -/
def formatErrs (bs : List Byte) : List LoadErr := if headOk bs then tableErrs bs else [imgErr 0x0101]

/-- LENGTH is the number of bytes staged (R114); where it is not, the CRC is not checked. -/
def lengthOk (bs : List Byte) : Bool := decide (132 ≤ bs.length) && getLE bs 8 4 == bs.length

/-- The trailer's CRC-32C (R114). -/
def trailerOk (bs : List Byte) : Bool :=
  getLE bs (bs.length - 4) 4 == (crc32c (bs.take (bs.length - 4))).toNat

end Sys2Proof.Machine
end

