-- ==== Sys2Proof/Machine/Modstate.lean ====
section
/-! DEFINITION. MODSTATE and the predictive event (R422, R423). -/

namespace Sys2Proof.Machine
open Sys2Proof

/-- Lane pairs in service. -/
def pairsIn (s : State) : Nat :=
  ((List.range 9).filter (fun p => s.eng.inService.getLsbD p)).length

/-- MODSTATE from the worst condition that holds (R423). -/
def modstateOf (s : State) : Nat :=
  if !s.integ.tested then 0
  else if pairsIn s = 0 || !s.loops.inService || s.integ.cores == 0 || s.integ.holdRows then 4
  else if pairsIn s ≤ 7 || s.integ.rowSpare = 0 then 3
  else if pairsIn s = 8 || s.integ.cores != 0xF then 2
  else 1

/-- A change of MODSTATE is recorded (R423, R426). -/
def refreshMod (s : State) : State :=
  let m := modstateOf s
  if m = s.integ.modstate then s
  else
    logEv 0x82 (if m = 3 then 5 else if m = 4 then 7 else 3) 0 viewAll 0
      (packD [(1, s.integ.modstate), (1, m)]) { s with integ := { s.integ with modstate := m } }

/-- PREDICT is raised once for each cause until it clears (R422). Causes: 0 the ageing margin, 1 to 9 pair
`c - 1` marginal, 10 spare rows, 11 NAND reserve, 12 the spare core pair active, 13 nine pairs no longer in
service. -/
def predict (cause : Nat) (s : State) : State :=
  if s.integ.predicted.contains cause then s
  else
    logEv 0x81 4 0 (viewOf 0) 0
      (packD [(1, cause), (4, s.integ.ageMargin.toNat), (4, s.integ.rowSpare), (4, s.integ.nandFree)])
      { s with integ := { s.integ with predicted := cause :: s.integ.predicted } }

/-- A cause of PREDICT clears. -/
def unpredict (cause : Nat) (s : State) : State :=
  { s with integ := { s.integ with predicted := s.integ.predicted.filter (fun c => c != cause) } }

end Sys2Proof.Machine
end

