-- ==== Sys2Proof/Machine/Burst.lean ====
section
/-! DEFINITION. Frame slots at the two ends of the barrier (R169, R171, R172) and the INPUT burst as the
core holds it (R168, R173, R144). -/

namespace Sys2Proof.Machine
open Sys2Proof

/-- Bad copies of the last millisecond (R171), the new one first. -/
def recent (now : Nat) (l : List Nat) : List Nat := (now :: l).filter (fun t => now < t + msT 1)

/-- One slot of one link at one end (R169): whether the copy is good, and the link after it. `ok` is the
receiver's verdict on SOF, EOF, CRC and KIND; SEQ is judged here unless the link has just been trained. -/
def LinkEnd.slot (ok : Bool) (seq : Half) (now : Nat) (e : LinkEnd) : Bool × LinkEnd :=
  if ok && (!e.synced || seq == e.expSeq) then
    (true, { e with expSeq := seq + 1, synced := true, noGood := 0 })
  else
    (false, { e with expSeq := e.expSeq + 1, noGood := e.noGood + 1, badAt := recent now e.badAt })

/-- One slot at one end: whether its frame is used, whether either copy was good, and the end after it.
`differ`: both copies are good and their bytes differ, so both are discarded. -/
def BarEnd.slot (h : FrameHdr) (differ : Bool) (now : Nat) (e : BarEnd) : Bool × Bool × Bool × BarEnd :=
  let a := e.a.slot h.goodA h.seq now
  let b := e.b.slot h.goodB h.seq now
  let any := (a.1 || b.1) && !(differ && a.1 && b.1)
  (any && (!h.rep || !e.prevGood), a.1, b.1,
    { e with a := a.2, b := b.2, prevGood := any, noGood := if any then 0 else e.noGood + 1
             loss := e.loss && !any })

/-! ### The frame of a slot (R166, R168) -/

/-- The bytes of a frame: SOF, TYPE, SUB, SEQ, STAMP, PAYLOAD, CRC and EOF, the control symbols as their data octets. -/
def frameBytes (toCore rep : Bool) (kind sub : Nat) (seq : Half) (stamp : Nat) (pay : List Byte) : List Byte :=
  let body := [BitVec.ofNat 8 (b2n toCore * 128 + b2n rep * 64 + kind), BitVec.ofNat 8 sub] ++ bytesLE 2 seq.toNat ++
    bytesLE 3 stamp ++ (pay ++ List.replicate 36 0).take 36
  0xBC :: body ++ bytesLE 4 (crc32 body).toNat ++ [0xFC, 0xBC]

/-- The phase step in the slate period and its fraction in 1/4,096 (R25, R166). -/
def phaseNow (s : State) : Nat :=
  sincePh0 s * 4096 * 4096 / s.slate.period % 2 ^ 24

/-- Words as the bytes of a payload. -/
def wordBytes (ws : List Word) : List Byte := ws.flatMap (fun w => bytesLE 4 w.toNat)

/-! ### The field side's slate follower (R170) -/

/-- The absolute phase step at the field side, modulo the wrap of a 16-bit HALFCNT: from the last STAMP on, at the last
period heard of. -/
def folAbs (s : State) : Nat :=
  let f := s.field
  (f.folHalf.toNat * 2048 + f.folStep % 2048 + (f.folFrac + (s.now - f.folAt) * 40 * 4096 * 4096 / f.folPer.toNat) / 4096) % 2 ^ 27

/-- The follower has reached an absolute phase step. -/
def folReached (s : State) (t : Nat) : Bool := decide ((folAbs s + 2 ^ 27 - t % 2 ^ 27) % 2 ^ 27 < 2 ^ 26)

/-- A STAMP is received: the half-period is the one nearest to where the follower stands that has the step's half. -/
def takeStamp (stamp : Nat) (s : State) : State :=
  let a := folAbs s
  let step := stamp / 4096
  let half := a / 2048
  let n := if half % 2 = step / 2048 then half else if a % 2048 < 1024 then half + 65535 else half + 1
  { s with field := { s.field with
      folHalf := BitVec.ofNat 16 n, folStep := step, folFrac := stamp % 4096, folAt := s.now } }

/-! ### Slots -/

/-- Differing slots are counted (R169). -/
def countDiff (both : Bool) (e : BarEnd) : BarEnd := { e with diffs := if both && e.diffs != 0xFF then e.diffs + 1 else e.diffs }

/-- A slot received at the field side. -/
def slotField (h : FrameHdr) (differ : Bool) (s : State) : Bool × State :=
  let r := s.bar.field.slot h differ s.now
  (r.1, { s with bar := { s.bar with field := countDiff (differ && r.2.1 && r.2.2.1) r.2.2.2 } })

/-- A slot received at the core: bad copies and differing slots are counted (R169, R179), and the end of a
barrier loss is recorded. -/
def slotCore (h : FrameHdr) (differ : Bool) (s : State) : Bool × State :=
  let r := s.bar.core.slot h differ s.now
  let b := s.bar
  let both := differ && r.2.1 && r.2.2.1
  let s' := { s with bar := { b with
    core := countDiff both r.2.2.2
    copiesA := if r.2.1 then b.copiesA else b.copiesA + 1
    copiesB := if r.2.2.1 then b.copiesB else b.copiesB + 1 } }
  (r.1, if b.core.loss && !r.2.2.2.loss then logEv 0x15 6 0 viewAll 0 (packD [(1, 1)]) s' else s')

/-- The meaning of a frame row toward the field side: the slot passes, and the frame acts if it is used. DESIGN CHOICE, log 13. -/
def fieldSlot (kind sub : Nat) (pay : List Byte) (h : FrameHdr) (f : State → State) (s : State) : State :=
  let stamp := phaseNow s
  let s := { s with bar := { s.bar with wireF := frameBytes false h.rep kind sub h.seq stamp pay } }
  let r := slotField h false s
  if r.1 then f (takeStamp stamp r.2) else r.2

/-- A row of a frame to the field side. -/
def toField (kind sub : Nat) (pay : List Byte) (h : FrameHdr) (f : State → State) (s : State) :
    Host.Outcome State Fault Refusal := whenUp s (fieldSlot kind sub pay h f)

/-- The meaning of a frame row toward the core. DESIGN CHOICE, log 13. -/
def coreSlot (kind sub : Nat) (pay : List Byte) (h : FrameHdr) (f : State → State) (s : State) : State :=
  let s := { s with bar := { s.bar with wireC := frameBytes true h.rep kind sub h.seq (s.now % 2 ^ 24) pay } }
  let r := slotCore h false s
  if r.1 then f r.2 else r.2

/-- A row of a frame to the core. -/
def toCore (kind sub : Nat) (pay : List Byte) (h : FrameHdr) (f : State → State) (s : State) :
    Host.Outcome State Fault Refusal := whenUp s (coreSlot kind sub pay h f)

/-- A word of a burst by SUB and position; 0 where absent. DESIGN CHOICE, log 14. -/
def burstWord (b : List (Nat × List Word)) (sub i : Nat) : Word :=
  match b.find? (fun e => e.1 == sub) with
  | some e => e.2.getD i 0
  | none => 0

/-- All seven frames of a burst are there (R168). -/
def burstWhole (b : List (Nat × List Word)) : Bool :=
  (List.range 7).all (fun i => b.any (fun e => e.1 == i))

/-- All four frames of a SAFSTAT burst are there (R168). -/
def satWhole (b : List (Nat × List Word)) : Bool := (List.range 4).all (fun i => b.any (fun e => e.1 == i))

/-- The image of a half-period that begins a take is built (R37): its INPUT burst has come or is missed, and its SAFSTAT burst
has come or its 48 microseconds are over. DEDUCED, log 35. -/
def imageBuilt (s : State) : Bool :=
  s.bar.burstDone && (satWhole s.bar.satBurst || decide (s.field.latAt + usT 48 ≤ s.now))

/-- DI n as a burst reports it (R182, R183): value and quality. SUB 0 holds HALFCNT, the crossings, the
filtered, raw and wire-break words; beside its payload goes the comparator-fault word. DESIGN CHOICE, log 14. -/
def burstDI (b : List (Nat × List Word)) (n : Nat) : Word × Byte :=
  let w := (burstWord b 0 5).getLsbD n
  let f := (burstWord b 0 6).getLsbD n
  (if w then 0 else BitVec.ofNat 32 (b2n ((burstWord b 0 3).getLsbD n)),
   BitVec.ofNat 8 (b2n (!w && !f) + b2n w * 0x40 + b2n f * 0x80))

/-- The condition of an AI in its status word (R190). -/
def aiCond (w : Word) : Nat := bitsOf w 23 16

/-- AI n as a burst reports it (R190): its value, none where the point keeps its last one, and quality.
Beside the payload of SUB 2 goes a word with VALID of each. DESIGN CHOICE, log 14. -/
def burstAI (b : List (Nat × List Word)) (n : Nat) : Option Word × Byte :=
  let w := burstWord b 2 n
  let c := aiCond w
  (if 3 ≤ c then none else some (burstWord b 1 n),
   BitVec.ofNat 8 (b2n ((burstWord b 2 8).getLsbD n) + b2n (c == 2) * 0x10 + b2n (c == 1) * 0x20 + b2n (c == 3) * 0x40 +
     b2n (4 ≤ c) * 0x80))

/-- DI0 to DI31 and AI0 to AI7 (R178). -/
def isDI (pt : Nat) : Bool := 0x100 ≤ pt && pt < 0x120
def isDO (pt : Nat) : Bool := 0x120 ≤ pt && pt < 0x130
def isAI (pt : Nat) : Bool := 0x130 ≤ pt && pt < 0x138
def isAO (pt : Nat) : Bool := 0x138 ≤ pt && pt < 0x13C

/-- AO millivolts of a Q16.16 voltage, clamped to 0 to 10.0 V, and whether it was clamped (R191). -/
def aoMv (v : Word) : Nat × Bool :=
  let mv := v.toInt * 1000 / 65536
  if v.toInt < 0 then (0, true) else if 10 * 65536 < v.toInt then (10_000, true) else (mv.toNat, false)

end Sys2Proof.Machine
end

