-- ==== Sys2Proof/Machine/Loops.lean ====
section
/-! DEFINITION. The loop engine (06_loop_engine.md): the latch, one sample of a group, outputs, starts,
commands, fallback, and the rows LOOP_SAMPLE, LOOP_OUTPUT_WRITE and LOOP_ENGINE_KAT. -/

namespace Sys2Proof.Machine
open Sys2Proof

/-- A value limited to [lo, hi]. -/
def clampTo (v lo hi : Int) : Int := if v < lo then lo else if hi < v then hi else v

/-- clampI of R151, in Q16.32. DEDUCED, log 29. -/
def clampI (d : LoopDesc) (v : Int) : Int := clampTo v (d.ilo.toInt * 2 ^ 16) (d.ihi.toInt * 2 ^ 16)

/-- An output limited to the descriptor's range. -/
def clampO (d : LoopDesc) (v : Int) : Int := clampTo v d.olo.toInt d.ohi.toInt

/-- Every loop number of the variant. -/
def loopNums (s : State) : List Nat := s.loops.desc.map (fun e => e.1)

/-- The loop leads a group or stands alone. -/
def isLead (s : State) (n : Nat) : Bool := (loopDesc s n).kind == 1 && (loopDesc s n).grole != 2

/-- The members of a leader's group in ascending order, the leader last (R160). -/
def groupOf (s : State) (lead : Nat) : List Nat :=
  (loopNums s).filter (fun n => n != lead && (loopDesc s n).kind == 1 && (loopDesc s n).grole == 2 &&
    (loopDesc s n).glead == lead) ++ [lead]

/-! ### Starts and commands (R155, R157, R159) -/

/-- The cold start of a loop (R159), after which a reader still sees the output last written and the values of its last
sample (R107). DEDUCED, log 29. -/
def loopCold (d : LoopDesc) (old : LoopRt) : LoopRt :=
  let z := BitVec.ofInt 48 (clampI d 0)
  { LoopRt.fresh with
    s1 := List.replicate d.nsec z, s2 := List.replicate d.nsec z, i := z
    uprev := BitVec.ofInt 32 (clampO d d.offval.toInt)
    force := ⟨d.initmode, (0, 0), (0, 0), (0, 0)⟩
    lastSp := old.lastSp, lastPv := old.lastPv, lastOut := old.lastOut }

/-- No output of a loop is due any more, in MRAM either. -/
def dropDue (n : Nat) (s : State) : State :=
  { s with loops := { s.loops with
      due := s.loops.due.filter (fun o => o.loop != n), keptDue := s.loops.keptDue.filter (fun o => o.loop != n) } }

/-- The engine writes a loop's state to MRAM at the end of its evaluation, with the output due (R152). -/
def retainLoop (n : Nat) (s : State) : State :=
  { s with loops := { s.loops with
      kept := Table.set LoopRt.fresh s.loops.kept n (loopRt s n)
      keptDue := s.loops.keptDue.filter (fun o => o.loop != n) ++ s.loops.due.filter (fun o => o.loop == n) } }

/-- The loops' states after a power loss (R152): those of their last completed evaluations; a reader still sees the output
last written (R162). -/
def keptLoops (s : State) : Table LoopRt :=
  s.loops.rt.foldl (fun t e =>
    Table.set LoopRt.fresh t e.1 { Table.get LoopRt.fresh s.loops.kept e.1 with lastOut := e.2.lastOut }) s.loops.kept

/-- A loop starts cold (R159), in MRAM too: no output is written until its first sample. -/
def coldLoop (n : Nat) (s : State) : State :=
  retainLoop n (dropDue n (putLoop n (loopCold (loopDesc s n) (loopRt s n)) s))

/-- A loop enters its stage's fallback (R157): what is in force is kept, and FBMODE takes its place. DEDUCED, log 29. -/
def loopEnterFb (n : Nat) (s : State) : State :=
  let d := loopDesc s n
  let l := loopRt s n
  if isLead s n && l.saved.isNone then
    let f := l.force
    let f' := if d.fbmode = 0 then { f with mode := 3 } else if d.fbmode = 1 then { f with mode := 4 }
      else { f with mode := 1, man := (d.fbval, 1) }
    putLoop n { l with saved := some f, force := f' } s
  else s

/-- A loop returns from fallback (R157): what was in force returns, through a transition. -/
def loopLeaveFb (n : Nat) (s : State) : State :=
  let l := loopRt s n
  match l.saved with
  | some f => putLoop n { l with saved := none, force := f, trans := true } s
  | none => s

/-- The loops of a stage. -/
def stageLoops (s : State) (st : Nat) : List Nat := (loopNums s).filter (ownsLoop s st)

/-- A value command: not applied with VALID clear (R155). -/
def cmdVal (c : Option (Word × Byte)) (old : Word × Byte) : Word × Byte :=
  match c with
  | some v => if v.2.getLsbD 0 then v else old
  | none => old

/-- A command with VALID clear. -/
def cmdBad (c : Option (Word × Byte)) : Bool :=
  match c with
  | some v => !v.2.getLsbD 0
  | none => false

/-- A loop's commands come into force at the output phase of the take that handed them off (R155). Modes,
manual and tracking values are for a leader or a loop outside a group; a set-point may address any. -/
def loopCommands (n : Nat) (c : LoopCmd) (s : State) : State :=
  let l := loopRt s n
  let lead := isLead s n
  let f := l.force
  let f := { f with sp := cmdVal c.sp f.sp }
  let f := if lead then
    { f with man := cmdVal c.man f.man, trk := cmdVal c.trk f.trk, mode := c.mode.getD f.mode } else f
  if (loopDesc s n).kind = 1 then
    putLoop n { l with force := f, cmdrej := l.cmdrej || cmdBad c.sp || cmdBad c.man || cmdBad c.trk } s
  else s

/-! ### The latch (R144) -/

/-- The source of a loop at the latch: value and quality word. -/
def latchPoint (s : State) (st pt : Nat) : Word × Byte :=
  match frozen s pt with
  | some w => (w, 1)
  | none =>
    if (isDI pt || isAI pt) && !s.bar.lastBurst.isEmpty then
      let r : Option Word × Byte :=
        if isDI pt then (some (burstDI s.bar.lastBurst (pt - 0x100)).1, (burstDI s.bar.lastBurst (pt - 0x100)).2)
        else burstAI s.bar.lastBurst (pt - 0x130)
      -- a burst of before the preceding half-period: at least one is missing
      let q := if s.bar.lastHalf = s.slate.halfcnt ∨ s.bar.lastHalf + 1 = s.slate.halfcnt then r.2
        else (r.2 &&& 0xFE) ||| 0x02
      (r.1.getD (rawPoint s pt).val, q)
    else ((readNow s st pt).val, carried (readNow s st pt).q)

/-- The set-point in force of a loop. -/
def latchSp (s : State) (n : Nat) : Word × Byte :=
  let d := loopDesc s n
  if d.sppt = 0xFFFF then (loopRt s n).force.sp else latchPoint s (loopOwner s n) d.sppt

/-! ### One sample (R151) -/

/-- A saturated value and whether it saturated. -/
def satF (bits : Nat) (v : Int) : Int × Bool := (satTo bits v, decide (satTo bits v ≠ v))

/-- The sections of a loop: the filtered signal, the new states, and whether anything saturated. -/
def runSecs : List (List Word) → List (BitVec 48) → List (BitVec 48) → Int →
    Int × List (BitVec 48) × List (BitVec 48) × Bool
  | [], _, _, x => (x, [], [], false)
  | co :: cs, s1, s2, x =>
    let c (i : Nat) : Int := (co.getD i 0).toInt
    let a1 : Int := (s1.headD 0).toInt
    let a2 : Int := (s2.headD 0).toInt
    let y := satF 32 (rhe (c 0 * x + a1 * 2 ^ 14) 30)
    let n1 := satF 48 (rhe (c 1 * x - c 3 * y.1 + a2 * 2 ^ 14) 14)
    let n2 := satF 48 (rhe (c 2 * x - c 4 * y.1) 14)
    let r := runSecs cs s1.tail s2.tail y.1
    (r.1, BitVec.ofInt 48 n1.1 :: r.2.1, BitVec.ofInt 48 n2.1 :: r.2.2.1, y.2 || n1.2 || n2.2 || r.2.2.2)

/-- What a member's part of the sample gives. -/
structure MemRes where
  n : Nat
  takes : Bool
  s1 : List (BitVec 48)
  s2 : List (BitVec 48)
  gy : Int
  i : Int
  r : Int
  c : Int
  sat : Bool
  pv : Word × Byte
  sp : Word × Byte
  deriving DecidableEq, Repr

/-- A member's part of a sample (R151), under the group's mode and previous output. -/
def memberStep (s : State) (mode : Nat) (uprev : Int) (n : Nat) : MemRes :=
  let d := loopDesc s n
  let l := loopRt s n
  let pv := latchPoint s (loopOwner s n) d.pvpt
  let sp := latchSp s n
  if pv.2.getLsbD 0 && sp.2.getLsbD 0 then
    let e := satF 32 (if d.dir then pv.1.toInt - sp.1.toInt else sp.1.toInt - pv.1.toInt)
    let f := runSecs (d.secs.take d.nsec) l.s1 l.s2 e.1
    let gy := satF 64 (d.g.toInt * f.1)
    let acc := satF 48 (l.i.toInt + rhe (d.ki.toInt * f.1) 14)
    let auto := mode == 0 && !l.trans
    let i := if auto then clampI d acc.1 else clampI d (uprev * 2 ^ 16 - gy.1)
    let r := satF 64 (gy.1 + i)
    let c := satF 32 (rhe r.1 16)
    { n := n, takes := true, s1 := f.2.1, s2 := f.2.2.1, gy := gy.1, i := i, r := r.1
      c := clampO d c.1, sat := e.2 || f.2.2.2 || gy.2 || (auto && acc.2) || r.2 || c.2, pv := pv, sp := sp }
  else
    { n := n, takes := false, s1 := l.s1, s2 := l.s2, gy := 0, i := l.i.toInt, r := 0, c := 0, sat := false
      pv := pv, sp := sp }

/-- The lowest candidate of the taking members; the lowest GPOS among equals (R161). -/
def winner (s : State) : List MemRes → Option MemRes
  | [] => none
  | m :: t =>
    match winner s t with
    | none => if m.takes then some m else none
    | some w =>
      if m.takes && (decide (m.c < w.c) ||
          (m.c == w.c && decide ((loopDesc s m.n).gpos < (loopDesc s w.n).gpos))) then some m else some w

/-- The integrator of a taking member after the selection (R151). -/
def settleI (d : LoopDesc) (auto : Bool) (u : Int) (m : MemRes) : Int :=
  let t := clampI d (u * 2 ^ 16 - m.gy)
  if auto then
    if u * 2 ^ 16 < m.r then min m.i t else if m.r < u * 2 ^ 16 then max m.i t else m.i
  else t

/-- The status word of R162 from its flags. -/
def loopStatus (mode badcnt : Nat) (fb pvbad safe hi lo rl isat ssat win frz rej dp nw : Bool) : Word :=
  BitVec.ofNat 32 (mode + b2n fb * 8 + b2n pvbad * 16 + b2n safe * 32 + b2n hi * 64 + b2n lo * 128 +
    b2n rl * 256 + b2n isat * 512 + b2n ssat * 1024 + b2n win * 2048 + b2n frz * 4096 + b2n rej * 8192 +
    b2n dp * 16384 + b2n nw * 32768 + badcnt * 65536)

/-- What a group's selection gives: the output, its quality, and the flags of the sample. -/
structure GroupOut where
  u : Int
  q : Byte
  safe : Bool
  rateLim : Bool
  win : Option Nat
  gbad : Nat
  deriving DecidableEq, Repr

/-- The leader's part of a sample: the selection, the limits and the output quality (R151, R156). -/
def groupSelect (s : State) (lead mode : Nat) (trk : Word × Byte) (ms : List MemRes) : GroupOut :=
  let d := loopDesc s lead
  let l := loopRt s lead
  let up := l.uprev.toInt
  match winner s ms with
  | none =>
    let gbad := min (l.gbad + 1) 255
    if 0 < d.pvto ∧ d.pvto ≤ gbad then ⟨clampO d d.safeval.toInt, 0x05, true, false, none, gbad⟩
    else ⟨up, (l.lastOut.2 &&& 0xFE) ||| 0x02, false, false, none, gbad⟩
  | some w =>
    let u := if mode = 0 then w.c else if mode = 1 then clampO d l.force.man.1.toInt
      else if mode = 2 then clampO d trk.1.toInt else if mode = 4 then clampO d d.offval.toInt else up
    let v := if 0 < d.rate.toInt ∧ mode ≤ 1 then clampTo u (up - d.rate.toInt) (up + d.rate.toInt) else u
    let q := if mode = 0 then comb w.pv.2 w.sp.2 else if mode = 1 then l.force.man.2
      else if mode = 2 then trk.2 else 1
    ⟨v, q &&& 0xF7, false, decide (v ≠ u), if mode = 0 then some w.n else none, 0⟩

/-- A member's state after a sample. -/
def memberAfter (s : State) (lead mode : Nat) (frz dp : Bool) (g : GroupOut) (m : MemRes) : LoopRt :=
  let d := loopDesc s m.n
  let dl := loopDesc s lead
  let l := loopRt s m.n
  let auto := mode == 0 && !l.trans
  let i := if m.takes then settleI d auto g.u m else l.i.toInt
  let bad := if m.takes then 0 else min (l.badcnt + 1) 255
  let isat := i == d.ilo.toInt * 2 ^ 16 || i == d.ihi.toInt * 2 ^ 16
  { l with
    s1 := m.s1, s2 := m.s2, i := BitVec.ofInt 48 i, badcnt := bad
    uprev := if m.n = lead then BitVec.ofInt 32 g.u else l.uprev
    gbad := if m.n = lead then g.gbad else l.gbad
    trans := !m.takes || mode != 0 || frz
    cmdrej := false, lastSp := m.sp, lastPv := m.pv
    status := loopStatus (loopRt s lead).force.mode bad (loopRt s lead).saved.isSome (!m.takes) g.safe
      (g.u == dl.ohi.toInt) (g.u == dl.olo.toInt) g.rateLim isat m.sat (g.win == some m.n) frz l.cmdrej dp false }

/-- A group's sample without a double disagreement: every loop's state, and the output due at s + LAT. One still due from a
sample under an earlier timing stays due at its own step (R152, R164). -/
def groupSample (step lead : Nat) (dp : List Nat) (s : State) : State :=
  let d := loopDesc s lead
  let frz := frozen s d.outpt
  let mode := if frz.isSome then 2 else (loopRt s lead).force.mode
  let trk := match frz with
    | some w => (w, 1)
    | none => (loopRt s lead).force.trk
  let ms := (groupOf s lead).map (memberStep s mode (loopRt s lead).uprev.toInt)
  let g := groupSelect s lead mode trk ms
  let s' := foldS ms (fun m t => putLoop m.n (memberAfter s lead mode frz.isSome (dp.contains m.n) g m) t) s
  let s' := { s' with loops := { s'.loops with due := s'.loops.due.filter (fun o => o.loop != lead || o.step != step + d.lat) ++
      [{ loop := lead, outpt := d.outpt, val := BitVec.ofInt 32 g.u, q := g.q, step := step + d.lat }] } }
  foldS (ms.map (fun m => m.n)) retainLoop s'

/-- The status of a loop whose group's sample is void (R147, R162): nothing was written; `dp`: this loop's evaluation was
recomputed. The other flags describe the sample's inputs and the state that stands. -/
def voidStatus (s : State) (lead n : Nat) (dp : Bool) : Word :=
  let d := loopDesc s n
  let dl := loopDesc s lead
  let l := loopRt s n
  let u := (loopRt s lead).uprev.toInt
  let usable := (latchPoint s (loopOwner s n) d.pvpt).2.getLsbD 0 && (latchSp s n).2.getLsbD 0
  loopStatus (loopRt s lead).force.mode l.badcnt (loopRt s lead).saved.isSome (!usable) false
    (u == dl.ohi.toInt) (u == dl.olo.toInt) false
    (l.i.toInt == d.ilo.toInt * 2 ^ 16 || l.i.toInt == d.ihi.toInt * 2 ^ 16) false false (frozen s dl.outpt).isSome
    l.cmdrej dp true

/-- A group's sample after a double disagreement (R147): no state, no output, NOWRITE in every status. DEDUCED, log 29. -/
def groupVoid (lead : Nat) (dp : List Nat) (s : State) : State :=
  foldS (groupOf s lead) (fun n t =>
    retainLoop n (putLoop n { loopRt t n with cmdrej := false, status := voidStatus s lead n (dp.contains n) } t)) (spoilProof [4] s)

/-- The loop engine leaves service (R414, R425): outputs keep their values with FAULT set and VALID cleared,
and NOWRITE is set in every status word. -/
def engineOut (s : State) : State :=
  let ns := (loopNums s).filter (fun n => (loopDesc s n).kind == 1)
  let s := foldS ns (fun n t =>
    let l := loopRt t n
    mapQual (loopDesc t n).outpt (fun q => (q &&& 0x1FE) ||| qFAULT)
      (putLoop n { l with status := l.status ||| 0x8000 } t)) s
  spoilProof [4] (refreshMod { s with loops := { s.loops with inService := false, due := [] } })

/-- A double disagreement is recorded (R147, R426); the third within 1 s takes the engine out of service. -/
def doubleDisagree (lead : Nat) (s : State) : State :=
  let at_ := (s.now :: s.loops.ddAt).filter (fun t => s.now < t + secT 1)
  let s := { s with loops := { s.loops with katDue := true, ddAt := at_ } }
  if 3 ≤ at_.length then engineOut (logEv 0x88 4 0 (viewOf 0) 4 (packD [(2, lead), (1, 1)]) s)
  else logEv 0x88 4 0 (viewOf 0) 4 (packD [(2, lead), (1, 0)]) s

/-- A leader samples at an offset of this half-period (R143). -/
def samplesAt (s : State) (off n : Nat) : Bool :=
  isLead s n && (loopDesc s n).sample == off && s.slate.halfcnt.toNat % 2 ^ (loopDesc s n).np == 0

/-- A step is still to be sampled: the step in progress, if no sample of it or of a later one has been taken (R143). An
output phase at that step comes first (R157). -/
def sampleDue (s : State) (off : Nat) : Bool :=
  offsetNow s == off && (classesOn s).all (fun k => !(outputDue s k && (clsCfg s k).outph == off)) && (match s.loops.sampled with
    | some (h, o) => h != s.slate.halfcnt || decide (o < off)
    | none => true)

/-- LOOP_SAMPLE: the loops that sample at the step in progress are evaluated in ascending order (R143 to R158). `mis`
names the loops whose halves disagreed, and whether the recomputation agreed. -/
def execLoopSample (off : Nat) (mis : List (Nat × Bool)) (s : State) : Host.Outcome State Fault Refusal :=
  whenUpAnd s (s.loops.open_ && s.loops.inService && sampleDue s off) fun s =>
    let s := { s with loops := { s.loops with sampled := some (s.slate.halfcnt, off) } }
    foldS ((loopNums s).filter (samplesAt s off)) (fun n t =>
      if !t.loops.inService then t
      else if (groupOf t n).any (fun m => mis.contains (m, false)) then doubleDisagree n (groupVoid n (mis.map (fun e => e.1)) t)
      else groupSample (absStep t off) n ((mis.filter (fun e => e.2)).map (fun e => e.1)) t) s

/-- The aligned fields of an OUTCMD for one local output point (R168). -/
def OutCmd.setOut (c : OutCmd) (pt : Nat) (v : Word) : OutCmd :=
  if isDO pt then
    { c with doMask := c.doMask ||| (1#16 <<< (pt - 0x120))
             doVal := if v.getLsbD 0 then c.doVal ||| (1#16 <<< (pt - 0x120))
               else c.doVal &&& ~~~(1#16 <<< (pt - 0x120)) }
  else if isAO pt then
    { c with aoMask := c.aoMask ||| (1#4 <<< (pt - 0x138)), aoVal := c.aoVal.set (pt - 0x138) v }
  else c

/-- An OUTCMD of nothing, for an output phase. -/
def OutCmd.empty (half : Word) (ph : Nat) : OutCmd := ⟨half, ph, 0, 0, 0, [0, 0, 0, 0], false⟩

/-- The value of a local output as it travels: the forced value under a freeze (R133). -/
def outValue (s : State) (pt : Nat) : Word := (present s pt (rawPoint s pt)).val

/-- A local output written by the loop engine goes in the next barrier frame, as the OUTCMD numbered 4
(R146). -/
def loopToField (off pt : Nat) (s : State) : State :=
  if isDO pt || isAO pt then
    let old := match Table.get none s.bar.outTx 4 with
      | some (c, false) => c
      | _ => OutCmd.empty s.slate.halfcnt off
    let new := { (old.setOut pt (outValue s pt)) with ph := off }
    { s with bar := { s.bar with outTx := Table.set none s.bar.outTx 4 (some (new, false)) } }
  else s

/-- One due output is written and published (R146, R156). -/
def writeDue (off : Nat) (o : DueOut) (s : State) : State :=
  let old := rawPoint s o.outpt
  let s := putPoint o.outpt ⟨o.val, storeQual old.q o.q⟩ s
  let s := foldS (groupOf s o.loop) (fun n t => putLoop n { loopRt t n with lastOut := (o.val, o.q) } t) s
  loopToField off o.outpt s

/-- Outputs in ascending loop number. -/
def insDue (o : DueOut) : List DueOut → List DueOut
  | [] => [o]
  | h :: t => if o.loop ≤ h.loop then o :: h :: t else h :: insDue o t

/-- LOOP_OUTPUT_WRITE: the outputs due at the step in progress are written in ascending loop number (R146); none before the
first take of class 0 has completed (R159). -/
def execLoopOutputWrite (off : Nat) (s : State) : Host.Outcome State Fault Refusal :=
  whenUpAnd s (s.loops.inService && s.loops.open_ && offsetNow s == off) fun s =>
    let now := absStep s off
    let due := s.loops.due.filter (fun o => o.step % 2 ^ 43 == now % 2 ^ 43)
    let s := { s with loops := { s.loops with due := s.loops.due.filter (fun o => o.step % 2 ^ 43 != now % 2 ^ 43) } }
    foldS (due.foldr insDue []) (writeDue off) s

/-- LOOP_ENGINE_KAT: the known-answer descriptors after a double disagreement (R414). -/
def execLoopEngineKat (pass : Bool) (s : State) : Host.Outcome State Fault Refusal :=
  whenUpAnd s (s.loops.katDue && s.loops.inService) fun s =>
    let s := { s with loops := { s.loops with katDue := false } }
    if pass then s else engineOut (logEv 0x88 4 0 (viewOf 0) 4 (packD [(2, 0), (1, 1)]) s)

end Sys2Proof.Machine
end

