-- ==== Sys2Proof/Machine/Loader.lean ====
section
/-! DEFINITION. The loader (R121, R122): its check groups in order, the worst-case cycles of R78, the scene
bounds of R79 and the placement of R39. -/

namespace Sys2Proof.Machine
open Sys2Proof

/-! ### What an instruction refers to -/

/-- What an instruction word names: a direct read or write, an indirect one, a slot (with the opcode where a
timer kind evaluates it), or a loop. -/
inductive Ref where
  | none
  | rd (pt : Nat) | wr (pt : Nat) | ird | iwr
  | slot (ctr : Bool) (n : Nat) (kind : Nat)
  | loop (n : Nat) (op : Nat)
  deriving DecidableEq, Repr

/-- The reference of a word (R83 to R86, R91, R107). -/
def refOf (word : Word) : Ref :=
  let w := operandOf word
  match formOf (opOf word) with
  | some .bitR =>
    let m := fld w 2 0
    if m = 0 || m = 2 then .rd (fld w 23 8) else if m = 1 then .none
    else if m = 3 then .slot (fld w 23 23 == 1) (fld w 20 8) 0 else .ird
  | some .bitW => let m := fld w 2 0; if m = 0 then .wr (fld w 23 8) else if m = 1 then .none else .iwr
  | some .bitEdge => .wr (fld w 23 8)
  | some .wordR =>
    let m := fld w 23 20
    if m ≤ 1 then .rd (fld w 15 0) else if m = 5 then .ird
    else if m = 6 then .slot (fld w 19 19 == 1) (fld w 12 0) 0 else .none
  | some .wordW =>
    let m := fld w 23 20
    if m = 0 then .wr (fld w 15 0) else if m = 5 then .iwr
    else if m = 6 then .slot (fld w 19 19 == 1) (fld w 12 0) 0 else .none
  | some (.slot _) =>
    let op := opOf word
    .slot (decide (0x38 ≤ op)) (fld w 12 0) (if 0x30 ≤ op && op ≤ 0x33 then op else 0)
  | some (.loopRef _) => .loop (fld w 9 0) (opOf word)
  | _ => .none

/-- The words of a run with their indices. -/
def bodyWords (p : Prog) (b : Nat × Nat) : List (Nat × Word) :=
  (List.range b.2).map (fun i => b.1 + i) |>.zip ((p.code.drop b.1).take b.2)

/-- The subroutine that begins at an index. -/
def subAt (p : Prog) (t : Nat) : Option (Nat × Nat) := p.subs.find? (fun b => b.1 == t)

/-- The subroutines that a run calls. -/
def callees (p : Prog) (b : Nat × Nat) : List (Nat × Nat) :=
  (bodyWords p b).filterMap (fun e => if opOf e.2 = 0x9C then subAt p (fld (operandOf e.2) 19 0) else none)

/-- A run with every subroutine it reaches, to a depth. -/
def reach (p : Prog) : Nat → List (Nat × Nat) → List (Nat × Nat)
  | 0, acc => acc
  | n + 1, acc => reach p n ((acc ++ acc.flatMap (callees p)).eraseDups)

/-- The runs of a section: its own and those of the subroutines it reaches (R63: at most 8 deep). -/
def secRuns (p : Prog) (d : SecDef) : List (Nat × Nat) := reach p 8 [(d.first, d.count)]

/-- The words of a section with its subroutines. -/
def secWords (p : Prog) (d : SecDef) : List (Nat × Word) := (secRuns p d).flatMap (bodyWords p)

/-! ### Group 3: code (R61, R63, R103 to R105) -/

/-- The bounded loops of a run: the index of LOOP and of its ENDL. -/
def loopsOf (p : Prog) (b : Nat × Nat) : List (Nat × Nat) :=
  (bodyWords p b).filterMap (fun e =>
    if opOf e.2 = 0x98 then some (e.1, e.1 + fld (operandOf e.2) 11 0) else none)

/-- The index lies in a loop's body, its ENDL included. -/
def inLoop (i : Nat) (l : Nat × Nat) : Bool := decide (l.1 < i) && decide (i ≤ l.2)

/-- The innermost loop around an index. -/
def innermost (ls : List (Nat × Nat)) (i : Nat) : Option (Nat × Nat) :=
  (ls.filter (inLoop i)).foldl (fun a l => match a with
    | none => some l
    | some m => if m.1 < l.1 then some l else some m) none

/-- Loop depth of an index within its run. -/
def loopDepth (ls : List (Nat × Nat)) (i : Nat) : Nat := (ls.filter (inLoop i)).length

/-- The run's loops are sound (R63, R104): each ends at an ENDL of the run, they nest, and each ENDL closes
one loop. -/
def loopErrs (p : Prog) (secno : Nat) (b : Nat × Nat) : List LoadErr :=
  let ls := loopsOf p b
  let ws := bodyWords p b
  let isEndl (i : Nat) : Bool := ws.any (fun e => e.1 == i && opOf e.2 == 0x99)
  (ls.filter (fun l => !isEndl l.2 || ls.any (fun m =>
      m != l && (m.2 == l.2 || (inLoop l.1 m && !inLoop l.2 m))))).map (fun l => ⟨0x0305, secno, l.1, 0⟩) ++
  (ws.filter (fun e => opOf e.2 == 0x99 && !ls.any (fun l => l.2 == e.1))).map (fun e => ⟨0x0305, secno, e.1, 0⟩) ++
  (ws.filter (fun e => (opOf e.2 == 0x9A || opOf e.2 == 0x9B) &&
      (innermost ls e.1).isNone)).map (fun e => ⟨0x0305, secno, e.1, 0⟩)

/-- An opcode that jumps forward on a condition or always. -/
def isJump (op : Nat) : Bool := 0x90 ≤ op && op ≤ 0x96

/-- The targets of a run are sound (R103), and no jump leaves a loop body (R63). -/
def targetErrs (p : Prog) (secno : Nat) (b : Nat × Nat) : List LoadErr :=
  let ls := loopsOf p b
  (bodyWords p b).flatMap (fun e =>
    let op := opOf e.2
    let t := fld (operandOf e.2) 19 0
    if isJump op then
      if t ≤ e.1 || b.1 + b.2 ≤ t || ls.any (fun l => inLoop t l && !inLoop e.1 l) then
        [⟨0x0302, secno, e.1, t⟩]
      else if ls.any (fun l => inLoop e.1 l && !inLoop t l) then [⟨0x0305, secno, e.1, t⟩]
      else []
    else if op = 0x9A || op = 0x9B then
      match innermost ls e.1 with
      | some l => if t = l.2 + 1 then [] else [⟨0x0302, secno, e.1, t⟩]
      | none => []
    else if op = 0x9C then (if (subAt p t).isSome then [] else [⟨0x0302, secno, e.1, t⟩])
    else [])

/-- The flow through a run: the branch depth on entry to the next instruction (none: not reached), the
depths that jumps carry forward, the depths at loop entries, and the errors found. -/
structure Flow where
  cur : Option Nat
  pend : List (Nat × Nat)
  errs : List LoadErr
  top : Nat
  /-- The CALLs reached, with the depth at each. -/
  calls : List (Nat × Nat)
  deriving DecidableEq, Repr

/-- One instruction of the flow (R61, R105). A return reached at another depth than that of the call is one error, CALL, by
whatever paths (R122). -/
def Flow.step (isSub : Bool) (secno : Nat) (f : Flow) (e : Nat × Word) : Flow :=
  let ins := (f.cur.toList ++ (f.pend.filter (fun x => x.1 == e.1)).map (fun x => x.2)).eraseDups
  let op := opOf e.2
  let t := fld (operandOf e.2) 19 0
  match ins with
  | [] => { f with cur := none }
  | d :: more =>
    let err (c : Nat) : LoadErr := ⟨c, secno, e.1, 0⟩
    let isRet := op == 0x9D || op == 0x9E
    let f := if more.isEmpty || isRet then f else { f with errs := f.errs ++ [err 0x0303] }
    if 0x19 ≤ op && op ≤ 0x1C then
      { f with cur := some (d + 1), top := max f.top (d + 1) }
    else if op = 0x1D then
      if d = 0 then { f with cur := some 0, errs := f.errs ++ [err 0x0303] } else { f with cur := some (d - 1) }
    else if op = 0x90 || op = 0x9A then { f with cur := none, pend := (t, d) :: f.pend }
    else if isJump op || op = 0x9B then { f with cur := some d, pend := (t, d) :: f.pend }
    else if op = 0x98 then
      let endl := e.1 + fld (operandOf e.2) 11 0
      { f with cur := some d, pend := (endl, d) :: (endl + 1, d) :: f.pend }
    else if isRet then
      let errs := if !isSub || ins.any (fun x => x != 0) then [err 0x0304] else []
      { f with cur := if op = 0x9D then none else some d, errs := f.errs ++ errs }
    else if op = 0x9F then { f with cur := none, errs := f.errs ++ (if d = 0 then [] else [err 0x0303]) }
    else if op = 0x9C then { f with cur := some d, calls := (e.1, d) :: f.calls }
    else { f with cur := some d }

/-- The flow through a whole run. -/
def flowOf (p : Prog) (isSub : Bool) (secno : Nat) (b : Nat × Nat) : Flow :=
  (bodyWords p b).foldl (Flow.step isSub secno) ⟨some 0, [], [], 0, []⟩

/-- END in a subroutine, and a return or END inside an open loop of its run, whether or not a path reaches it (R105).
DESIGN CHOICE, log 28: an END inside an open loop of a section is PATH. -/
def placeErrs (p : Prog) (isSub : Bool) (secno : Nat) (b : Nat × Nat) : List LoadErr :=
  let ls := loopsOf p b
  ((bodyWords p b).filter (fun e =>
    let op := opOf e.2
    (op == 0x9F && isSub) || (0x9D ≤ op && op ≤ 0x9F && loopDepth ls e.1 != 0))).map (fun e => ⟨0x0306, secno, e.1, 0⟩)

/-- The greatest branch depth, call depth and loop depth that a run reaches with its subroutines, each from the depth at its
CALL (R61, R63); a call depth of 100 where the call graph beneath it is deeper than `fuel`. -/
def depths (p : Prog) : Nat → Nat × Nat → Nat × Nat × Nat
  | 0, _ => (0, 100, 0)
  | n + 1, b =>
    let ls := loopsOf p b
    let f := flowOf p true 0xFFFF b
    let own := (bodyWords p b).foldl (fun m e => max m (loopDepth ls e.1)) 0
    (bodyWords p b).foldl (fun acc e =>
      if opOf e.2 = 0x9C then
        match subAt p (fld (operandOf e.2) 19 0) with
        | some c =>
          let r := depths p n c
          let here := ((f.calls.find? (fun x => x.1 == e.1)).map (·.2)).getD 0
          (max acc.1 (here + r.1), max acc.2.1 (1 + r.2.1), max acc.2.2 (loopDepth ls e.1 + r.2.2))
        | none => acc
      else acc) (f.top, 0, own)

/-- The errors of group 3 in one run, of a section or of a subroutine, called or not. -/
def codeErrs (p : Prog) (isSub : Bool) (secno : Nat) (b : Nat × Nat) : List LoadErr :=
  let enc := (bodyWords p b).filter (fun e => reservedWord e.2)
  let f := flowOf p isSub secno b
  let open_ := if f.cur.isSome then [⟨0x0306, secno, b.1 + b.2 - 1, 0⟩] else []
  let d := depths p 10 b
  enc.map (fun e => ⟨0x0301, secno, e.1, 0⟩) ++ targetErrs p secno b ++ f.errs ++ placeErrs p isSub secno b ++
    (if 32 < d.1 then [⟨0x0303, secno, b.1, 0⟩] else []) ++
    (if 8 < d.2.1 then [⟨0x0304, secno, b.1, 0⟩] else []) ++
    loopErrs p secno b ++ (if 4 < d.2.2 then [⟨0x0305, secno, b.1, 0⟩] else []) ++ open_

/-- Group 3 (R121): the runs of sections and subroutines. A word of the code region in none of them is not judged. DESIGN
CHOICE, log 28. -/
def group3 (p : Prog) : List LoadErr :=
  p.secs.flatMap (fun d => codeErrs p false d.secno (d.first, d.count)) ++
    p.subs.flatMap (codeErrs p true 0xFFFF)

/-! ### Worst-case time (R78, R79) -/

/-- The longest path from each index of a run to its end: the table of indices already costed, the later
ones first. `calls` bounds the call depth, `fuel` the loop nesting. A path ends at RET, and LEXIT falls through as a loop's
early exit that is not taken. DESIGN CHOICE, log 65. -/
def longestTo (p : Prog) (sub : Nat × Nat → Nat) : Nat → Nat → List (Nat × Word) → List (Nat × Nat)
  | _, stop, [] => [(stop, 0)]
  | 0, stop, _ => [(stop, 0)]
  | fuel + 1, stop, (i, word) :: rest =>
    let tail := longestTo p sub fuel stop rest
    let at_ (j : Nat) : Nat := ((tail.find? (fun e => e.1 == j)).map (fun e => e.2)).getD 0
    let op := opOf word
    let t := fld (operandOf word) 19 0
    let cost :=
      if op = 0x9F || op = 0x9D then 1
      else if op = 0x90 then 1 + at_ t
      else if isJump op then 1 + max (at_ (i + 1)) (at_ t)
      else if op = 0x98 then
        let d := fld (operandOf word) 11 0
        let bound := fld (operandOf word) 23 12 + 1
        let inner := longestTo p sub fuel (i + d) (rest.take (d - 1))
        let body := ((inner.find? (fun e => e.1 == i + 1)).map (fun e => e.2)).getD 0
        1 + bound * (body + 1) + at_ (i + d + 1)
      else if op = 0x9C then
        2 + (match subAt p t with
          | some b => sub b
          | none => 0) + at_ (i + 1)
      else cyclesOf op + at_ (i + 1)
    (i, cost) :: tail

/-- The longest path through a run, its subroutines included to a call depth. -/
def longest (p : Prog) : Nat → Nat × Nat → Nat
  | 0, _ => 0
  | n + 1, b =>
    let r := longestTo p (longest p n) (b.2 + 1) (b.1 + b.2) (bodyWords p b)
    ((r.find? (fun e => e.1 == b.1)).map (fun e => e.2)).getD 0

/-- W of a section (R78). -/
def sectionW (p : Prog) (d : SecDef) : Nat := 8 + longest p 9 (d.first, d.count) + 4

/-- The program with the loader's own W in every section. -/
def withW (p : Prog) : Prog := { p with secs := p.secs.map (fun d => { d with w := sectionW p d }) }

/-- Points of a list of ranges, each counted once. -/
def pointsIn : List (Nat × Nat) → Nat
  | [] => 0
  | e :: t =>
    ((List.range (e.2 + 1 - e.1)).filter (fun i =>
      !t.any (fun x => decide (x.1 ≤ e.1 + i) && decide (e.1 + i ≤ x.2)))).length + pointsIn t

/-- Sections of class k in scene j over every stage's program. -/
def allSecs (progs : List (Option Prog)) (k j : Nat) : List (Prog × SecDef) :=
  progs.flatMap (fun o => match o with
    | none => []
    | some p => (p.secs.filter (fun d => d.cls == k && d.scene == j)).map (fun d => (p, d)))

/-- The bound S of a scene, in cycles (R79), on a number of pairs (R424). -/
def sceneBound (pairs : Nat) (secs : List (Prog × SecDef)) : Nat :=
  let sum := (secs.map (fun e => e.2.w)).sum
  let top := secs.foldl (fun m e => max m e.2.w) 0
  let pts := (secs.map (fun e => pointsIn e.2.wr)).sum
  let slots := (secs.map (fun e => (e.1.slots.filter (fun sl => sl.secno == e.2.secno)).length)).sum
  (sum + pairs - 1) / pairs + top + 100 + (pts + slots + 7) / 8

/-- How long a scene lasts, in ns: its bound and the recovery allowance; 0 for a scene without sections. -/
def sceneNs (pairs : Nat) (progs : List (Option Prog)) (k j : Nat) : Nat :=
  let secs := allSecs progs k j
  if secs.isEmpty then 0 else sceneBound pairs secs * 2 + 10_000

/-- The time from offset 24 to the deadline of a half-period of a class, at 3.7560 us a step (R39). -/
def roomNs (c : ClassCfg) (h : Nat) : Nat :=
  ((if h + 1 = 2 ^ c.n then c.outph - 8 else 2_040) - 24) * 3_756

/-- The placement of one class: each scene, in order, in the earliest half-period at or after that of the
scene before it in which it ends by the deadline. `busy h` is the time that lower classes take there. -/
def placeClass (c : ClassCfg) (busy : Nat → Nat) :
    Nat → Nat → List (Nat × Nat) → Option (List (Nat × Nat))
  | _, _, [] => some []
  | h, used, (j, ns) :: rest =>
    match (List.range (2 ^ c.n)).find? (fun x => decide (h ≤ x) &&
        decide ((busy x + (if x = h then used else 0)) + ns ≤ roomNs c x)) with
    | none => none
    | some x =>
      (placeClass c busy x ((if x = h then used else 0) + ns) rest).map (fun l => (j, x) :: l)

/-- The scenes of a class with their times. -/
def sceneList (pairs : Nat) (progs : List (Option Prog)) (k : Nat) : List (Nat × Nat) :=
  ((List.range 8).map (fun j => (j, sceneNs pairs progs k j))).filter (fun e => e.2 != 0)

/-- The time that a class's placed scenes take in one half-period of its take. -/
def halfNs (pairs : Nat) (progs : List (Option Prog)) (k : Nat) (pl : List (Nat × Nat)) (h : Nat) : Nat :=
  ((pl.filter (fun e => e.2 == h)).map (fun e => sceneNs pairs progs k e.1)).sum

/-- The placements of classes 0 to 3 (R39, R79); none where a class cannot be placed. DESIGN CHOICE, log 22. -/
def placements (pairs : Nat) (progs : List (Option Prog)) (cls : Nat → ClassCfg) :
    List (Option (List (Nat × Nat))) :=
  (List.range 4).foldl (fun acc k =>
    let c := cls k
    let busy (h : Nat) : Nat := ((List.range k).map (fun k' =>
      match acc.getD k' none with
      | some pl => halfNs pairs progs k' pl (h % 2 ^ (cls k').n)
      | none => 0)).sum
    acc ++ [if c.en then placeClass c busy 0 0 (sceneList pairs progs k) else some []]) []

/-- The pairs that the placement check counts (R39, R424). DESIGN CHOICE, log 22. -/
def placePairs (s : State) : Nat := if pairsIn s < 8 then max (pairsIn s) 1 else 8

/-! ### Group 1 and 2: numbers and capacity -/

/-- Every point that a word names, with section and index. -/
def namedPoints (p : Prog) : List (Nat × Nat × Nat) :=
  (p.code.zip (List.range p.code.length)).filterMap (fun e => match refOf e.1 with
    | .rd pt => some (0xFFFF, e.2, pt)
    | .wr pt => some (0xFFFF, e.2, pt)
    | _ => none)

/-- A range of points reaches a point that does not exist: one beyond the variant, or in block 6 or 7. -/
def rangeExists (s : State) (a b : Nat) : Bool :=
  decide (a ≤ b) && pointExists s a && pointExists s b && !(decide (a < 0x200) && decide (0x17F < b))

/-- Every range of points that a set, an indirect range or an object names, with section and index. -/
def namedRanges (p : Prog) : List (Nat × Nat × Nat × Nat) :=
  p.secs.flatMap (fun d => (d.rd ++ d.wr).map (fun e => (d.secno, 0xFFFF_FFFF, e.1, e.2))) ++
  p.ranges.map (fun e => (0xFFFF, e.1, e.2.1, e.2.2)) ++
  p.objs.map (fun o => (0xFFFF, 0xFFFF_FFFF, o.first, o.first + o.count - 1))

/-- VARIANT and NOPOINT of the tables and the code (R4, R5, R13). -/
def numberErrs (s : State) (p : Prog) : List LoadErr :=
  (p.code.zip (List.range p.code.length)).filterMap (fun e => match refOf e.1 with
    | .loop n _ => if n < numLoops s then none else some ⟨0x0104, 0xFFFF, e.2, n⟩
    | _ => none) ++
  ((namedPoints p).filter (fun e => !pointExists s e.2.2)).map (fun e => ⟨0x0105, e.1, e.2.1, e.2.2⟩) ++
  ((namedRanges p).filter (fun e => !rangeExists s e.2.2.1 e.2.2.2)).map (fun e => ⟨0x0105, e.1, e.2.1, e.2.2.2⟩)

/-- Group 1, every error of it (R121). DEDUCED, log 28: tables are read only under a sound header. -/
def group1 (s : State) (stage : Nat) (bs : List Byte) : List LoadErr :=
  formatErrs bs ++
    (if !lengthOk bs || trailerOk bs then [] else [imgErr 0x0102]) ++
    (if (readHead bs).stage = stage then [] else [imgErr 0x0103]) ++
    (if (readHead bs).stage < numStages s then [] else [imgErr 0x0104]) ++
    (if headOk bs then numberErrs s (readProg bs) else [])

/-- Bytes of a program's tables (R21): of the set tables, the whole set area of its image. -/
def tableBytes (p : Prog) : Nat :=
  p.secs.length * 32 + p.subs.length * 8 + p.objs.length * 16 + p.ranges.length * 8 + p.slots.length * 12 +
    p.setBytes

/-- The programs of all stages as they will stand, this one included. -/
def withProg (progs : List (Option Prog)) (stage : Nat) (p : Prog) : List (Option Prog) :=
  progs.set stage (some p)

def group2 (s : State) (progs : List (Option Prog)) (stage : Nat) (p : Prog) : List LoadErr :=
  let all := (withProg progs stage p).filterMap id
  (if (all.map (fun q => q.code.length)).sum ≤ 1_048_576 && (all.map (fun q => q.secs.length)).sum ≤ 8_192 &&
      (all.map tableBytes).sum ≤ 2_048 * 1024 && p.secs.all (fun d => decide (d.count ≤ 65_536))
    then [] else [imgErr 0x0201]) ++
  (p.slots.filter (fun d => !slotFits s stage d.counter d.num)).map (fun d => ⟨0x0202, d.secno, 0xFFFF_FFFF, d.num⟩) ++
  (p.code.zip (List.range p.code.length)).filterMap (fun e => match refOf e.1 with
    | .slot c n _ => if slotFits s stage c n then none else some ⟨0x0202, 0xFFFF, e.2, n⟩
    | _ => none)

/-! ### Group 4: access -/

/-- A point of a set of ranges. -/
def inRanges (l : List (Nat × Nat)) (pt : Nat) : Bool := l.any (fun e => decide (e.1 ≤ pt) && decide (pt ≤ e.2))

/-- Two ranges share a point. -/
def rangesMeet (a b : Nat × Nat) : Bool := decide (a.1 ≤ b.2) && decide (b.1 ≤ a.2)

/-- The alarm points in use (R352). -/
def alarmPoints (s : State) : List Nat :=
  (List.range 2).filterMap (fun a =>
    let al := Table.get Alarm.factory s.rtc.alarms a
    if al.w2.getLsbD 15 then some (bitsOf al.w2 31 16) else none)

/-- The status block's points (R179). -/
def inStatBlock (s : State) (pt : Nat) : Bool :=
  let b := bitsOf s.field.cfg.gen0 31 22
  b != 0 && decide (b * 64 ≤ pt) && decide (pt < b * 64 + 32)

/-- The MSL status points (R249): STATBASE of MSLGEN [31:22], 33 points. -/
def inMslBlock (s : State) (pt : Nat) : Bool :=
  let b := bitsOf s.msl.gen 31 22
  b != 0 && decide (b * 64 ≤ pt) && decide (pt < b * 64 + 33)

/-- The status points of a CAN controller (R299): STATBASE of CANCFG1 [31:22], 16 points. -/
def inCanBlock (s : State) (pt : Nat) : Bool :=
  (List.range 2).any (fun c =>
    let b := bitsOf (Table.get Can.factory s.can c).cfg1 31 22
    b != 0 && decide (b * 64 ≤ pt) && decide (pt < b * 64 + 16))

/-- A local input point (R178, R352): DI, AI, safety status, encoders, the status blocks and alarm points. -/
def isLocalInput (s : State) (pt : Nat) : Bool :=
  isDI pt || isAI pt || (decide (0x140 ≤ pt) && decide (pt < 0x168) && pt != 0x15F) ||
    inStatBlock s pt || inMslBlock s pt || inCanBlock s pt || (alarmPoints s).contains pt

/-- The output of a loop (R163). -/
def isLoopOut (s : State) (pt : Nat) : Bool :=
  (loopNums s).any (fun n => isLead s n && (loopDesc s n).outpt == pt)

/-- Points of input objects of a program. -/
def inputPts (p : Prog) : List (Nat × Nat) :=
  (p.objs.filter (fun o => o.kind == 1)).map (fun o => (o.first, o.first + o.count - 1))

/-- A range lies wholly in points with a property, judged block by block and at its system points. -/
def rangeAll (f : Nat → Bool) (a b : Nat) : Bool := (List.range (b + 1 - a)).all (fun i => f (a + i))

/-- What is wrong with a written point: OWN, READONLY or INPUTW; none: nothing. -/
def writeErr (s : State) (stage : Nat) (p : Prog) (pt : Nat) : Option Nat :=
  if isRelRW pt then none
  else if (tagOf s (blockOf pt)).owner != stage then some 0x0401
  else if isReadOnly pt && !isLocalInput s pt then some 0x0402
  else if isLocalInput s pt || isLoopOut s pt || inRanges (inputPts p) pt then some 0x0403
  else none

/-- The first wrong point of a range. -/
def rangeWriteErr (s : State) (stage : Nat) (p : Prog) (e : Nat × Nat) : Option (Nat × Nat) :=
  ((List.range (e.2 + 1 - e.1)).findSome? (fun i => (writeErr s stage p (e.1 + i)).map (fun c => (c, e.1 + i))))

/-- Points that belong to a class from outside the program: of field devices, CAN frames and CAN status blocks, as
ranges, each with whether it holds inputs only (R274, R283, R299). -/
def boundRanges (s : State) : List (Nat × Nat × Nat × Bool) :=
  s.eth.dev.flatMap (fun e => match e.2 with
    | some d =>
      [(d.outFirst, d.outCnt, d.cls, false), (d.inFirst, d.inCnt, d.cls, false)]
    | none => []) ++
  s.can.flatMap (fun x =>
    let cls := bitsOf x.2.cfg0 21 20
    let b := bitsOf x.2.cfg1 31 22
    (if b = 0 then [] else [(b * 64, 16, cls, true)]) ++
      x.2.frame.filterMap (fun e => e.2.map (fun f => (f.first, (f.len + 3) / 4, cls, false))))

/-- An object that covers such points has their class and is an input or output object. -/
def boundOk (s : State) (o : ObjDef) : Bool :=
  (boundRanges s).all (fun r => r.2.1 == 0 || !rangesMeet (o.first, o.first + o.count - 1) (r.1, r.1 + r.2.1 - 1) ||
    (o.cls == r.2.2.1 && (o.kind == 1 || (o.kind == 2 && !r.2.2.2))))

/-- The object table is sound (R117, R118, R274, R283). An internal object with a class, and fallback values of an object that
is no output, are OBJECT too. DESIGN CHOICE, log 28. -/
def objErrs (s : State) (stage : Nat) (p : Prog) : List LoadErr :=
  (p.objs.filter (fun o =>
    decide (2 < o.kind) || decide (4 < o.type) || decide (1 < o.subst) || decide (2 < o.retention) ||
      (o.kind != 1 && o.subst != 0) || (if o.kind = 0 then o.cls != 0xFF else decide (3 < o.cls)) ||
      (o.kind != 2 && o.fallback.isSome) || !boundOk s o ||
      !((List.range (blockOf (o.first + o.count - 1) + 1 - blockOf o.first)).all (fun i =>
        let blk := blockOf o.first + i
        blk != 6 && blk != 7 && (tagOf s blk).owner == stage)) ||
      p.objs.any (fun q => q != o && rangesMeet (o.first, o.first + o.count - 1) (q.first, q.first + q.count - 1)))).map
    (fun o => ⟨0x0409, 0xFFFF, 0xFFFF_FFFF, o.first⟩) ++
  (if pairsOk (fun (a b : ObjDef) => a != b) p.objs then [] else [imgErr 0x0409])

/-- Errors of the operands of words, under the sets of a section that runs them; none: a subroutine that no section reaches.
An indirect write's range lies in the write set (R73, R116). DEDUCED, log 28. An IND instruction without a range entry, or with
two, is UNDECLARED. DESIGN CHOICE, log 28. -/
def wordAccess (s : State) (stage : Nat) (p : Prog) (secno : Nat) (sets : Option SecDef) (ws : List (Nat × Word)) : List LoadErr :=
  let inRd (pt : Nat) : Bool := sets.all (fun d => inRanges d.rd pt)
  let inWr (pt : Nat) : Bool := sets.all (fun d => inRanges d.wr pt)
  ws.filterMap (fun e => match refOf e.2 with
    | .rd pt =>
      if !mayRead s stage pt then some ⟨0x0401, secno, e.1, pt⟩
      else if !inRd pt then some ⟨0x0408, secno, e.1, pt⟩ else none
    | .wr pt =>
      match writeErr s stage p pt with
      | some c => some ⟨c, secno, e.1, pt⟩
      | none => if !inWr pt then some ⟨0x0408, secno, e.1, pt⟩ else none
    | .ird =>
      match p.ranges.filter (fun x => x.1 == e.1) with
      | [x] => if rangeAll (mayRead s stage) x.2.1 x.2.2 then none else some ⟨0x0401, secno, e.1, x.2.1⟩
      | _ => some ⟨0x0408, secno, e.1, 0⟩
    | .iwr =>
      match p.ranges.filter (fun x => x.1 == e.1) with
      | [x] =>
        match rangeWriteErr s stage p x.2 with
        | some y => some ⟨y.1, secno, e.1, y.2⟩
        | none => if rangeAll inWr x.2.1 x.2.2 then none else some ⟨0x0408, secno, e.1, x.2.1⟩
      | _ => some ⟨0x0408, secno, e.1, 0⟩
    | _ => none)

/-- The subroutines that no section reaches. -/
def deadSubs (p : Prog) : List (Nat × Nat) := p.subs.filter (fun b => !p.secs.any (fun d => (secRuns p d).contains b))

/-- Errors of one section's accesses, those of its indirect writes' ranges among them. DEDUCED, log 28. -/
def secAccess (s : State) (stage : Nat) (p : Prog) (d : SecDef) : List LoadErr :=
  (d.rd.filter (fun e => !rangeAll (mayRead s stage) e.1 e.2)).map (fun e => ⟨0x0401, d.secno, 0xFFFF_FFFF, e.1⟩) ++
  d.wr.filterMap (fun e => (rangeWriteErr s stage p e).map (fun x => ⟨x.1, d.secno, 0xFFFF_FFFF, x.2⟩)) ++
  wordAccess s stage p d.secno (some d) (secWords p d)

/-- The slots that a section uses: kind, number and evaluating opcode. -/
def secSlots (p : Prog) (d : SecDef) : List (Bool × Nat × Nat) :=
  (secWords p d).filterMap (fun e => match refOf e.2 with
    | .slot c n k => some (c, n, k)
    | _ => none)

/-- SLOTUSE (R57, R91). -/
def slotErrs (p : Prog) : List LoadErr :=
  let uses := p.secs.flatMap (fun d => (secSlots p d).map (fun u => (d.secno, u)))
  (uses.filter (fun u =>
    uses.any (fun v => v.1 != u.1 && v.2.1 == u.2.1 && v.2.2.1 == u.2.2.1) ||
    uses.any (fun v => v.2.1 == u.2.1 && v.2.2.1 == u.2.2.1 && v.2.2.2 != 0 && u.2.2.2 != 0 && v.2.2.2 != u.2.2.2) ||
    !p.slots.any (fun sl => sl.counter == u.2.1 && sl.num == u.2.2.1 && sl.secno == u.1))).map
    (fun u => ⟨0x0405, u.1, 0xFFFF_FFFF, u.2.2.1⟩)

/-- The lowest point that two write sets share, if any. DEDUCED, log 28. -/
def sharedPoint (a b : List (Nat × Nat)) : Option Nat :=
  (a.flatMap (fun x => (b.filter (rangesMeet x)).map (fun y => max x.1 y.1))).min?

/-- SCENEW and CLASSW (R57, R38), with the point concerned. DEDUCED, log 28. -/
def sceneErrs (p : Prog) : List LoadErr :=
  p.secs.flatMap (fun d =>
    p.secs.filterMap (fun c =>
      if c.secno = d.secno ∨ (c.cls = d.cls ∧ c.scene ≠ d.scene) then none
      else (sharedPoint d.wr c.wr).map (fun pt =>
        ⟨if c.cls = d.cls then 0x0404 else 0x0406, d.secno, 0xFFFF_FFFF, pt⟩)) ++
    p.objs.filterMap (fun o =>
      if o.kind = 0 ∨ o.cls = d.cls then none
      else (sharedPoint [(o.first, o.first + o.count - 1)] d.wr).map (fun pt =>
        ⟨0x0406, d.secno, 0xFFFF_FFFF, pt⟩)))

/-- The loops that a section commands. -/
def secCmds (p : Prog) (d : SecDef) : List Nat :=
  (secWords p d).filterMap (fun e => match refOf e.2 with
    | .loop n op => if op = 0xB4 then none else some n
    | _ => none)

/-- LOOPREF (R108, R139, R155). -/
def loopRefErrs (s : State) (stage : Nat) (p : Prog) : List LoadErr :=
  p.secs.flatMap (fun d =>
    (secWords p d).filterMap (fun e => match refOf e.2 with
      | .loop n op =>
        let ld := loopDesc s n
        if !ownsLoop s stage n || ld.kind == 2 ||
            (ld.kind == 1 && ld.grole == 2 && (op == 0xB1 || op == 0xB2 || op == 0xB3)) ||
            (op != 0xB4 && p.secs.any (fun c => c.secno != d.secno &&
              (c.cls != d.cls || c.scene == d.scene) && (secCmds p c).contains n)) then
          some ⟨0x0407, d.secno, e.1, n⟩
        else none
      | _ => none)) ++
  ((deadSubs p).flatMap (bodyWords p)).filterMap (fun e => match refOf e.2 with
    | .loop n op =>
      let ld := loopDesc s n
      if !ownsLoop s stage n || ld.kind == 2 ||
          (ld.kind == 1 && ld.grole == 2 && (op == 0xB1 || op == 0xB2 || op == 0xB3)) then some ⟨0x0407, 0xFFFF, e.1, n⟩
      else none
    | _ => none)

def group4 (s : State) (stage : Nat) (p : Prog) : List LoadErr :=
  p.secs.flatMap (secAccess s stage p) ++ wordAccess s stage p 0xFFFF none ((deadSubs p).flatMap (bodyWords p)) ++ sceneErrs p ++ slotErrs p ++ loopRefErrs s stage p ++ objErrs s stage p

/-! ### Groups 5 and 6, and the whole -/

/-- Placement (R35, R39, R79) under a class configuration. -/
def group5 (s : State) (progs : List (Option Prog)) (cls : Nat → ClassCfg) (stage : Nat) (p : Prog) :
    List LoadErr :=
  (p.secs.filter (fun d => !(cls d.cls).en)).map (fun d => ⟨0x0502, d.secno, 0xFFFF_FFFF, d.cls⟩) ++
  (if (placements (placePairs s) (withProg progs stage p) cls).all Option.isSome then [] else [imgErr 0x0501])

/-- A point is declared in the same way by two programs: by an object of the same KIND and TYPE. -/
def declOf (p : Prog) (pt : Nat) : Option ObjDef :=
  p.objs.find? (fun o => decide (o.first ≤ pt) && decide (pt < o.first + o.count))
def sameDecl (old new : Prog) (pt : Nat) : Bool :=
  match declOf old pt, declOf new pt with
  | some a, some b => a.kind == b.kind && a.type == b.type
  | _, _ => false

/-- FROZENDEL (R136): a frozen point that the old image declares and the new one does not in the same way,
unless the transaction releases it. -/
def group6 (s : State) (old : Option Prog) (new : Prog) (released : List Nat) : List LoadErr :=
  match old with
  | none => []
  | some o =>
    (s.points.frz.filter (fun e => (declOf o e.1).isSome && !sameDecl o new e.1 && !released.contains e.1)).map
      (fun e => ⟨0x0601, 0xFFFF, 0xFFFF_FFFF, e.1⟩)

/-- The first group with an error, at most 32 of its errors (R121). -/
def firstGroup : List (List LoadErr) → List LoadErr
  | [] => []
  | g :: t => if g.isEmpty then firstGroup t else g.take 32

/-- The programs in force, by stage. -/
def progsNow (s : State) : List (Option Prog) := (List.range 32).map (progOf s)

/-- The checks of the stage step (R121). DEDUCED, log 28. -/
def loadErrs (s : State) (progs : List (Option Prog)) (stage : Nat) (bs : List Byte) (released : List Nat) :
    List LoadErr :=
  let g1 := group1 s stage bs
  if !g1.isEmpty then g1.take 32
  else
    let p := readProg bs
    let g2 := group2 s progs stage p
    let g3 := group3 p
    if !g2.isEmpty then g2.take 32
    else if !g3.isEmpty then g3.take 32
    else firstGroup [group4 s stage p, group5 s progs (clsCfg s) stage (withW p), group6 s (progOf s stage) p released]

/-- The program that an accepted image gives. -/
def loadProg (bs : List Byte) : Prog := withW (readProg bs)

end Sys2Proof.Machine
end

