-- ==== Sys2Proof/Machine/Inputs.lean ====
section
/-! DEFINITION. What enters a point from an input (R48, R49, R51, R68), the class a point belongs to (R130), and
the answers and operations in flight of host requests (R20, R312). -/

namespace Sys2Proof.Machine
open Sys2Proof

/-! ### Objects and classes -/

/-- The object of a point in the program of the stage that owns it. -/
def objOf (s : State) (pt : Nat) : Option ObjDef :=
  match progOf s (ownerOf s pt) with
  | some p => declOf p pt
  | none => none

/-- The class of a point's input or output object. -/
def objClass (s : State) (pt : Nat) : Option Nat :=
  match objOf s pt with
  | some o => if o.kind = 0 then none else some o.cls
  | none => none

/-- The home class of a point (R130). -/
def homeClass (s : State) (pt : Nat) : Nat :=
  match objClass s pt with
  | some k => k
  | none =>
    match progOf s (ownerOf s pt) with
    | some p => ((p.secs.find? (fun d => d.wr.any (fun e => decide (e.1 ≤ pt) && decide (pt ≤ e.2)))).map (·.cls)).getD 0
    | none => 0

/-! ### Values and quality -/

/-- A value enters a point with its quality; UNDELIV and the freeze stay (R68, R132). -/
def enterPt (pt : Nat) (v : Word) (q : Byte) (s : State) : State :=
  putPoint pt ⟨v, storeQual (rawPoint s pt).q q⟩ s

/-- A local input read at its input phase also enters the image of the takes that begin there (R38, R170). -/
def patchPt (pt : Nat) (s : State) : State :=
  let v := rawPoint s pt
  foldS (List.range 4) (fun k t =>
    let c := takeOf t k
    if c.active && c.startHalf == t.slate.halfcnt then
      putTake k { c with snap := Table.set PV.zero c.snap pt ⟨v.val, v.q &&& 0x01FF⟩ } t
    else t) s

/-- STALE is set; the value is kept and VALID unchanged (R48). -/
def stalePt (pt : Nat) (s : State) : State := mapQual pt (fun q => q ||| qSTALE) s

/-- The substitute of a point (R49): the last value, or the value configured at INITOFS. -/
def substPt (pt : Nat) (s : State) : State :=
  let old := rawPoint s pt
  let v := match objOf s pt with
    | some o => if o.kind == 1 && o.subst == 1 then o.init.getD (pt - o.first) old.val else old.val
    | none => old.val
  putPoint pt ⟨v, (old.q ||| qSUBST ||| qSTALE) &&& 0x1FE⟩ s

/-- UNDELIV set or cleared. -/
def undelivPt (b : Bool) (pt : Nat) (s : State) : State :=
  mapQual pt (fun q => if b then q ||| qUNDELIV else q &&& 0x0FF) s

/-- What an input phase without a new value does (R48, R49): whether STALE is set, whether the substitutes
replace the values, and the freshness after it. `f`: the deadline in ticks; `h`: the hold count. -/
def Fresh.miss (f h now : Nat) (x : Fresh) : Bool × Bool × Fresh :=
  if now < x.tr + f && !x.stale && x.tr != 0 then (false, false, x)
  else
    let n := x.held + 1
    (true, h < n, { x with held := n, stale := true, subst := x.subst || decide (h < n) })

/-- A value has entered at an input phase. -/
def Fresh.got (now : Nat) : Fresh := ⟨now, 0, false, false⟩

/-- The points of a source that delivered nothing at its input phase. -/
def missPts (pts : List Nat) (r : Bool × Bool × Fresh) (s : State) : State :=
  if r.2.1 then foldS pts substPt s else if r.1 then foldS pts stalePt s else s

/-- F of a device in ticks: microseconds, or half the nominal take period of its class (R48). -/
def freshF (s : State) (us cls : Nat) : Nat :=
  if us = 0 then nominalTicks s * 2 ^ (clsCfg s cls).n / 4 else usT us
where
  nominalTicks (s : State) : Nat := if s.slate.nom60F then 416_667 else 500_000

/-! ### Answers (R20, R312) -/

def connOf (s : State) (cn : Nat) : Option Conn := Table.get none s.host.conns cn
def putConn (cn : Nat) (c : Option Conn) (s : State) : State :=
  { s with host := { s.host with conns := Table.set none s.host.conns cn c } }

def admitOf (s : State) (st : Nat) : Admit := Table.get Admit.zero s.host.adm st
def putAdmit (st : Nat) (a : Admit) (s : State) : State :=
  { s with host := { s.host with adm := Table.set Admit.zero s.host.adm st a } }

/-- The session of a connection, 255 where it has none. -/
def sessNo (s : State) (cn : Nat) : Nat := match connOf s cn with
  | some c => c.sess.getD 255
  | none => 255

/-- An answer, unless the connection has ended. -/
def answer (cn rq op status retry : Nat) (pay : List Word) (s : State) : State :=
  match connOf s cn with
  | none => s
  | some _ => emit (.resp cn rq op status retry pay) (record cn s)

/-- A notification to a connection that stands. -/
def notify (cn op sub status : Nat) (gap : Bool) (pay : List Word) (s : State) : State :=
  match connOf s cn with
  | none => s
  | some _ => emit (.note cn op sub status gap (houseTime s) pay) (record cn s)

/-- The high-water mark of operations in flight (P 0x0089). -/
def markOps (s : State) : State := { s with host := { s.host with opsHigh := max s.host.opsHigh (opsNow s) } }

/-- A request of a session becomes an operation in flight (R20, R312). -/
def beginOp (cn st : Nat) (s : State) : State :=
  let a := admitOf s st
  let s := putAdmit st { a with inFlight := a.inFlight + 1 } s
  markOps (match connOf s cn with
    | some c => putConn cn (some { c with outstanding := c.outstanding + 1 }) s
    | none => s)

/-- An operation in flight ends with its answer. -/
def endOp (cn rq st op status retry : Nat) (pay : List Word) (s : State) : State :=
  let s := answer cn rq op status retry pay s
  let a := admitOf s st
  let s := putAdmit st { a with inFlight := a.inFlight - 1 } s
  match connOf s cn with
  | some c => putConn cn (some { c with outstanding := c.outstanding - 1 }) s
  | none => s

/-! ### Device requests (R319) -/

/-- The key of a device by segment and node. -/
def devKey (g node : Nat) : Nat := g * 256 + node

def devQueue (s : State) (key : Nat) : List DevReq := Table.get [] s.host.devReq key
def putDevQueue (key : Nat) (l : List DevReq) (s : State) : State :=
  { s with host := { s.host with devReq := Table.set [] s.host.devReq key l } }

/-- Data bytes as an answer's words, four a word, with their count first. -/
def bytesPay (bs : List Byte) : List Word :=
  BitVec.ofNat 32 bs.length :: (List.range ((bs.length + 3) / 4)).map (fun i => BitVec.ofNat 32 (getLE bs (4 * i) 4))

/-- The device request in progress ends. -/
def endDev (key status : Nat) (data : List Byte) (s : State) : State :=
  match devQueue s key with
  | [] => s
  | r :: t =>
    let s := putDevQueue key t s
    let s := if r.startAt.isSome then { s with host := { s.host with devUsed := s.host.devUsed - 1 } } else s
    endOp r.cn r.rq r.stage 0x0070 status 0 (if status = 0 then bytesPay data else []) s

end Sys2Proof.Machine
end

