-- ==== Sys2Proof/Machine/Slate.lean ====
section
/-! DEFINITION. The slate: its modes, the judgement of mains periods, and the length of each slate period
(R25 to R33, R194). -/

namespace Sys2Proof.Machine
open Sys2Proof

/-- The nominal period in ticks (R32): 20.000 ms or 16.667 ms. -/
def nominalPer (s : State) : Nat := if s.slate.nom60F then 416_667 else 500_000

/-- The slate enters a mode; the change is recorded with MAINSPER, and a departure from LOCKED counts (R33). -/
def enterMode (m : SlateMode) (s : State) : State :=
  if s.slate.mode = m then s
  else
    let s := { s with slate := { s.slate with
      lockLoss := if s.slate.mode = .locked then s.slate.lockLoss + 1 else s.slate.lockLoss
      mode := m, lockRun := 0 } }
    logEv 0x10 3 0 viewAll 0 (packD [(1, m.code), (4, s.slate.mainsPer.toNat)]) s

/-- The phase error at a crossing that arrives now, in Q16.16 steps rounded toward minus infinity, positive when the slate
lags (R33). DESIGN CHOICE, log 20. -/
def phaseError (s : State) : Int :=
  let e : Int := (ceilDiv (sincePh0 s * 2 ^ 28) s.slate.period : Int)
  if e ≤ 2 ^ 27 then -e else 2 ^ 28 - e

/-- A measured period is plausible (R27). -/
def plausible (s : State) (p : Nat) : Bool :=
  decide (384_615 ≤ p) && decide (p ≤ 555_556) &&
    (s.slate.firstAfter || (match s.slate.lastPer with
      | none => true
      | some l => decide ((max p l - min p l) * 20 ≤ l)))

/-- What a plausible period does to the mode (R28, R30). -/
def afterPlausible (err : Int) (s : State) : State :=
  match s.slate.mode with
  | .free => s
  | .locked => if 64 * 65536 < err.natAbs then enterMode .relock s else s
  | .flywheel => if 8 ≤ s.slate.run8 then enterMode .relock s else s
  | .nominal => if 8 ≤ s.slate.run8 then enterMode .relock s else s
  | .relock =>
    if err.natAbs ≤ 4 * 65536 then
      if 8 ≤ s.slate.lockRun + 1 then enterMode .locked s
      else { s with slate := { s.slate with lockRun := s.slate.lockRun + 1 } }
    else { s with slate := { s.slate with lockRun := 0 } }

/-- A fault of the mains puts LOCKED and RELOCK into FLYWHEEL (R28, R30). -/
def afterFault (s : State) : State :=
  if s.slate.mode = .locked ∨ s.slate.mode = .relock then enterMode .flywheel s else s

/-- A crossing that closes a period of `p` ticks (R27 to R30). MAINSFREQ is rounded down. DESIGN CHOICE, log 20. -/
def closePeriod (p : Nat) (s : State) : State :=
  if plausible s p then
    let err := phaseError s
    let s := { s with slate := { s.slate with
      lastPer := some p, firstAfter := false, run8 := s.slate.run8 + 1, lastPlaus := some s.now, flyPer := p
      mainsPer := BitVec.ofNat 32 (p * 40), mainsFreq := BitVec.ofNat 32 (25_000_000 * 65536 / p) } }
    afterPlausible err s
  else
    afterFault { s with slate := { s.slate with
      lastPer := some p, firstAfter := true, run8 := 0, implaus := s.slate.implaus + 1 } }

/-- MAINS_CROSSING (R27): a positive-going crossing with the rms amplitude of the period it closes. Below
8 V there is no crossing, and none is taken within 5 ms of the last (R194); FREE ignores them (R31). PHERR is
the phase error at the last crossing, and MAINSAMP the amplitude over the last period (R33). -/
def execMainsCrossing (amp : Word) (s : State) : Host.Outcome State Fault Refusal :=
  whenUpAnd s (s.slate.started && s.slate.mode != .free) fun s =>
    let early := match s.slate.lastCross with
      | some t => decide (s.now < t + msT 5)
      | none => false
    if early then s
    else
      let s := if s.slate.lastCross.isSome then { s with slate := { s.slate with mainsAmp := amp } } else s
      if amp.toNat < 8 * 65536 then s
      else
        let last := s.slate.lastCross
        let missed := s.slate.missing
        let s := { s with
          slate := { s.slate with
            lastCross := some s.now, missing := false, phErr := BitVec.ofInt 32 (phaseError s) }
          field := { s.field with latPos := BitVec.ofNat 32 s.now } }
        match last with
        | none => s
        | some t => if missed then s else closePeriod (s.now - t) s

/-- MISSING_PERIOD (R27): 555,556 ticks after the last crossing, once for each absence. -/
def execMissingPeriod (s : State) : Host.Outcome State Fault Refusal :=
  let due := match s.slate.lastCross with
    | some t => !s.slate.missing && decide (t + 555_556 ≤ s.now)
    | none => false
  whenUpAnd s (s.slate.started && s.slate.mode != .free && due) fun s =>
    afterFault { s with slate := { s.slate with
      missing := true, firstAfter := true, run8 := 0, implaus := s.slate.implaus + 1 } }

/-- NOMINAL_ENTRY (R29): 2 s after the last plausible crossing while in FLYWHEEL. -/
def execNominalEntry (s : State) : Host.Outcome State Fault Refusal :=
  let due := match s.slate.lastPlaus with
    | some t => decide (t + secT 2 ≤ s.now)
    | none => true
  whenUpAnd s (s.slate.mode == .flywheel && due) fun s => enterMode .nominal s

/-- A period moved toward a target by at least one tick and at most 2 % (R28, R29), by a free amount. DESIGN CHOICE, log 20. -/
def slewToward (p target : Nat) (s : State) : Nat × State :=
  if p = target then (p, s)
  else
    let r := drawIn 1 (max 1 (min (p / 50) (max p target - min p target))) s
    (if p < target then p + r.1 else p - r.1, r.2)

/-- The least and greatest period within 2 % of `p`. -/
def lo2 (p : Nat) : Nat := (p * 49 + 49) / 50
def hi2 (p : Nat) : Nat := p * 51 / 50

/-- The instant at which the half-period in progress ends and the next begins (R25): ph 2048 half a period after ph 0,
and ph 0 a whole period after the last. -/
def halfDue (s : State) : Nat :=
  s.slate.halfStart + (if s.slate.halfcnt.getLsbD 0 then s.slate.period - firstHalf s else firstHalf s)

/-- How far the slate lags the mains at the end of this half-period, in ticks, by the last crossing and the measured
period: the shorter way round (R30). -/
def slateLag (s : State) : Int :=
  match s.slate.lastCross with
  | none => 0
  | some t =>
    let m := s.slate.flyPer
    let d := (halfDue s - t) % m
    if 2 * d ≤ m then (d : Int) else (d : Int) - (m : Int)

/-- The period that brings the next ph 0 onto the mains: the measured period less the lag (R28, R30). -/
def alignPer (s : State) : Nat := ((s.slate.flyPer : Int) - slateLag s).toNat

/-- A period within [lo, hi] that corrects the phase: between nine tenths and all of what the limits leave of the way
from the measured period to the aligning one, by a free amount (R30). DESIGN CHOICE, log 20. -/
def correctPhase (lo hi : Nat) (s : State) : Nat × State :=
  let m := min hi (max lo s.slate.flyPer)
  let t := min hi (max lo (alignPer s))
  let full := max m t - min m t
  let least := (full * 9 + 9) / 10
  let r := drawIn least (full + 1 - least) s
  (if m ≤ t then m + r.1 else m - r.1, r.2)

/-- The length of the slate period that begins now (R28 to R31). While LOCKED it moves toward the measured period and
phase by a free amount; in RELOCK it takes the full 2 % toward the measured period until it is within 2 % of it, and then
corrects the phase. DESIGN CHOICE, log 20. -/
def nextPeriod (s : State) : Nat × State :=
  let p := s.slate.period
  match s.slate.mode with
  | .free => (nominalPer s, s)
  | .flywheel => (s.slate.flyPer, s)
  | .nominal => slewToward p (nominalPer s) s
  | .locked => slewToward p (alignPer s) s
  | .relock =>
    let m := s.slate.flyPer
    if p < lo2 m then (hi2 p, s) else if hi2 m < p then (lo2 p, s)
    else correctPhase (max (lo2 p) (lo2 m)) (min (hi2 p) (hi2 m)) s

/-- A slate period ends and the next begins (R33). SLEWRATE is rounded toward minus infinity. DESIGN CHOICE, log 20. -/
def endPeriod (s : State) : State :=
  let old := s.slate.period
  let r := nextPeriod s
  let s := r.2
  { s with slate := { s.slate with
    period := r.1
    slatePer := BitVec.ofNat 32 (old * 40)
    slewRate := if s.slate.slatePer = 0 then 0
      else BitVec.ofInt 32
        ((((old * 40 : Nat) : Int) - (s.slate.slatePer.toNat : Int)) * 100 * 65536 / (s.slate.slatePer.toNat : Int)) } }

/-- A half-period begins at its instant (R25, R33): HALFCNT rises, and at ph 0 the next slate period begins. -/
def beginHalf (s : State) : State :=
  let h := s.slate.halfcnt + 1
  let due := halfDue s
  let s := if h.getLsbD 0 then s else endPeriod s
  { s with slate := { s.slate with halfcnt := h, halfStart := due } }

end Sys2Proof.Machine
end

