-- ==== Sys2Proof/Machine/Field.lean ====
section
/-! DEFINITION. The field side of the local I/O (07_field_io.md): its configuration, the rows of its channels,
the latch of a half-period (R170), and the application of output commands (R41, R42, R172, R174, R191). -/

namespace Sys2Proof.Machine
open Sys2Proof

/-! ### Configuration (R177, R181, R184, R189, R191, R192) -/

def dicfg (s : State) (n : Nat) : Word := Table.get 0x0000_011E s.field.cfg.di n
def docfg (s : State) (n : Nat) : Word := Table.get 0 s.field.cfg.dout n
def aicfg (s : State) (n : Nat) : Word := Table.get 0x0F6E_0008 s.field.cfg.ai n
def aocfg (s : State) (n : Nat) : Word := Table.get 0 s.field.cfg.ao n
def enccfg (s : State) (c : Nat) : Word := Table.get 0x0000_1408 s.field.cfg.enc c

/-- BLHOLD in ms, DTPER in s, H of segment 0. -/
def blhold (s : State) : Nat := bitsOf s.field.cfg.gen0 21 12
def dtper (s : State) : Nat := bitsOf s.field.cfg.gen0 11 6
def holdH (s : State) : Nat := bitsOf s.field.cfg.gen1 7 0

/-- The local I/O configuration as its 64 words travel in CONFIG frames (log entry 14). -/
def lioWords (s : State) : List Word :=
  [s.field.cfg.gen0, s.field.cfg.gen1] ++ (List.range 32).map (dicfg s) ++ (List.range 16).map (docfg s) ++
    (List.range 8).map (aicfg s) ++ (List.range 4).map (aocfg s) ++ (List.range 2).map (enccfg s)

def lioBytes (s : State) : List Byte := (lioWords s).flatMap (fun w => bytesLE 4 w.toNat)

/-- Bytes that the field side holds. -/
def heldBytes (s : State) (off n : Nat) : List Byte := (List.range n).map (fun i => Table.get 0 s.field.held (off + i))

/-- The CRC of the configuration held matches the module's copy (R174). -/
def cfgMatch (s : State) : Bool := crc32 (heldBytes s 0 256) == crc32 (lioBytes s)

/-- The owner of block 4 (R175). -/
def lioOwner (s : State) : Nat := (tagOf s 4).owner

/-! ### Field-side events (R168, R225) -/

/-- An event waits for an EVENT frame. -/
def fieldEvent (e : FieldEv) (s : State) : State :=
  { s with field := { s.field with events := s.field.events ++ [e] } }

/-! ### Digital inputs (R182, R183) -/

def diOf (s : State) (n : Nat) : DiS := Table.get DiS.zero s.field.di n
def putDi (n : Nat) (d : DiS) (s : State) : State :=
  { s with field := { s.field with di := Table.set DiS.zero s.field.di n d } }

/-- FILT of an input: the filter time in 0.1 ms. -/
def diFilt (s : State) (n : Nat) : Nat := bitsOf (dicfg s n) 7 0

/-- DI_FILTER_CHANGE: every sample of the window of FILT, one each 20 microseconds, has the new level (R182). -/
def execDiFilterChange (n : Nat) (x : LevelRun) (s : State) : Host.Outcome State Fault Refusal :=
  whenUpAnd s (decide (5 * diFilt s n ≤ x.samples)) fun s => putDi n { diOf s n with filt := x.lvl } s

/-- DI_WIRE_BREAK: declared on an input with WBEN, or cleared, after 10 ms (R183). -/
def execDiWireBreak (n : Nat) (broken : Bool) (s : State) : Host.Outcome State Fault Refusal :=
  whenUpAnd s (!broken || (dicfg s n).getLsbD 9) fun s => putDi n { diOf s n with wbrk := broken } s

/-- DI_COMPARATOR_TEST: the injected test current, once per second (R182). -/
def execDiComparatorTest (n : Nat) (pass : Bool) (s : State) : Host.Outcome State Fault Refusal :=
  whenUp s fun s => putDi n { diOf s n with cmpFault := !pass } s

/-! ### Digital outputs (R185 to R188, R42, R456) -/

def doOf (s : State) (n : Nat) : DoS := Table.get DoS.zero s.field.dout n

/-- CODE (R186): the first condition in the order 1, 3, 6, 4, 5, 2. Over-temperature shows as 1 (R456). -/
def doCode (hot : Bool) (d : DoS) : Nat :=
  if hot || d.cond.getLsbD 1 then 1 else if d.cond.getLsbD 3 then 3 else if d.cond.getLsbD 6 then 6
  else if d.cond.getLsbD 4 then 4 else if d.cond.getLsbD 5 then 5 else if d.cond.getLsbD 2 then 2 else 0

/-- The switch follows its command unless it is latched off or the die is too hot. -/
def DoS.settle (hot : Bool) (d : DoS) : DoS := { d with appl := d.cmd && d.latchedAt.isNone && !hot }

/-- A condition set or cleared. -/
def DoS.setCond (d : DoS) (i : Nat) (b : Bool) : DoS :=
  { d with cond := if b then d.cond ||| (1#8 <<< i) else d.cond &&& ~~~(1#8 <<< i) }

/-- An output changes, from a die that was too hot or not to one that is or is not, and a change of CODE to a value other
than 0 is an event (R186). -/
def putDoHot (was is : Bool) (n : Nat) (d : DoS) (s : State) : State :=
  let old := doCode was (doOf s n)
  let new := doCode is d
  let s := { s with field := { s.field with dout := Table.set DoS.zero s.field.dout n d } }
  if new != old && new != 0 then
    fieldEvent ⟨0x16, 3, lioOwner s, viewHouse (lioOwner s), 3, packD [(1, n), (1, new)]⟩ s
  else s

/-- An output changes. -/
def putDo (n : Nat) (d : DoS) (s : State) : State := putDoHot s.field.overtemp s.field.overtemp n d s

/-- The command of an output changes to `v`: a pulse in progress ends with it and its result is discarded (R188). -/
def DoS.command (hot v : Bool) (d : DoS) : DoS :=
  { d with cmd := v, pend := none, pulse := if v == d.cmd then d.pulse else none
           low := if v == d.cmd then d.low else none }.settle hot

/-- An off-pulse is in progress (R188). -/
def DoS.pulsing (now : Nat) (d : DoS) : Bool := match d.pulse with
  | some t => decide (now < t + usT 300)
  | none => false

/-- The state that the switch applies: off during an off-pulse. -/
def DoS.conducts (now : Nat) (d : DoS) : Bool := d.appl && !d.pulsing now

/-- A pulse that has lasted its 300 microseconds ends with its result: CODE 4, or its end. -/
def DoS.endPulse (now : Nat) (d : DoS) : DoS :=
  if d.pulse.isSome && !d.pulsing now then
    let d' := match d.low with
      | some l => d.setCond 4 (!l)
      | none => d
    { d' with pulse := none, low := none }
  else d

/-- Every pulse that is over has ended. -/
def endPulses (s : State) : State :=
  foldS ((List.range 16).filter (fun n => (doOf s n).pulse.isSome)) (fun n t => putDo n ((doOf t n).endPulse t.now) t) s

/-- DO_OVERLOAD_LATCH: 5 ms in current limit, or the thermal shutdown of the switch (R185). -/
def execDoOverloadLatch (n : Nat) (s : State) : Host.Outcome State Fault Refusal :=
  whenUpAnd s (doOf s n).appl fun s =>
    putDo n (({ doOf s n with latchedAt := some s.now, offSince := false, appl := false }.setCond 1 true).setCond 2 false) s

/-- DO_REARM: commanded off at an output phase, and 1 s since the latch was set. The output stays off until the next
command to on (R185). -/
def execDoRearm (n : Nat) (s : State) : Host.Outcome State Fault Refusal :=
  let due := match (doOf s n).latchedAt with
    | some t => (doOf s n).offSince && decide (t + secT 1 ≤ s.now)
    | none => false
  whenUpAnd s due fun s =>
    putDo n (({ doOf s n with latchedAt := none, cmd := false }.setCond 1 false).settle s.field.overtemp) s

/-- Whether a condition can hold of an output now (R186). -/
def condApplies (s : State) (n code : Nat) : Bool :=
  let d := doOf s n
  if code = 2 then d.appl
  else if code = 3 then !d.cmd && !d.pulsing s.now
  else if code = 5 then (docfg s n).getLsbD 5 && d.appl
  else if code = 6 then d.cmd && !d.cond.getLsbD 2
  else false

/-- DO_CONDITION: conditions 2, 3, 5 and 6 come and go by what the field side measures (R186). -/
def execDoCondition (n code : Nat) (present : Bool) (s : State) : Host.Outcome State Fault Refusal :=
  whenUpAnd s (if present then condApplies s n code else [2, 3, 5, 6].contains code) fun s =>
    putDo n ((doOf s n).setCond code present) s

/-- A pulse may not start within 32 steps before an output phase or an aligned target (R188). -/
def pulseBarred (s : State) : Bool :=
  let o := offsetNow s
  (classesOn s).any (fun k => lastHalfOf s s.slate.halfcnt k && decide (o < (clsCfg s k).outph) &&
    decide ((clsCfg s k).outph ≤ o + 32)) ||
  s.field.dout.any (fun e => match e.2.pend with
    | some (_, t) => decide (absStep s o < t) && decide (t ≤ absStep s o + 32)
    | none => false)

/-- DARK_TEST_PULSE: an off-pulse of an output that is on, one in each interval of DTPER, apart from every
other (R188). -/
def execDarkTestPulse (n : Nat) (s : State) : Host.Outcome State Fault Refusal :=
  let d := doOf s n
  let free := (List.range 16).all (fun m => match (doOf s m).lastPulse with
    | some t => decide (t + usT 300 + msT 1 ≤ s.now)
    | none => true)
  let due := match d.lastPulse with
    | some t => t / secT (dtper s) != s.now / secT (dtper s)
    | none => true
  whenUpAnd s ((docfg s n).getLsbD 6 && d.appl && free && due && !pulseBarred s) fun s =>
    let s := endPulses s
    putDo n { doOf s n with pulse := some s.now, lastPulse := some s.now } s

/-- DARK_TEST_CHECK: from 250 microseconds into a pulse on it is known whether the readback has fallen; if not, CODE 4 is
reported when the pulse ends without a command change (R188). -/
def execDarkTestCheck (n : Nat) (low : Bool) (s : State) : Host.Outcome State Fault Refusal :=
  let due := match (doOf s n).pulse with
    | some t => decide (t + usT 250 ≤ s.now) && (doOf s n).pulsing s.now && (doOf s n).low.isNone
    | none => false
  whenUpAnd s due fun s => putDo n { doOf s n with low := some low } s

/-- FIELD_OVERTEMP: at 130 degrees every DO is turned off with CODE 1 (R456). -/
def execFieldOvertemp (s : State) : Host.Outcome State Fault Refusal :=
  whenUpAnd s (!s.field.overtemp) fun s =>
    let s := endPulses s
    let s := foldS (List.range 16) (fun n t => putDoHot false true n ((doOf t n).settle true) t) s
    { s with field := { s.field with overtemp := true } }

/-- FIELD_DIE_COOLED: below 115 degrees the outputs are as commanded again (R456, R186); the TEMP check of
the safety pair passes again (R221). -/
def execFieldDieCooled (s : State) : Host.Outcome State Fault Refusal :=
  whenUp s fun s =>
    let s := { s with saf := { s.saf with tempBad := false } }
    if s.field.overtemp then
      let s := foldS (List.range 16) (fun n t => putDoHot true false n ((doOf t n).settle false) t) (endPulses s)
      { s with field := { s.field with overtemp := false } }
    else s

/-! ### Analogue channels (R190, R191) -/

/-- MODE of an AI. -/
def aiMode (s : State) (n : Nat) : Nat := bitsOf (aicfg s n) 2 0

/-- The range of a mode (R190) in the unit of `x`: below the first UNDER, above the second OVER, and the measurable span.
The condition, VALID, and the value, clamped to the span. -/
def aiJudge (under ovr lo hi x : Int) : Nat × Bool × Int :=
  if x < lo then (1, false, lo) else if hi < x then (2, false, hi)
  else (if x < under then 1 else if ovr < x then 2 else 0, true, x)

/-- The greatest number in [lo, hi) that a falling-off condition holds of, by halving. -/
def bisect (p : Int → Bool) : Nat → Int → Int → Int
  | 0, lo, _ => lo
  | n + 1, lo, hi =>
    let m := (lo + hi) / 2
    if p m then bisect p n m hi else bisect p n lo m

/-- The resistance of a Pt1000 at `t` / 65,536 degrees is at most `x` milliohms, under IEC 60751 (R190). PRESUMED, log 64:
A = 3.9083e-3, B = -5.775e-7 and, below 0, C = -4.183e-12. -/
def ptBelow (x t : Int) : Bool :=
  let u : Int := 65536
  let c := if t < 0 then 4183 * (t - 100 * u) * (t * t * t) else 0
  decide (1_000_000_000_000_000 * u ^ 4 + 3_908_300_000_000 * t * u ^ 3 - 577_500_000 * (t * t) * u ^ 2 - c ≤
    x * 1_000_000_000 * u ^ 4)

/-- The temperature of a Pt1000 in Q16.16. -/
def ptTemp (x : Int) : Int := bisect (ptBelow x) 26 (-100 * 2 ^ 16) (600 * 2 ^ 16)

/-- The next bits of a logarithm to the base 2 of `m` / 2^60, by squaring. -/
def logBits : Nat → Nat → Nat → Nat
  | 0, _, acc => acc
  | n + 1, m, acc =>
    let q := m * m / 2 ^ 60
    if 2 ^ 61 ≤ q then logBits n (q / 2) (2 * acc + 1) else logBits n q (2 * acc)

/-- The natural logarithm of `x` milliohms over 10 kilohms, in units of 2^-60. -/
def lnRatio (x : Nat) : Int :=
  let r : Nat := x * 2 ^ 60 / 10_000_000
  let k : Nat := r.log2
  let frac : Nat := logBits 48 (r * 2 ^ 60 / 2 ^ k) 0
  ((k : Int) - 60) * 799_144_290_325_165_979 + (frac : Int) * 799_144_290_325_165_979 / 2 ^ 48

/-- The temperature of the NTC in Q16.16 by the beta model (R190): 1 / T = 1 / 298.15 + ln (R / 10 kilohms) / beta. -/
def ntcTemp (beta x : Nat) : Int :=
  let den : Int := 100 * (beta : Int) * 2 ^ 60 + 29815 * lnRatio x
  ((beta : Int) * 2_981_500 * 2 ^ 76 - 27315 * 2 ^ 16 * den) / (100 * den)

/-- What an AI reports: its condition, VALID, and its value. -/
structure AiResult where
  cond : Nat
  valid : Bool
  val : Word
  deriving DecidableEq, Repr

/-- An AI at the latch (R189, R190), from what its converter measured: microvolts in mode 1, nanoamperes in mode 2,
milliohms in modes 3 and 4. DESIGN CHOICE, log 64: the quotients are rounded down. -/
def aiResult (s : State) (n : Nat) (fault : Bool) : AiResult :=
  let w := s.field.latAi.getD n 0
  let cfg := aicfg s n
  let of_ (scale : Int) (r : Nat × Bool × Int) : AiResult := ⟨r.1, r.2.1, BitVec.ofInt 32 (r.2.2 * 2 ^ 16 / scale)⟩
  let bad (c : Nat) : AiResult := ⟨c, false, 0⟩
  let mode := bitsOf cfg 2 0
  if mode = 0 then ⟨0, false, 0⟩
  else if fault then bad 5
  else if mode = 1 then of_ 1_000_000 (aiJudge (-200_000) 10_500_000 (-500_000) 11_000_000 w.toInt)
  else if mode = 2 then
    if (Table.get none s.field.aiShunt n).isSome then bad 4
    else if cfg.getLsbD 3 && decide (w.toInt < 1_000_000) then bad 3
    else of_ 1_000_000 (aiJudge 3_600_000 21_000_000 0 24_000_000 w.toInt)
  else if mode = 3 then
    if 3_000_000 < w.toNat then bad 3 else if w.toNat < 700_000 then bad 4
    else of_ (2 ^ 16) (aiJudge (-50 * 2 ^ 16) (200 * 2 ^ 16) (-60 * 2 ^ 16) (250 * 2 ^ 16) (ptTemp (w.toNat : Int)))
  else if 2_000_000_000 < w.toNat then bad 3 else if w.toNat < 100_000 then bad 4
  else of_ (2 ^ 16) (aiJudge (-40 * 2 ^ 16) (120 * 2 ^ 16) (-50 * 2 ^ 16) (150 * 2 ^ 16) (ntcTemp (bitsOf cfg 31 16) w.toNat))

/-- AI_SHUNT_OPEN: above 25 mA for 1 ms in mode 2 (R190). -/
def execAiShuntOpen (n : Nat) (s : State) : Host.Outcome State Fault Refusal :=
  whenUpAnd s (aiMode s n == 2) fun s =>
    { s with field := { s.field with aiShunt := Table.set none s.field.aiShunt n (some s.now) } }

/-- AI_SHUNT_RETRY: every 1 s the shunt is closed again, and opens again if the current is still over. -/
def execAiShuntRetry (n : Nat) (ovr : Bool) (s : State) : Host.Outcome State Fault Refusal :=
  let due := match Table.get none s.field.aiShunt n with
    | some t => decide (t + secT 1 ≤ s.now)
    | none => false
  whenUpAnd s due fun s =>
    { s with field := { s.field with
        aiShunt := Table.set none s.field.aiShunt n (if ovr then some s.now else none) } }

def aoOf (s : State) (n : Nat) : AoS := Table.get AoS.zero s.field.ao n
def putAo (n : Nat) (a : AoS) (s : State) : State :=
  { s with field := { s.field with ao := Table.set AoS.zero s.field.ao n a } }

/-- AO_DEVIATION: the readback differs by more than 0.2 V for 10 ms, or no longer does (R191). -/
def execAoDeviation (n : Nat) (dev : Bool) (s : State) : Host.Outcome State Fault Refusal :=
  whenUp s fun s => putAo n { aoOf s n with dev := dev } s

/-! ### Encoders (R192, R193) -/

def encOf (s : State) (c : Nat) : EncS := Table.get EncS.zero s.field.enc c
def putEnc (c : Nat) (e : EncS) (s : State) : State :=
  { s with field := { s.field with enc := Table.set EncS.zero s.field.enc c e } }

/-- Quarter steps of a quadrature transition, forward when A leads B. -/
def quadStep (a b a' b' : Bool) : Int :=
  if a != a' && b == b' then (if a' == b then -1 else 1)
  else if a == a' && b != b' then (if a == b' then 1 else -1)
  else 0

/-- Counts of an accepted transition, and the quarter-step sum after it. -/
def encCount (mode : Nat) (e : EncS) (a b : Bool) : Int × Int :=
  let up (n : Int) (u : Bool) : Int := if u then n else -n
  if mode = 1 then (up (quadStep e.a e.b a b) Config.quadUp, e.sub)
  else if mode = 2 then
    let o : Int := ((Config.quadOfs % 4 : Nat) : Int)
    let q := e.sub + up (quadStep e.a e.b a b) Config.quadUp
    ((q + o) / 4 - (e.sub + o) / 4, q)
  else if mode = 3 then ((if a && !e.a then (if b then up (-1) Config.pulseUp else up 1 Config.pulseUp) else 0), e.sub)
  else (0, e.sub)

/-- ENCODER_EDGE: a transition to levels that have lasted GLITCH; the levels after it (R192, R193). -/
def execEncoderEdge (c : Nat) (a b : Bool) (x : EncLevels) (s : State) : Host.Outcome State Fault Refusal :=
  let cfg := enccfg s c
  let mode := bitsOf cfg 2 0
  let z := x.z
  whenUpAnd s (mode != 0 && decide (bitsOf cfg 15 8 ≤ x.held)) fun s =>
    let e := encOf s c
    let n := encCount mode e a b
    let d : Int := if cfg.getLsbD 4 then -n.1 else n.1
    let bad := decide (mode ≤ 2) && a != e.a && b != e.b
    let pos := e.pos + BitVec.ofInt 32 d
    let rise := a && !e.a
    let fast := rise && (match e.riseA with
      | some t => decide (s.now < t + 100)
      | none => false)
    let zr := z && !e.z
    putEnc c { e with
      pos := pos, sub := n.2, a := a, b := b, z := z
      zlat := if zr && cfg.getLsbD 3 then pos else e.zlat
      zcnt := if zr then e.zcnt + 1 else e.zcnt
      zseen := e.zseen || zr
      qerr := if bad then e.qerr + 1 else e.qerr
      qseen := e.qseen || bad
      posFault := if zr then false else e.posFault || bad
      fast := e.fast || fast
      riseA := if rise then some s.now else e.riseA
      edges := if d = 0 then e.edges else e.edges + 1
      net := e.net + d
      firstAt := if d != 0 && e.edges == 0 then s.now else e.firstAt
      lastAt := if d = 0 then e.lastAt else s.now } s

/-- VEL (R193): a free value where the quotient is outside Q16.16. -/
def encVel (e : EncS) (s : State) : Word × State :=
  if e.edges < 2 ∨ e.lastAt = e.firstAt then (0, s)
  else
    let v : Int := Int.tdiv (e.net * 25_000_000 * 65536) ((e.lastAt - e.firstAt : Nat) : Int)
    if satTo 32 v = v then (BitVec.ofInt 32 v, s)
    else
      let r := draw s
      (r.1.setWidth 32, r.2)

/-- The four points of a channel and its flags, latched; what counts since the last latch starts again. -/
def latchEnc (c : Nat) (s : State) : List Word × State :=
  let e := encOf s c
  let v := encVel e s
  let estat := BitVec.ofNat 32 (b2n e.zseen + b2n e.qseen * 2 + b2n e.fast * 4 + e.qerr.toNat * 256 +
    e.zcnt.toNat * 65536)
  ([e.pos, v.1, e.zlat, estat, BitVec.ofNat 32 (b2n e.posFault)],
    putEnc c { e with zseen := false, qseen := false, fast := false, edges := 0, net := 0 } v.2)

/-! ### The latch (R170) -/

/-- A word with one bit for each of 32 inputs. -/
def diWord (s : State) (f : DiS → Bool) : Word :=
  BitVec.ofNat 32 ((List.range 32).foldl (fun a n => a + b2n (f (diOf s n)) * 2 ^ n) 0)

/-- Every local input is latched at the start of a half-period. -/
def fieldLatch (s : State) : State :=
  let s := endPulses s
  let e0 := latchEnc 0 s
  let e1 := latchEnc 1 e0.2
  let s := e1.2
  { s with field := { s.field with
      latHalf := s.slate.halfcnt, latAt := s.now, latAi := []
      latF := diWord s (fun d => d.filt), latW := diWord s (fun d => d.wbrk), latC := diWord s (fun d => d.cmpFault)
      latEnc := e0.1 ++ e1.1
      latDo := (List.range 16).map (fun n =>
        BitVec.ofNat 32 (doCode s.field.overtemp (doOf s n) * 16 + b2n ((doOf s n).conducts s.now) * 2))
      latAo := (List.range 4).map (fun n =>
        BitVec.ofNat 32 (b2n (aoOf s n).dev * 2 ^ 16 + b2n (aoOf s n).clamp * 2 ^ 18)) } }

/-! ### Output commands (R41, R42, R191) -/

/-- The target step of an aligned change (R42): the first zero crossing less the lead, at or after `from_`. -/
def alignTarget (from_ lead : Nat) : Nat := (from_ + lead + 2047) / 2048 * 2048 - lead

/-- One digital output takes a command at an output phase of the absolute step `at_`. -/
def applyDo (at_ n : Nat) (v : Bool) (s : State) : State :=
  let d := { (doOf s n).endPulse s.now with offSince := (doOf s n).offSince || !v }
  let cfg := docfg s n
  if cfg.getLsbD 7 && s.slate.mode != .free then
    if v == d.cmd then putDo n { d with pend := none } s
    else
      let lead := if v then bitsOf cfg 31 20 else bitsOf cfg 19 8
      putDo n { d with pend := some (v, alignTarget at_ lead) } s
  else putDo n (d.command s.field.overtemp v) s

/-- One analogue output takes a value (R191). -/
def applyAo (n : Nat) (v : Word) (s : State) : State :=
  putAo n { aoOf s n with mv := (aoMv v).1, clamp := (aoMv v).2 } s

/-- The channels named by an OUTCMD take their values. -/
def applyOut (c : OutCmd) (s : State) : State :=
  let at_ := c.half.toNat * 2048 + c.ph
  let s := foldS ((List.range 16).filter (fun n => c.doMask.getLsbD n)) (fun n => applyDo at_ n (c.doVal.getLsbD n)) s
  foldS ((List.range 4).filter (fun n => c.aoMask.getLsbD n)) (fun n => applyAo n (c.aoVal.getD n 0)) s

/-- The barrier-loss state ends once the configuration matches and the complete command was applied (R174). -/
def leaveLoss (s : State) : State :=
  if s.field.blState && !s.field.needFull && cfgMatch s then
    { s with field := { s.field with blState := false, blHoldTo := none } }
  else s

/-- The command of a number that is to be applied: the first whose step the follower has reached. -/
def applyNext (k : Nat) (s : State) : Option OutCmd :=
  (s.field.pend.find? (fun e => e.1 == k && folReached s (e.2.half.toNat * 2048 + e.2.ph))).map (·.2)

/-- OUTPUT_APPLY: the field side applies an OUTCMD when its follower reaches the step it names (R170). In the barrier-loss
state only the complete one acts (R174). -/
def execOutputApply (k : Nat) (s : State) : Host.Outcome State Fault Refusal :=
  whenUp s fun s =>
    match applyNext k s with
    | none => s
    | some c =>
      let s := { s with field := { s.field with pend := s.field.pend.erase (k, c) } }
      if s.field.blState && !c.complete then s
      else
        let s := applyOut c s
        if c.complete then leaveLoss { s with field := { s.field with needFull := false } } else s

/-- ALIGNED_TARGET: the follower reaches the target step of an aligned change (R42, R170). -/
def execAlignedTarget (n : Nat) (s : State) : Host.Outcome State Fault Refusal :=
  whenUp s fun s =>
    match (doOf s n).pend with
    | some (v, t) =>
      if folReached s t then putDo n (((doOf s n).endPulse s.now).command s.field.overtemp v) s else s
    | none => s

/-- The outputs are held when the field side loses the barrier (R172): nothing pending acts. -/
def holdOutputs (s : State) : State :=
  let s := foldS (List.range 16) (fun n t => putDo n { doOf t n with pend := none } t) s
  { s with field := { s.field with
      blState := true, needFull := true, pend := []
      blHoldTo := some (s.now + msT (blhold s) * 97 / 100) } }

/-- BLHOLD_EXPIRY: the hold, timed by an oscillator within 3 %, ends, and each output takes its barrier-loss
state (R172, R184, R191). -/
def execBlholdExpiry (s : State) : Host.Outcome State Fault Refusal :=
  let due := match s.field.blHoldTo with
    | some t => decide (t ≤ s.now)
    | none => false
  whenUpAnd s due fun s =>
    let s := { s with field := { s.field with blHoldTo := none } }
    let s := foldS ((List.range 16).filter (fun n => bitsOf (docfg s n) 4 3 == 0)) (fun n t =>
      putDo n (((doOf t n).endPulse t.now).command t.field.overtemp false) t) s
    foldS ((List.range 4).filter (fun n => !(aocfg s n).getLsbD 0)) (fun n t =>
      putAo n { aoOf t n with mv := bitsOf (aocfg t n) 31 16, clamp := false } t) s

end Sys2Proof.Machine
end

