-- ==== Sys2Proof/Machine/SafetyPair.lean ====
section
/-! DEFINITION. The safety pair (08_safety_functions.md): its parameter set, inputs, outputs, faults and
functions, its status words, and the rows that change them between safety cycles. -/

namespace Sys2Proof.Machine
open Sys2Proof

/-! ### The parameter set (R200, R203, R208, R209) -/

/-- The factory words of SINCFG, SQCFG and SFCFG. -/
def sinFactory : Word := 0x000A_2840
def sqFactory : Word := 0x012C_0000
def sfFactory : SfCfg := ⟨0, 0x0078_0000, 0x00FF_0000⟩

/-- Bytes with their CRC appended. -/
def withCrc (bs : List Byte) : List Byte := bs ++ bytesLE 4 (crc32 bs).toNat

/-- The set in force while none has been committed: factory values, PARID 0 (log entry 8). -/
def safFactory : List Byte :=
  withCrc (bytesLE 4 0 ++ bytesLE 4 0x0100 ++ (List.replicate 8 sinFactory).flatMap (fun w => bytesLE 4 w.toNat) ++
    (List.replicate 4 sqFactory).flatMap (fun w => bytesLE 4 w.toNat) ++
    (List.replicate 8 sfFactory).flatMap (fun c => bytesLE 4 c.w0.toNat ++ bytesLE 4 c.w1.toNat ++ bytesLE 4 c.w2.toNat))

/-- A little-endian word at an offset. -/
def wordAt (bs : List Byte) (off : Nat) : Word := BitVec.ofNat 32 (getLE bs off 4)

/-- A set as its bytes lay it out (R209). -/
def parseSaf (bs : List Byte) : SafSet :=
  { parid := wordAt bs 0
    sin := (List.range 8).map (fun n => wordAt bs (8 + 4 * n))
    sq := (List.range 4).map (fun n => wordAt bs (0x28 + 4 * n))
    sf := (List.range 8).map (fun n =>
      ⟨wordAt bs (0x38 + 12 * n), wordAt bs (0x3C + 12 * n), wordAt bs (0x40 + 12 * n)⟩)
    crc := wordAt bs 0x98 }

/-- What each half checks of a received set. -/
def safSetOk (bs : List Byte) : Bool :=
  bs.length == 156 && getLE bs 4 2 == 0x0100 && getLE bs 6 2 == 0 && wordAt bs 0x98 == crc32 (bs.take 0x98)

/-- The bytes that the core sends (R209). DEDUCED, log 8. -/
def safBytes (s : State) : List Byte := s.saf.committed.getD safFactory

/-- No set: everything at its factory value. -/
def SafSet.none : SafSet := ⟨0, [], [], [], 0⟩

/-- The set in force. -/
def safSet (s : State) : SafSet := s.saf.inForce.getD SafSet.none

def SafSet.sinOf (c : SafSet) (n : Nat) : Word := c.sin.getD n sinFactory
def SafSet.sqOf (c : SafSet) (m : Nat) : Word := c.sq.getD m sqFactory
def SafSet.sfOf (c : SafSet) (f : Nat) : SfCfg := c.sf.getD f sfFactory

/-- KIND, ANTI, sources and times of an input. -/
def sinKind (w : Word) : Nat := bitsOf w 1 0
def sinAnti (w : Word) : Bool := w.getLsbD 2
def sinTsa (w : Word) : Nat := bitsOf w 5 4
def sinTsb (w : Word) : Nat := bitsOf w 7 6
def sinFilt (w : Word) : Nat := bitsOf w 15 10
def sinDisc (w : Word) : Nat := bitsOf w 23 16

/-- MODE and FBTIME of a channel. -/
def sqMode (w : Word) : Nat := bitsOf w 2 0
def sqFbtime (w : Word) : Nat := bitsOf w 31 16

/-- The fields of a function. -/
def SfCfg.type (c : SfCfg) : Nat := bitsOf c.w0 31 28
def SfCfg.noloc (c : SfCfg) : Bool := c.w0.getLsbD 27
def SfCfg.in1 (c : SfCfg) : Nat := bitsOf c.w0 26 24
def SfCfg.in2 (c : SfCfg) : Nat := bitsOf c.w0 22 20
def SfCfg.outs (c : SfCfg) : Nat := bitsOf c.w0 19 16
def SfCfg.lout (c : SfCfg) : Nat := bitsOf c.w0 15 14
def SfCfg.ptl (c : SfCfg) : Bool := c.w0.getLsbD 13
def SfCfg.rstauto (c : SfCfg) : Bool := c.w0.getLsbD 12
def SfCfg.standin (c : SfCfg) : Nat := bitsOf c.w1 31 17
def SfCfg.lockdly (c : SfCfg) : Nat := bitsOf c.w1 7 0
def SfCfg.mslin (c : SfCfg) : Nat := bitsOf c.w2 23 16
def SfCfg.reqpt (c : SfCfg) : Nat := bitsOf c.w2 15 0

/-- The function is used. -/
def SfCfg.used (c : SfCfg) : Bool := decide (1 ≤ c.type) && decide (c.type ≤ 5)

/-- The safety inputs that a function reads, and the channels that it switches or locks with. -/
def SfCfg.inputs (c : SfCfg) : List Nat :=
  (if c.noloc then [] else [c.in1]) ++ (if c.type = 3 ∨ c.type = 4 then [c.in2] else [])
def SfCfg.outList (c : SfCfg) : List Nat := (List.range 4).filter (natBit c.outs)
def SfCfg.channels (c : SfCfg) : List Nat := c.outList ++ (if c.type = 3 then [c.lout] else [])

def fnCfg (s : State) (f : Nat) : SfCfg := (safSet s).sfOf f

/-- A function's own configuration, and that of its inputs and channels, are the same in two sets (R211). -/
def sameFn (a b : SafSet) (f : Nat) : Bool :=
  a.sfOf f == b.sfOf f && (b.sfOf f).inputs.all (fun n => a.sinOf n == b.sinOf n) &&
    (b.sfOf f).channels.all (fun m => a.sqOf m == b.sqOf m)

/-! ### Inputs, channels and functions as they stand -/

def sinOf (s : State) (n : Nat) : SinS := Table.get SinS.zero s.saf.ins n
def putSin (n : Nat) (x : SinS) (s : State) : State :=
  { s with saf := { s.saf with ins := Table.set SinS.zero s.saf.ins n x } }
def sqOf (s : State) (m : Nat) : SqS := Table.get SqS.zero s.saf.sq m
def putSq (m : Nat) (x : SqS) (s : State) : State :=
  { s with saf := { s.saf with sq := Table.set SqS.zero s.saf.sq m x } }
def sfOf (s : State) (f : Nat) : SfS := Table.get SfS.zero s.saf.sf f
def putSf (f : Nat) (x : SfS) (s : State) : State :=
  { s with saf := { s.saf with sf := Table.set SfS.zero s.saf.sf f x } }

/-- Both halves run. -/
def pairRuns (s : State) : Bool := s.saf.ha && s.saf.hb

/-! ### The two halves (R196, R197) -/

/-- The state as half B sees it: its own inputs and functions stand where those of half A stand. -/
def swapHalves (s : State) : State :=
  { s with saf := { s.saf with ins := s.saf.insB, insB := s.saf.ins, sf := s.saf.sfB, sfB := s.saf.sf } }

/-- Half B does `g` on its own inputs and functions. -/
def onB (g : State → State) (s : State) : State :=
  let b := (g (swapHalves s)).saf
  { s with saf := { s.saf with insB := b.ins, sfB := b.sf } }

/-- Each half does `g` on its own inputs and functions. What the pair has once (switches, list, counts, events) is taken from
half A, since the two do the same unless State or a fault sets them apart. DESIGN CHOICE, log 62. -/
def onBoth (g : State → State) (s : State) : State :=
  let b := (g (swapHalves s)).saf
  let t := g s
  { t with saf := { t.saf with insB := b.ins, sfB := b.sf } }

/-- The pair's clock: the position in the frame of 5 ms and in the second, and the length of a cycle (R201, R206). -/
def cycleTicks : Nat := 12_500
def framePos (s : State) : Nat := s.saf.cycle % 10 * cycleTicks + (s.now - s.saf.cycAt)
def secondPos (s : State) : Nat := s.saf.cycle % 2_000 * cycleTicks + (s.now - s.saf.cycAt)

/-- Channel B is in its stop state. -/
def stopB (w : Word) (x : SinS) : Bool := if sinAnti w then x.b else !x.b

/-- The input demands: either channel in its stop state, or the remaining one alone (R202). -/
def inDemand (w : Word) (x : SinS) : Bool :=
  (x.failA && x.failB) || (!x.failA && !x.a) || (!x.failB && stopB w x)

/-- Both channels, or the remaining one, are in the stop state (R216). -/
def inReleased (w : Word) (x : SinS) : Bool :=
  (x.failA || !x.a) && (x.failB || stopB w x)

/-- The two channels disagree (R202). -/
def inDisagrees (w : Word) (x : SinS) : Bool := (!x.a) != stopB w x

def demandOf (s : State) (n : Nat) : Bool := inDemand ((safSet s).sinOf n) (sinOf s n)

/-- An MSL entry in force, and an unused one. -/
def MslEnt.none : MslEnt := ⟨0, 0, 0, 0, 0, 0⟩
def mslEnt (s : State) (slot : Nat) : MslEnt :=
  match s.msl.inForce with
  | some c => c.ents.getD slot MslEnt.none
  | none => MslEnt.none
def mslOf (s : State) (slot : Nat) : MslSlot := Table.get MslSlot.zero s.msl.slot slot
def putMsl (slot : Nat) (x : MslSlot) (s : State) : State :=
  { s with msl := { s.msl with slot := Table.set MslSlot.zero s.msl.slot slot x } }

/-- Bit `i` of data bytes. -/
def dataBit (d : List Byte) (i : Nat) : Bool := (d.getD (i / 8) 0).getLsbD (i % 8)

/-- An input slot is in its stop state (R240). -/
def mslStop (s : State) (slot : Nat) : Bool :=
  let x := mslOf s slot
  !(x.st == .run && x.fresh && !x.pasv && dataBit x.applied (mslEnt s slot).pbit)

/-- The MSL input of a function demands. -/
def mslDemand (s : State) (f : Nat) : Bool := decide ((fnCfg s f).mslin < 16) && mslStop s (fnCfg s f).mslin

/-- The lock monitor reports locked (R215). -/
def lockedOf (s : State) (f : Nat) : Bool := (fnCfg s f).type == 3 && !demandOf s (fnCfg s f).in2

/-- Demand by type (R214 to R216), with the MSL input of R208. -/
def fnDemand (s : State) (f : Nat) : Bool :=
  let c := fnCfg s f
  mslDemand s f ||
    (if c.type = 4 then demandOf s c.in1 || demandOf s c.in2
     else (!c.noloc && demandOf s c.in1) ||
       (c.type == 3 && (!lockedOf s f || (sfOf s f).reqU)))

/-! ### Events (R225) -/

/-- The view of a function's records (R361): the house and the owner of the block of REQPT. -/
def fnView (s : State) (f : Nat) : Word :=
  if (fnCfg s f).reqpt = 0 then viewOf 0 else viewHouse (ownerOf s (fnCfg s f).reqpt)

/-- The state codes (R213). -/
def SfState.code : SfState → Nat
  | .init => 0
  | .safe => 1
  | .armed => 2
  | .run => 3
  | .lockout => 4

/-- A change of state, or a request ignored (the state unchanged), with the source of the request: 0 none,
1 the request point, 2 a QHP operation. -/
def stateEvent (f old new src : Nat) (s : State) : State :=
  fieldEvent ⟨0x20, 3, 0, fnView s f, 2, packD [(1, f), (1, old), (1, new), (1, src)]⟩ s

/-- The retained lockout list holds a function with its code (R222). -/
def listLockout (f : Nat) (code : Byte) (exp : Bool) (s : State) : State :=
  { s with saf := { s.saf with lockList := s.saf.lockList.filter (fun e => e.1 != f) ++ [(f, code, exp)] } }

/-- A function enters a state, its transition of the cycle in progress (R213). -/
def goState (f : Nat) (st : SfState) (src : Nat) (s : State) : State :=
  let x := sfOf s f
  let s := putSf f { x with st := st, t1 := none, firstRun := x.firstRun && st != .run, moved := x.moved || x.st != st } s
  if x.st = st then s else stateEvent f x.st.code st.code src s

/-- A function enters LOCKOUT (R213, R220, R222). -/
def lockFn (f code : Nat) (cause : Option (Nat × Nat)) (exp : Bool) (s : State) : State :=
  let x := sfOf s f
  let s := putSf f { x with si := false, siexp := exp, fcode := BitVec.ofNat 8 code, cause := cause } s
  let s := goState f .lockout 0 (listLockout f (BitVec.ofNat 8 code) exp s)
  fieldEvent ⟨0x22, 7, 0, fnView s f, 2, packD [(1, f), (1, code), (1, b2n exp)]⟩ s

/-- The used functions. -/
def usedFns (s : State) : List Nat := (List.range 8).filter (fun f => (fnCfg s f).used)

/-! ### Faults (R217, R218) -/

/-- The inputs fed by a test source, contact kind. -/
def fedBy (s : State) (j : Nat) : List Nat :=
  (List.range 8).filter (fun n => sinKind ((safSet s).sinOf n) == 1 &&
    (sinTsa ((safSet s).sinOf n) == j || sinTsb ((safSet s).sinOf n) == j))

/-- Codes 0x30 and above are module faults. -/
def isModuleFault (code : Nat) : Bool := 0x30 ≤ code

/-- A standing fault of a channel. -/
def addMark (l code : Nat) (ms : List (Nat × Nat)) : List (Nat × Nat) :=
  if ms.contains (l, code) then ms else ms ++ [(l, code)]

/-- A fault marks what it is attributed to. DEDUCED, log 31. -/
def markFault (code idx : Nat) (s : State) : State :=
  let fc := BitVec.ofNat 8 code
  if code = 0x01 ∨ code = 0x04 then
    putSin idx { sinOf s idx with failAll := true, fcode := fc, okA := 0, okB := 0, agreeAt := s.now, disAt := none } s
  else if code = 0x02 then putSin idx { sinOf s idx with failA := true, fcode := fc, okA := 0, disAt := none } s
  else if code = 0x03 then putSin idx { sinOf s idx with failB := true, fcode := fc, okB := 0, disAt := none } s
  else if code = 0x05 then
    foldS (fedBy s idx) (fun n t =>
      let w := (safSet t).sinOf n
      let x := sinOf t n
      putSin n { x with failA := x.failA || sinTsa w == idx, failB := x.failB || sinTsb w == idx, fcode := fc
                        okA := 0, okB := 0, disAt := none } t) s
  else if 0x10 ≤ code ∧ code ≤ 0x12 then putSq idx { sqOf s idx with fail := true, fcode := fc, marks := addMark 0 code (sqOf s idx).marks } s
  else if 0x13 ≤ code ∧ code ≤ 0x15 then
    let m := idx / 2
    let x := sqOf s m
    let x := { x with fcode := fc, okTests := Table.set 0 x.okTests (idx % 2) 0, marks := addMark (idx % 2) code x.marks }
    if sqMode ((safSet s).sqOf m) = 2 then
      let h := x.failH || idx % 2 == 0
      let l := x.failL || idx % 2 == 1
      putSq m { x with failH := h, failL := l, fail := x.fail || (h && l) } s
    else putSq m { x with fail := true } s
  else if isModuleFault code then
    fieldEvent ⟨0x23, 7, 0, viewAll, 2, packD [(1, code)]⟩
      { s with saf := { s.saf with mfcode := fc } }
  else s

/-- A fault is detected: it is counted, marked and sent as an EVENT (R225). The EVENT of a fault that is no module fault
leaves no record, since R225 and R361 list none. DEDUCED, log 31. -/
def countFault (code idx : Nat) (s : State) : State :=
  let s := onBoth (markFault code idx) s
  let s := if isModuleFault code then s else fieldEvent ⟨0, 0, 0, 0, 2, packD [(1, code), (1, idx)]⟩ s
  { s with saf := { s.saf with faults := s.saf.faults + 1 } }

/-- A detected fault is judged in the cycle that follows (R213). -/
def raiseFault (code idx at_ : Nat) (s : State) : State :=
  let s := countFault code idx s
  { s with saf := { s.saf with pendF := s.saf.pendF ++ [(code, idx, at_)] } }

/-- The fault acts on the function (R217). -/
def faultActs (s : State) (f : Nat) (e : Nat × Nat × Nat) : Bool :=
  let c := fnCfg s f
  let code := e.1
  let idx := e.2.1
  if code ≤ 0x04 then c.inputs.contains idx
  else if code = 0x05 then (fedBy s idx).any (fun n => c.inputs.contains n)
  else if code ≤ 0x12 then c.channels.contains idx
  else if code ≤ 0x15 then c.channels.contains (idx / 2)
  else if code = 0x20 then f == idx
  else true

/-- A channel of OUTS still switches (R218). -/
def channelSound (s : State) (m : Nat) : Bool :=
  let x := sqOf s m
  let mode := sqMode ((safSet s).sqOf m)
  (mode == 1 && !x.fail) || (mode == 2 && !x.fail && !(x.failH && x.failL))

/-- After the marks of its faults the function has a verified path (R218). -/
def verifiedPath (s : State) (f : Nat) : Bool :=
  let c := fnCfg s f
  c.inputs.all (fun n => !(sinOf s n).failAll && !((sinOf s n).failA && (sinOf s n).failB)) &&
    (c.type != 3 || !(sqOf s c.lout).fail) && c.outList.any (channelSound s)

/-! ### Causes absent (R221) -/

/-- The channels of an input have each passed two pulses of their own source. -/
def twoPulses (x : SinS) : Bool := decide (2 ≤ x.okA) && decide (2 ≤ x.okB)

/-- No mark of an input stands. -/
def inputSound (s : State) (n : Nat) : Bool :=
  let x := sinOf s n
  let w := (safSet s).sinOf n
  (!x.failA || decide (2 ≤ x.okA)) && (!x.failB || decide (2 ≤ x.okB)) &&
    (!x.failAll || (!inDisagrees w x &&
      (if sinKind w = 2 then decide (x.agreeAt + msT (10 * sinDisc w) ≤ s.now) else twoPulses x)))

/-- A switch latched off has been off for 1 s. -/
def ovlOver (s : State) (x : SqS) (l : Nat) : Bool :=
  match Table.get none x.ovlAt l with
  | some t => decide (t + secT 1 ≤ s.now)
  | none => true

/-- One standing fault of a channel is absent: a feedback fault, QOVL, and QDARK or QLOW of its own switch. -/
def markSound (s : State) (x : SqS) (e : Nat × Nat) : Bool :=
  if e.2 ≤ 0x12 then x.edm && !x.appl
  else if e.2 = 0x15 then ovlOver s x e.1
  else decide (2 ≤ Table.get 0 x.okTests e.1)

/-- No standing fault of a channel is present. -/
def chanSound (s : State) (m : Nat) : Bool := (sqOf s m).marks.all (markSound s (sqOf s m))

/-- The channels of an input agree and have passed their pulses, or have agreed for DISC. -/
def inputProved (s : State) (n : Nat) : Bool :=
  let x := sinOf s n
  let w := (safSet s).sinOf n
  !inDisagrees w x && (if sinKind w = 2 then decide (x.agreeAt + msT (10 * sinDisc w) ≤ s.now) else twoPulses x)

/-- The switches of a channel in use: H and L in compatibility mode, H in the other modes (R204 to R206). -/
def switchesOf (s : State) (m : Nat) : List Nat := if sqMode ((safSet s).sqOf m) = 2 then [0, 1] else [0]

/-- The fault of a listed lockout is absent. The list holds its code, not where it was, so all that the code could name is
asked (R221, R222). DEDUCED, log 31. -/
def listedAbsent (s : State) (f : Nat) : Bool :=
  let c := fnCfg s f
  let code := (sfOf s f).fcode.toNat
  if !(sfOf s f).listed then true
  else if code ≤ 0x05 then c.inputs.all (inputProved s)
  else if code ≤ 0x12 then
    c.outList.all (fun m => sqMode ((safSet s).sqOf m) != 1 || ((sqOf s m).edm && !(sqOf s m).appl))
  else if code ≤ 0x15 then c.channels.all (fun m => (switchesOf s m).all (fun l => decide (2 ≤ Table.get 0 (sqOf s m).okTests l)))
  else true

/-- The cause of a function's lockout is absent: its own, every mark of what it uses, and the module faults that lock every
function while they last (R219, R221). -/
def causeAbsent (s : State) (f : Nat) : Bool :=
  let c := fnCfg s f
  c.inputs.all (inputSound s) && c.channels.all (chanSound s) && listedAbsent s f && !s.saf.tempBad && !s.saf.selfBad &&
    (match (sfOf s f).cause with
      | some (0x20, _) => !(demandOf s c.in1 && lockedOf s f)
      | some (0x30, _) => !s.saf.lastDiffer
      | _ => true)

/-- A disagreement that stands on an input is timed, and nothing else is: not one that a new set or a fault has ended (R202). -/
def startTiming (n : Nat) (s : State) : State :=
  let x := sinOf s n
  let w := (safSet s).sinOf n
  let timed := sinKind w != 0 && inDisagrees w x && !x.failA && !x.failB && !x.failAll
  putSin n { x with
    disAt := if timed then some (x.disAt.getD s.now) else none
    agreeAt := if x.disAt.isSome && !inDisagrees w x then s.now else x.agreeAt } s

/-- The marks of what a function uses are removed once acknowledged. -/
def clearMarks (f : Nat) (s : State) : State :=
  let c := fnCfg s f
  let s := foldS c.inputs (fun n t =>
    startTiming n (putSin n { sinOf t n with failA := false, failB := false, failAll := false, missA := 0, missB := 0 } t)) s
  foldS c.channels (fun m t =>
    putSq m { sqOf t m with fail := false, failH := false, failL := false, dark := [], ovlAt := [], marks := [], fbDone := true } t) s

/-! ### The outputs (R204 to R207, R215) -/

/-- The switch H or L of a channel is not latched off by QOVL. -/
def switchFree (x : SqS) (l : Nat) : Bool := (Table.get none x.ovlAt l).isNone

/-- A half's own evaluation permits the channel on (R197, R207, R215). -/
def sqCommand (s : State) (m : Nat) : Bool :=
  let mode := sqMode ((safSet s).sqOf m)
  let us := (usedFns s).filter (fun f => (fnCfg s f).outList.contains m)
  if mode = 1 ∨ mode = 2 then !us.isEmpty && us.all (fun f => (sfOf s f).st == .run)
  else if mode = 3 then
    (usedFns s).any (fun f => (fnCfg s f).type == 3 && (fnCfg s f).lout == m && (sfOf s f).st != .init &&
      ((sfOf s f).lockOut != (fnCfg s f).ptl))
  else false

/-- One channel follows its command, which both halves must give (R197); a native one is switched on only with its EDM
released, and FBPRE is raised once for each switch-on refused (R204). -/
def driveSq (m : Nat) (s : State) : State :=
  let x := sqOf s m
  let mode := sqMode ((safSet s).sqOf m)
  let cmd := sqCommand s m && sqCommand (swapHalves s) m && pairRuns s
  let blocked := mode == 1 && cmd && !x.appl && !x.edm
  let appl := cmd && !blocked && switchFree x 0 && (mode != 2 || switchFree x 1)
  let x' := { x with
    cmd := cmd, appl := appl
    onAt := if appl && !x.appl then s.now else x.onAt
    offAt := if x.appl && !appl then s.now else x.offAt
    fbDone := if x.appl && !appl then false else x.fbDone
    rbLow := if appl && !x.appl then [] else x.rbLow
    pre := blocked }
  let s := putSq m x' s
  if blocked && !x.pre then raiseFault 0x12 m s.now s else s

/-- A function's OUTON and lock timing follow its channels; `old`: as they stood before. -/
def followFn (old : State) (f : Nat) (u : State) : State :=
  let off (t : State) : Bool := (fnCfg t f).outList.all (fun m => !(sqOf t m).appl)
  let x := sfOf u f
  putSf f { x with
    outon := (fnCfg u f).outs != 0 && (fnCfg u f).outList.all (fun m => (sqOf u m).appl)
    offSince := if off u && !off old then u.now else x.offSince } u

/-- The channels follow their commands, and each function follows its channels. -/
def driveOutputs (s : State) : State :=
  onBoth (fun u => foldS (usedFns u) (followFn s) u) (foldS (List.range 4) driveSq s)

/-! ### Status words (R224) -/

def sfstat (s : State) (f : Nat) : Word :=
  let x := sfOf s f
  BitVec.ofNat 32 (x.st.code + b2n x.outon * 2 ^ 16 + b2n x.demand * 2 ^ 17 + b2n x.mslDem * 2 ^ 18 +
    b2n x.unlock * 2 ^ 19 + b2n x.locked * 2 ^ 20 + b2n x.ackreq * 2 ^ 21 + b2n x.si * 2 ^ 22 +
    b2n x.siexp * 2 ^ 23 + x.fcode.toNat * 2 ^ 24)

def sftime (s : State) (f : Nat) : Word :=
  let x := sfOf s f
  if x.si then BitVec.ofNat 32 ((x.siEnd - s.now) / 25_000) else 0

def sinstat (s : State) (n : Nat) : Word :=
  let x := sinOf s n
  BitVec.ofNat 32 (b2n x.a + b2n x.b * 2 + b2n (demandOf s n) * 4 + b2n x.failA * 8 + b2n x.failB * 16 +
    b2n x.disAt.isSome * 32 + x.fcode.toNat * 2 ^ 24)

/-- The switch conducts: its readback follows (log entry 15). -/
def conducts (s : State) (m l : Nat) : Bool :=
  let x := sqOf s m
  let mode := sqMode ((safSet s).sqOf m)
  if l = 0 then x.appl else x.appl && mode == 2

def sqstat (s : State) (m : Nat) : Word :=
  let x := sqOf s m
  let rb (l : Nat) : Bool := conducts s m l && !Table.get false x.rbLow l
  BitVec.ofNat 32 (b2n x.cmd + b2n x.appl * 2 + b2n (rb 0) * 4 + b2n (rb 1) * 8 +
    b2n x.edm * 16 + b2n x.fail * 32 + b2n x.failH * 64 + b2n x.failL * 128 + x.fcode.toNat * 2 ^ 24)

def spair (s : State) : Word :=
  BitVec.ofNat 32 (b2n s.saf.ha + b2n s.saf.hb * 2 + b2n s.saf.inForce.isSome * 4 + b2n s.saf.diag * 8 +
    s.saf.mfcode.toNat * 2 ^ 8 + s.saf.cmpcnt.toNat * 2 ^ 16)

/-- The status word at offset `i` of P 0x0140 as the pair stands. -/
def safNow (s : State) (i : Nat) : Word :=
  if i < 8 then sfstat s i
  else if i < 16 then sftime s (i - 8)
  else if i < 24 then sinstat s (i - 16)
  else if i < 28 then sqstat s (i - 24)
  else if i = 28 then spair s
  else if i = 29 then (match s.saf.inForce with
    | some c => c.crc
    | none => 0)
  else if i = 30 then BitVec.ofNat 32 (s.saf.stand.toNat * 2 ^ 16 + s.saf.faults.toNat)
  else 0

/-- The status words as a cycle latches them, and as the SAFSTAT burst sends them. -/
def latchStatus (s : State) : State :=
  { s with saf := { s.saf with latW := (List.range 31).foldl (fun t i => Table.set 0 t i (safNow s i)) [] } }
def safWord (s : State) (i : Nat) : Word := Table.get 0 s.saf.latW i

/-! ### Rows between cycles -/

/-- The filtered level of a channel in the half that filtered it (R202). -/
def filterIn (n : Nat) (chB lvl : Bool) (s : State) : State :=
  let x := sinOf s n
  let w := (safSet s).sinOf n
  let y := if chB then { x with b := lvl } else { x with a := lvl }
  let dis := inDisagrees w y
  putSin n { y with
    disAt := if dis && !x.failA && !x.failB && !x.failAll then (if x.disAt.isSome then x.disAt else some s.now) else none
    agreeAt := if !dis && inDisagrees w x then s.now else x.agreeAt } s

/-- Samples of the filter's window that a pulse of the channel's own source masks (R201, R202): those within its 100
microseconds. -/
def maskedSamples (s : State) (x : HalfChannel) : Nat :=
  let w := (safSet s).sinOf x.input
  if sinKind w != 1 then 0
  else match Table.get none s.saf.pulseAt (if x.chB then sinTsb w else sinTsa w) with
    | none => 0
    | some t => (min s.now (t + usT 100) - max t (s.now - usT (100 * sinFilt w))) / usT 50

/-- SAFETY_FILTER_CHANGE: in one half's samples of a channel, taken every 50 microseconds, the last `samples` outside masked
pulses show the level: it is the filtered one once they and the masked ones fill SFILT (R196, R201, R202). DESIGN CHOICE,
log 62. -/
def execSafetyFilterChange (x : HalfChannel) (lvl : Bool) (samples : Nat) (s : State) : Host.Outcome State Fault Refusal :=
  whenUpAnd s (pairRuns s && decide (2 * sinFilt ((safSet s).sinOf x.input) ≤ samples + maskedSamples s x)) fun s =>
    if x.halfB then onB (filterIn x.input x.chB lvl) s else filterIn x.input x.chB lvl s

/-- The bit of a source. -/
def srcBit (j : Nat) : BitVec 4 := BitVec.ofNat 4 (2 ^ j)

/-- A source holds 24 V: both halves enable it, and it is in no pulse of 100 microseconds (R197, R201). -/
def sourceHigh (s : State) (j : Nat) : Bool :=
  pairRuns s && (match Table.get none s.saf.pulseAt j with
    | some t => decide (t + usT 100 ≤ s.now)
    | none => true)

/-- TEST_PULSE: source `j` goes low for 100 microseconds, 1.25 j ms after the start of the frame (R201). -/
def execTestPulse (j : Nat) (s : State) : Host.Outcome State Fault Refusal :=
  whenUpAnd s (pairRuns s && framePos s == 31_250 * j) fun s =>
    { s with saf := { s.saf with
      pulseAt := Table.set none s.saf.pulseAt j (some s.now), pulseSeen := s.saf.pulseSeen &&& ~~~srcBit j } }

/-- One channel at the pulse of source `j` that began at `t0` (R201). `fell`: it went low within 60 microseconds and came
back. -/
def pulseChannel (j t0 n : Nat) (chB fell : Bool) (s : State) : State :=
  let w := (safSet s).sinOf n
  let x := sinOf s n
  let high := if chB then x.b else x.a
  let own := (if chB then sinTsb w else sinTsa w) == j
  if sinKind w != 1 || !high then s
  else if !own then (if fell && !x.failAll then raiseFault 0x04 n (t0 + usT 60) s else s)
  else if chB then
    if fell then putSin n { x with missB := 0, okB := min (x.okB + 1) 2 } s
    else if x.missB + 1 = 2 && !x.failB then raiseFault 0x03 n (t0 + usT 60) (putSin n { x with missB := 2, okB := 0 } s)
    else putSin n { x with missB := min (x.missB + 1) 2, okB := 0 } s
  else
    if fell then putSin n { x with missA := 0, okA := min (x.okA + 1) 2 } s
    else if x.missA + 1 = 2 && !x.failA then raiseFault 0x02 n (t0 + usT 60) (putSin n { x with missA := 2, okA := 0 } s)
    else putSin n { x with missA := min (x.missA + 1) 2, okA := 0 } s

/-- The channels at a pulse. -/
def pulseChannels (j t0 : Nat) (low : BitVec 16) (s : State) : State :=
  foldS (List.range 8) (fun n t =>
    pulseChannel j t0 n true (low.getLsbD (2 * n + 1)) (pulseChannel j t0 n false (low.getLsbD (2 * n)) t)) s

/-- The readback of a source at its pulse: a fault is raised when it begins (R201). -/
def sourceCheck (j t0 : Nat) (rb : Bool) (s : State) : State :=
  if rb then { s with saf := { s.saf with srcBad := s.saf.srcBad &&& ~~~srcBit j } }
  else if s.saf.srcBad &&& srcBit j != 0 then s
  else raiseFault 0x05 j (t0 + usT 20) { s with saf := { s.saf with srcBad := s.saf.srcBad ||| srcBit j } }

/-- TEST_PULSE_CHECK: the channels and the readback, 60 microseconds into a pulse of source `j` or later, once for each pulse,
which goes on to its end (R201, R217). Bit
2 n + c of `low` is channel c of input n; `rb`: the readback follows the commanded level within 20 microseconds. -/
def execTestPulseCheck (j : Nat) (low : BitVec 16) (rb : Bool) (s : State) : Host.Outcome State Fault Refusal :=
  let p := Table.get none s.saf.pulseAt j
  let t0 := p.getD 0
  whenUpAnd s (pairRuns s && p.isSome && s.saf.pulseSeen &&& srcBit j == 0 && decide (t0 + usT 60 ≤ s.now)) fun s =>
    let s := sourceCheck j t0 rb { s with saf := { s.saf with pulseSeen := s.saf.pulseSeen ||| srcBit j } }
    onB (pulseChannels j t0 low) (pulseChannels j t0 low s)

/-- DISC_TIMEOUT: a disagreement has lasted DISC (R202). -/
def execDiscTimeout (n : Nat) (s : State) : Host.Outcome State Fault Refusal :=
  let x := sinOf s n
  let w := (safSet s).sinOf n
  let end_ := match x.disAt with
    | some t => t + msT (10 * sinDisc w)
    | none => 0
  whenUpAnd s (pairRuns s && sinKind w != 0 && x.disAt.isSome && inDisagrees w x && decide (end_ ≤ s.now) && !x.failA && !x.failB &&
      !x.failAll) fun s =>
    raiseFault 0x01 n end_ s

/-- FEEDBACK_TIMEOUT: the mirror contact of a native channel has not followed within FBTIME (R204). -/
def execFeedbackTimeout (m : Nat) (s : State) : Host.Outcome State Fault Refusal :=
  let x := sqOf s m
  let w := (safSet s).sqOf m
  let fb := msT (sqFbtime w)
  whenUpAnd s (pairRuns s && sqMode w == 1) fun s =>
    if x.appl then
      if x.edm && decide (max x.onAt x.edmSince + fb ≤ s.now) && !(x.fail && x.marks.contains (0, 0x11)) then raiseFault 0x11 m s.now s
      else s
    else if !x.fbDone && !x.edm && decide (x.offAt + fb ≤ s.now) then
      raiseFault 0x10 m s.now (putSq m { x with fbDone := true } s)
    else s

/-- The place of a switch's off-pulse in the second: 250 m + 4.5 ms for SQmH, 250 m + 129.5 ms for SQmL (R206). -/
def offPlace (q : Nat) : Nat := msT 250 * (q / 2) + (if q % 2 = 0 then 112_500 else 3_237_500)

/-- The check of an off-pulse: 250 microseconds into it, once in a second. -/
def offCheckNow (s : State) (q : Nat) : Bool :=
  decide (offPlace q + usT 250 ≤ secondPos s) && decide (secondPos s < offPlace q + usT 300) &&
    decide (Table.get 0 s.saf.nextOff q ≤ s.saf.cycle)

/-- The off-pulse at this place has been judged. -/
def pulsedOff (q : Nat) (s : State) : State :=
  { s with saf := { s.saf with nextOff := Table.set 0 s.saf.nextOff q (s.saf.cycle + 1) } }

/-- The off-test of a switch that is off comes again in a second. -/
def testedOff (q : Nat) (s : State) : State :=
  { s with saf := { s.saf with nextTest := Table.set 0 s.saf.nextTest q (s.saf.cycle + 2_000) } }

/-- SWITCH_OFF_PULSE: the off-pulse of a conducting switch, 2 m for SQmH and 2 m + 1 for SQmL, is judged (R206). DEDUCED,
log 15. -/
def execSwitchOffPulse (q : Nat) (fell : Bool) (s : State) : Host.Outcome State Fault Refusal :=
  whenUpAnd s (pairRuns s && conducts s (q / 2) (q % 2) && offCheckNow s q) fun s =>
    let m := q / 2
    let l := q % 2
    let x := sqOf s m
    let s := pulsedOff q s
    if fell then
      putSq m { x with dark := Table.set 0 x.dark l 0, rbLow := Table.set false x.rbLow l false, okTests := Table.upd 0 x.okTests l (fun n => min (n + 1) 2) } s
    else
      let x := { x with okTests := Table.set 0 x.okTests l 0, dark := Table.upd 0 x.dark l (fun n => min (n + 1) 2) }
      let s := putSq m x s
      if Table.get 0 x.dark l = 2 && !x.marks.contains (l, 0x13) then raiseFault 0x13 q s.now s
      else s

/-- SWITCH_QLOW: commanded on and read low for 2 ms (R206). -/
def execSwitchQlow (q : Nat) (s : State) : Host.Outcome State Fault Refusal :=
  let x := sqOf s (q / 2)
  whenUpAnd s (pairRuns s && conducts s (q / 2) (q % 2) && !Table.get false x.rbLow (q % 2)) fun s =>
    raiseFault 0x14 q s.now (putSq (q / 2) { x with rbLow := Table.set false x.rbLow (q % 2) true } s)

/-- SWITCH_QOVL: 5 ms in current limit, or thermal shutdown: the switch is turned off (R206). -/
def execSwitchQovl (q : Nat) (s : State) : Host.Outcome State Fault Refusal :=
  whenUpAnd s (pairRuns s && conducts s (q / 2) (q % 2)) fun s =>
    let x := sqOf s (q / 2)
    driveOutputs (raiseFault 0x15 q s.now
      (putSq (q / 2) { x with ovlAt := Table.set none x.ovlAt (q % 2) (some s.now) } s))

/-- A function that the retained list holds in LOCKOUT with QDARK or QLOW uses the switch: which one failed the list does not
say (R221, R222). -/
def listedSwitch (s : State) (q : Nat) : Bool :=
  (usedFns s).any (fun f => (sfOf s f).listed && ((sfOf s f).fcode == 0x13 || (sfOf s f).fcode == 0x14) &&
    (fnCfg s f).channels.contains (q / 2) && (switchesOf s (q / 2)).contains (q % 2))

/-- LOCKOUT_OFF_TEST: an off-test of a failed switch that is off, in every second (R221). DEDUCED, log 15. -/
def execLockoutOffTest (q : Nat) (pass : Bool) (s : State) : Host.Outcome State Fault Refusal :=
  let x := sqOf s (q / 2)
  whenUpAnd s (pairRuns s && !conducts s (q / 2) (q % 2) && (x.fail || x.failH || x.failL || listedSwitch s q) &&
      decide (Table.get 0 s.saf.nextTest q ≤ s.saf.cycle)) fun s =>
    let s := testedOff q s
    putSq (q / 2) { x with okTests :=
      if pass then Table.upd 0 x.okTests (q % 2) (fun n => min (n + 1) 2) else Table.set 0 x.okTests (q % 2) 0 } s

/-- SUPPLY_FAULT: every function in SAFE, ARMED or RUN goes to SAFE with its channels off (R219); one that has already made its
transition of this cycle goes in the next (R213). -/
def execSupplyFault (s : State) : Host.Outcome State Fault Refusal :=
  whenUpAnd s (pairRuns s && !s.saf.supplyBad) fun s =>
    let s := markFault 0x32 0 { s with saf := { s.saf with supplyBad := true, faults := s.saf.faults + 1 } }
    driveOutputs (onBoth (foldS (usedFns s) (fun f t =>
      if ((sfOf t f).st == .armed || (sfOf t f).st == .run) && !(sfOf t f).moved then goState f .safe 0 t else t)) s)

/-- SUPPLY_RECOVERED: back in range for 100 ms (R219). -/
def execSupplyRecovered (s : State) : Host.Outcome State Fault Refusal :=
  whenUp s fun s => { s with saf := { s.saf with supplyBad := false } }

/-- TEMP_FAULT: the field die is above 135 degrees: a module fault, by which the evaluation of this cycle puts every function
in LOCKOUT (R213, R217, R219). -/
def execTempFault (s : State) : Host.Outcome State Fault Refusal :=
  whenUpAnd s (pairRuns s && !s.saf.tempBad) fun s =>
    raiseFault 0x34 0 s.now { s with saf := { s.saf with tempBad := true } }

/-- STANDIN_EXPIRY: the stand-in limit (R220). -/
def execStandinExpiry (f : Nat) (s : State) : Host.Outcome State Fault Refusal :=
  let x := sfOf s f
  whenUpAnd s (pairRuns s && x.si && decide (x.siEnd ≤ s.now)) fun s =>
    driveOutputs (onBoth (fun t => lockFn f (sfOf t f).fcode.toNat (sfOf t f).cause true t) s)

/-- LOCK_RELEASE: every channel has been off for LOCKDLY, and every native one is released (R215). -/
def execLockRelease (f : Nat) (s : State) : Host.Outcome State Fault Refusal :=
  let x := sfOf s f
  let c := fnCfg s f
  let off := c.outList.all (fun m => !(sqOf s m).appl && decide ((sqOf s m).offAt + secT c.lockdly ≤ s.now) &&
    (sqMode ((safSet s).sqOf m) != 1 || (sqOf s m).edm))
  whenUpAnd s (pairRuns s && c.type == 3 && x.reqU && off && decide (x.offSince + secT c.lockdly ≤ s.now) &&
      x.st != .init) fun s =>
    driveOutputs (onBoth (fun t => putSf f { sfOf t f with lockOut := true, unlock := true } t) s)

/-- TWO_HAND_TIMEOUT: the window of R216 ends without the second button. A fault of the same cycle is judged first (R213). -/
def execTwoHandTimeout (f : Nat) (s : State) : Host.Outcome State Fault Refusal :=
  let x := sfOf s f
  let due := match x.t1 with
    | some t => decide (t + msT 500 ≤ s.now)
    | none => false
  whenUpAnd s (pairRuns s && x.st == .armed && !x.moved && due && !s.saf.pendF.any (faultActs s f)) fun s =>
    onBoth (goState f .safe 0) s

/-- SAFREQ_LAPSE: no SAFREQ for 200 ms: every request bit is 0 and a request in progress is abandoned (R212). -/
def execSafreqLapse (s : State) : Host.Outcome State Fault Refusal :=
  whenUpAnd s (pairRuns s && decide (s.saf.lastSafreq + msT 200 ≤ s.now)) fun s =>
    let s := { s with saf := { s.saf with safreqLost := true } }
    onBoth (foldS (List.range 8) (fun f t =>
      let x := sfOf t f
      putSf f { x with reqR := ⟨false, t.now⟩, reqA := ⟨false, t.now⟩, reqU := false } t)) s

/-- A request bit takes a level: a fall after [100 ms, 5,000 ms) is a request (R212). -/
def ReqS.next (r : ReqS) (lvl : Bool) (now : Nat) : ReqS × Bool :=
  if lvl == r.lvl then (r, false)
  else (⟨lvl, now⟩, r.lvl && decide (r.since + msT 100 ≤ now) && decide (now < r.since + msT 5000))

/-- The source of a request of a function, its bit 0 RESET or 1 ACK (R221). -/
def reqSource (s : State) (f bit : Nat) : Nat := if s.saf.reqSrc.getLsbD (3 * f + bit) then 2 else 1

/-- A request held too short or too long is ignored, which is an event (R212, R225). -/
def ignoredHold (f bit : Nat) (r : ReqS) (lvl : Bool) (s : State) : State :=
  if r.lvl && !lvl && !(r.next lvl s.now).2 then stateEvent f (sfOf s f).st.code (sfOf s f).st.code (reqSource s f bit) s else s

/-- The bits of a SAFREQ reach the pair (R212). -/
def takeRequests (bits : BitVec 24) (s : State) : State :=
  let s := { s with saf := { s.saf with lastSafreq := s.now, safreqLost := false } }
  onBoth (foldS (List.range 8) (fun f t =>
    let x := sfOf t f
    let r := x.reqR.next (bits.getLsbD (3 * f)) t.now
    let a := x.reqA.next (bits.getLsbD (3 * f + 1)) t.now
    let t := ignoredHold f 0 x.reqR (bits.getLsbD (3 * f)) (ignoredHold f 1 x.reqA (bits.getLsbD (3 * f + 1)) t)
    putSf f { x with reqR := r.1, reqA := a.1, reqU := bits.getLsbD (3 * f + 2)
                     gotReset := x.gotReset || r.2, gotAck := x.gotAck || a.2 } t)) s

/-! ### Sets and starts (R199, R209, R211, R222, R250) -/

/-- A new committed set at its boundary: affected functions go to INIT (R211). -/
def commitSaf (bs : List Byte) (s : State) : State :=
  let new := parseSaf bs
  let old := safSet s
  let s := onBoth (foldS (List.range 8) (fun f t =>
    if sameFn old new f then t
    else
      let t := if (sfOf t f).st = .init then t else stateEvent f (sfOf t f).st.code 0 0 t
      putSf f { SfS.zero with offSince := t.now } t)) s
  driveOutputs { s with saf := { s.saf with committed := some bs } }

/-- A function may leave INIT: the set in force is the committed one as far as it is concerned. -/
def fnVerified (s : State) (f : Nat) : Bool :=
  match s.saf.inForce with
  | some c => sameFn c (parseSaf (safBytes s)) f
  | none => false

/-- A set has arrived at the pair: both halves verify it, or PARAM is raised (R209, R211, R219). -/
def receiveSaf (bs : List Byte) (s : State) : State :=
  if safSetOk bs then
    onBoth (foldS (List.range 8) startTiming) { s with saf := { s.saf with inForce := some (parseSaf bs) } }
  else markFault 0x31 0 { s with saf := { s.saf with faults := s.saf.faults + 1 } }

/-- The pair restarts (R199, R222): every function in INIT with its outputs off from now on, which is an event (R225), and no
set in force. -/
def pairRestart (s : State) : State :=
  let s := foldS (usedFns s) (fun f t =>
    if (sfOf t f).st = .init then t else stateEvent f (sfOf t f).st.code 0 0 t) s
  { s with saf := { s.saf with
    inForce := none, ins := [], sf := [], insB := [], sfB := []
    sq := (List.range 4).foldl (fun t m => Table.set SqS.zero t m { SqS.zero with offAt := s.now }) []
    pendF := [], lastDiffer := false, rowDiff := false, selfBad := false, mfcode := 0, cmpcnt := 0
    diag := false, ha := true, hb := true, supplyBad := false, tempBad := false, lastSafreq := s.now
    safreqLost := false, cycle := 0, cycAt := s.now, pulseAt := [], pulseSeen := 0, srcBad := 0, nextOff := [], nextTest := [], latW := [], agree := 0
    stand := 0, faults := 0 } }

/-- The native channels of the used functions whose EDM does not read released (R222), as faults. -/
def edmFound (s : State) : List (Nat × Nat) :=
  ((List.range 4).filter (fun m => sqMode ((safSet s).sqOf m) == 1 && !(sqOf s m).edm &&
    (usedFns s).any (fun f => (fnCfg s f).outList.contains m))).map (fun m => (0x12, m))

/-- What start diagnostics find of a function: a fault of `found`, one that acted on it in INIT or that waits for this cycle's
evaluation, or TEMP or SELF while it lasts (R219, R222). -/
def startFault (found : List (Nat × Nat)) (s : State) (f : Nat) : Option (Nat × Nat) :=
  let waiting := (s.saf.pendF.find? (faultActs s f)).map (fun e => (e.1, e.2.1))
  let module := if s.saf.tempBad then some (0x34, 0) else if s.saf.selfBad then some (0x33, 0) else none
  (found.find? (fun e => faultActs s f (e.1, e.2, s.now))).orElse fun _ =>
    (sfOf s f).initF.orElse fun _ => waiting.orElse fun _ => module

/-- What a function finds at the end of its start diagnostics (R213, R219, R222). The retained list adds a lockout, and what
the pair finds itself stays its cause. -/
def startFn (found : List (Nat × Nat)) (f : Nat) (s : State) : State :=
  if (sfOf s f).st = .init && fnVerified s f then
    match s.saf.lockList.find? (fun e => e.1 == f), startFault found s f with
    | some e, own =>
      let s := lockFn f e.2.1.toNat (some (own.getD (e.2.1.toNat, f))) e.2.2 s
      putSf f { sfOf s f with listed := true, initF := none } s
    | none, some e =>
      let s := lockFn f e.1 (some e) false s
      putSf f { sfOf s f with initF := none } s
    | none, none => goState f (if fnDemand s f || s.saf.supplyBad then .safe else .armed) 0 s
  else s

/-- The tests of start diagnostics that pass: two pulses on every closed contact channel, an off-test of every switch that
is off (R222). -/
def startPasses (s : State) : State :=
  let s := foldS (List.range 8) (fun n t =>
    let x := sinOf t n
    if sinKind ((safSet t).sinOf n) != 1 then t
    else putSin n { x with okA := if x.a && !x.failA then 2 else x.okA, okB := if x.b && !x.failB then 2 else x.okB } t) s
  foldS (List.range 4) (fun m t =>
    let x := sqOf t m
    if x.appl || x.fail || x.failH || x.failL then t
    else putSq m { x with okTests := [0, 1].foldl (fun k l => Table.upd 0 k l (fun n => min (n + 1) 2)) x.okTests } t) s

/-- START_DIAGNOSTICS: within 50 ms of a verified set (R222). `found`: the faults found, code and index. -/
def execStartDiagnostics (found : List (Nat × Nat)) (s : State) : Host.Outcome State Fault Refusal :=
  whenUpAnd s (pairRuns s && s.saf.inForce.isSome) fun s =>
    let found := found ++ (edmFound s).filter (fun e => !found.contains e)
    let s := foldS found (fun e t => countFault e.1 e.2 t) s
    let s := onBoth startPasses s
    driveOutputs (onBoth (foldS (usedFns s) (startFn found)) { s with saf := { s.saf with diag := true } })

/-! ### One safety cycle (R213 to R221) -/

/-- A stand-in begins (R220). -/
def beginStandin (f : Nat) (e : Nat × Nat × Nat) (s : State) : State :=
  let x := sfOf s f
  let n := (fnCfg s f).standin
  let s := putSf f { x with si := true, siEnd := e.2.2 + secT n, fcode := BitVec.ofNat 8 e.1, cause := some (e.1, e.2.1) } s
  let s := listLockout f (BitVec.ofNat 8 e.1) true { s with saf := { s.saf with stand := s.saf.stand + 1 } }
  fieldEvent ⟨0x21, 6, 0, fnView s f, 2, packD [(1, f), (1, e.1), (2, n)]⟩ s

/-- The faults of the cycle judged for a function: whether it went to LOCKOUT (R213, R219). In INIT only a fault of the
module does that; another waits for the end of the start diagnostics (R222). DEDUCED, log 31. -/
def judgeFaults (f : Nat) (fs : List (Nat × Nat × Nat)) (s : State) : Bool × State :=
  let x := sfOf s f
  match fs.filter (faultActs s f) with
  | [] => (false, s)
  | e :: es =>
    let bad := (e :: es).find? (fun d => d.1 == 0x01 || d.1 == 0x04 || d.1 == 0x20 || isModuleFault d.1)
    if x.st = .lockout then (false, s)
    else if x.st = .init && !(e :: es).any (fun d => isModuleFault d.1) then
      (false, putSf f { x with initF := some (x.initF.getD (e.1, e.2.1)) } s)
    else if (verifiedPath s f && bad.isNone) && (0 < (fnCfg s f).standin && !x.si) then (false, beginStandin f e s)
    else
      let d := bad.getD e
      (true, lockFn f d.1 (some (d.1, d.2.1)) false s)

/-- The two-hand rules in ARMED (R216). An MSL demand, which R208 adds, keeps the function out of RUN (log entry
18). DEDUCED, log 18. -/
def twoHand (f : Nat) (s : State) : State :=
  let x := sfOf s f
  let c := fnCfg s f
  let a1 := !demandOf s c.in1
  let a2 := !demandOf s c.in2
  let both := a1 && a2 && !mslDemand s f
  match x.t1 with
  | none =>
    if both then goState f .run 0 s
    else if a1 || a2 then putSf f { x with t1 := some s.now, first1 := a1 } s
    else s
  | some t =>
    if t + msT 500 ≤ s.now then goState f .safe 0 s
    else if (if x.first1 then a1 else a2) then (if both then goState f .run 0 s else s)
    else goState f .safe 0 s

/-- Demands and their absence, then RESET, ACK and automatic reset, in a function that had no fault
transition in the cycle (R213 to R216, R219). -/
def judgeDemand (f : Nat) (s : State) : State :=
  let x := sfOf s f
  let c := fnCfg s f
  let d := fnDemand s f
  let two := c.type == 4
  match x.st with
  | .init => s
  | .safe =>
    if s.saf.supplyBad then s
    else if two then
      if inReleased ((safSet s).sinOf c.in1) (sinOf s c.in1) && inReleased ((safSet s).sinOf c.in2) (sinOf s c.in2) then
        goState f .armed 0 s
      else s
    else if d then s else goState f .armed 0 s
  | .armed =>
    if s.saf.supplyBad then goState f .safe 0 s
    else if two then twoHand f s
    else if d then goState f .safe 0 s
    else if x.gotReset then goState f .run (reqSource s f 0) s
    else if c.rstauto && !x.firstRun then goState f .run 0 s
    else s
  | .run => if d || s.saf.supplyBad then goState f .safe 0 s else s
  | .lockout =>
    if x.gotAck && causeAbsent s f then
      let s := clearMarks f s
      let s := putSf f { sfOf s f with siexp := false, fcode := 0, cause := none, listed := false } s
      let s := { s with saf := { s.saf with lockList := s.saf.lockList.filter (fun e => e.1 != f) } }
      goState f (if d || s.saf.supplyBad then .safe else .armed) (reqSource s f 1) s
    else s

/-- The end of a function's cycle: requests are not remembered, and the ignored ones are events (R212, R225). -/
def endFn (old : SfState) (f : Nat) (s : State) : State :=
  let x := sfOf s f
  let s := if x.gotReset && !(old == .armed && x.st == .run) then
    stateEvent f old.code x.st.code (reqSource s f 0) s else s
  let s := if x.gotAck && !(old == .lockout && x.st != .lockout) then
    stateEvent f old.code x.st.code (reqSource s f 1) s else s
  let x := sfOf s f
  let c := fnCfg s f
  let lockOut := if c.type == 3 && !x.reqU && !demandOf s c.in1 then false else x.lockOut
  putSf f { x with
    gotReset := false, gotAck := false, moved := false, demand := fnDemand s f, mslDem := mslDemand s f, locked := lockedOf s f
    lockOut := lockOut, unlock := c.type == 3 && (x.reqU || lockOut)
    ackreq := x.st == .lockout && causeAbsent s f } s

/-- One function in a cycle. One that has made its transition between the evaluations makes no other: its requests are not
remembered, and its faults wait for the next cycle (R213). DEDUCED, log 31: a fault is not forgotten. -/
def cycleFn (fs : List (Nat × Nat × Nat)) (f : Nat) (s : State) : State :=
  let x := sfOf s f
  if x.moved then endFn x.st f (putSf f { x with held := x.held ++ fs.filter (faultActs s f) } s)
  else
    let r := judgeFaults f (x.held ++ fs) (putSf f { x with held := [] } s)
    endFn x.st f (if r.1 then r.2 else judgeDemand f r.2)

/-- The mirror contacts as a cycle reads them. -/
def readEdm (edm : BitVec 4) (s : State) : State :=
  foldS (List.range 4) (fun m t =>
    let x := sqOf t m
    let e := edm.getLsbD m
    putSq m { x with edm := e, edmSince := if e == x.edm then x.edmSince else t.now
                     fbDone := x.fbDone || (!x.appl && e) } t) s

/-- Lock faults: the door demands while the monitor reports locked (R215). -/
def lockFaults (s : State) : State :=
  foldS (usedFns s) (fun f t =>
    let x := sfOf t f
    if lockedOf t f && demandOf t (fnCfg t f).in1 && x.st != .init && x.st != .lockout then raiseFault 0x20 f t.now t else t) s

/-- Two timers agree to within one cycle (R198). -/
def nearBy (a b : Nat) : Bool := decide (a ≤ b + cycleTicks) && decide (b ≤ a + cycleTicks)
def nearOpt : Option Nat → Option Nat → Bool
  | some a, some b => nearBy a b
  | none, none => true
  | _, _ => false

/-- The halves disagree: in a filtered input, the state of a function, the command to a switch, or a running timer by more
than a cycle (R198). -/
def halvesDiffer (s : State) : Bool :=
  let o := swapHalves s
  (List.range 8).any (fun n =>
    let x := sinOf s n
    let y := sinOf o n
    x.a != y.a || x.b != y.b || !nearOpt x.disAt y.disAt) ||
  (List.range 8).any (fun f =>
    let x := sfOf s f
    let y := sfOf o f
    x.st != y.st || x.si != y.si || (x.si && !nearBy x.siEnd y.siEnd) || !nearOpt x.t1 y.t1 || !nearBy x.offSince y.offSince) ||
  (List.range 4).any (fun m => sqCommand s m != sqCommand o m)

/-- Half B's clock, counted over one of its cycles in ticks of half A's, is within 2 % (R196). -/
def clockOk (clkB : Nat) : Bool := decide (12_250 ≤ clkB) && decide (clkB ≤ 12_750)

/-- Each half evaluates every function on the faults `fs`, and the channels follow. -/
def evalFns (fs : List (Nat × Nat × Nat)) (s : State) : State :=
  driveOutputs (onBoth (foldS (usedFns s) (cycleFn fs)) s)

/-- The module faults that a cycle finds: a second disagreement in a row (CMP), and a check of a half that begins to fail
(SELF) (R196, R198, R217). -/
def cycleFaults (differ self : Bool) (s : State) : List (Nat × Nat × Nat) :=
  (if differ && s.saf.lastDiffer then [(0x30, 0, s.now)] else []) ++ (if self && !s.saf.selfBad then [(0x33, 0, s.now)] else [])

/-- The evaluation of a safety cycle. `differ`: the halves' copies differ beyond what State holds of them; `self`: a check
of a half fails. The comparison is of what the halves have evaluated; where it makes a module fault, that fault is the
functions' event of the cycle. DEDUCED, log 18. DESIGN CHOICE, log 62. -/
def evalCycle (edm : BitVec 4) (differ self : Bool) (s : State) : State :=
  let s := { s with saf := { s.saf with cycle := s.saf.cycle + 1, cycAt := s.now } }
  let s := lockFaults (readEdm edm (onBoth (foldS (List.range 8) startTiming) s))
  let fs := s.saf.pendF
  let s := { s with saf := { s.saf with pendF := [] } }
  let t := evalFns fs s
  let d := differ || s.saf.rowDiff || halvesDiffer t
  let ms := cycleFaults d self s
  let t := if ms.isEmpty then t
    else evalFns (ms ++ fs) (foldS ms (fun e u => markFault e.1 0 { u with saf := { u.saf with faults := u.saf.faults + 1 } }) s)
  latchStatus { t with saf := { t.saf with
    lastDiffer := d, rowDiff := false, selfBad := self, agree := if d then 0 else t.saf.agree + 1
    cmpcnt := if d && !s.saf.lastDiffer then t.saf.cmpcnt + 1 else t.saf.cmpcnt } }

end Sys2Proof.Machine
end

