-- ==== Sys2Proof/Machine/Msl.lean ====
section
/-! DEFINITION. The Mbaesk Safety Layer at the safety pair (09_safety_layer.md): telegrams, consumer and
producer slots, and the safety cycle that closes with them. -/

namespace Sys2Proof.Machine
open Sys2Proof

/-! ### The parameter set (R228, R229) -/

/-- An entry at an offset. -/
def readMslEnt (bs : List Byte) (off : Nat) : MslEnt :=
  { connid := wordAt bs off, texp := getLE bs (off + 4) 2, net := getLE bs (off + 6) 1, len := getLE bs (off + 7) 1
    pbit := getLE bs (off + 8) 1, addr := wordAt bs (off + 12) }

def parseMsl (bs : List Byte) : MslSet :=
  { parid := wordAt bs 0, ents := (List.range 32).map (fun i => readMslEnt bs (8 + 16 * i)), crc := wordAt bs 0x208 }

/-- The factory set: every slot unused, PARID 0 (log entry 8). -/
def mslFactory : List Byte := withCrc (bytesLE 4 0 ++ bytesLE 4 0x0100 ++ List.replicate 512 0)

def mslSetOk (bs : List Byte) : Bool :=
  bs.length == 524 && getLE bs 4 2 == 0x0100 && getLE bs 6 2 == 0 && wordAt bs 0x208 == crc32 (bs.take 0x208)

def mslBytes (s : State) : List Byte := s.msl.committed.getD mslFactory

/-- Both parameter sets are verified (R236, R250). -/
def setsVerified (s : State) : Bool := s.saf.inForce.isSome && s.msl.inForce.isSome

/-- The slot is used; slots 0 to 15 consume, 16 to 31 produce (R227). -/
def slotUsed (s : State) (slot : Nat) : Bool := (mslEnt s slot).connid != 0

/-- The committed entry of a slot: what the core goes by, whatever the pair has verified (R228, R245). -/
def mslCfg (s : State) (slot : Nat) : MslEnt := (parseMsl (mslBytes s)).ents.getD slot MslEnt.none
def mslUsed (s : State) (slot : Nat) : Bool := (mslCfg s slot).connid != 0

def isConsumer (slot : Nat) : Bool := slot < 16

/-- CLOSED or LISTEN, or UNUSED: how a slot begins (R250). -/
def slotStart (used : Bool) : MslSlot := { MslSlot.zero with st := if used then .idle else .unused }

/-- Entry to and exit from HALT (R239). -/
def haltEvent (slot : Nat) (entry : Bool) (s : State) : State :=
  fieldEvent ⟨0x30, 6, 0, viewOf 0, 2, packD [(1, slot), (1, b2n entry)]⟩ s

/-- A slot begins again; where that takes it out of HALT, the exit is recorded (R239). -/
def beginSlot (used : Bool) (slot : Nat) (s : State) : State :=
  putMsl slot (slotStart used) (if (mslOf s slot).st = .halt then haltEvent slot false s else s)

/-- A set has arrived at the pair (R228, R250): each slot whose entry changed begins again. Where the pair rejects it, every
slot of the committed set stands in its idle state. -/
def receiveMsl (bs : List Byte) (s : State) : State :=
  if mslSetOk bs then
    let new := parseMsl bs
    let s := foldS (List.range 32) (fun i t =>
      if mslEnt t i == new.ents.getD i MslEnt.none && t.msl.inForce.isSome then t
      else beginSlot ((new.ents.getD i MslEnt.none).connid != 0) i t) s
    { s with msl := { s.msl with inForce := some new } }
  else
    let s := markFault 0x31 0 { s with saf := { s.saf with faults := s.saf.faults + 1 } }
    let s := foldS (List.range 32) (fun i t => beginSlot (mslUsed t i) i t) s
    { s with msl := { s.msl with inForce := none } }

/-- The pair restarts: every slot begins in CLOSED or LISTEN (R250). -/
def mslRestart (s : State) : State :=
  let s := foldS (List.range 32) (fun i t => beginSlot true i t) s
  { s with msl := { s.msl with
    inForce := none
    toPair := [], fromPair := [], rxPair := [], rxCore := [], inbox := [] } }

/-- A new committed set at its boundary: each slot whose entry changes begins again (R250). -/
def commitMsl (bs : List Byte) (s : State) : State :=
  let old := s
  foldS (List.range 32) (fun i t =>
    if mslCfg old i == mslCfg t i then t else beginSlot (mslUsed old i || mslUsed t i) i t)
    { s with msl := { s.msl with committed := some bs } }

/-- The pair works with the committed entry of a slot: a new set has reached it as far as the slot is concerned. -/
def slotVerified (s : State) (slot : Nat) : Bool :=
  setsVerified s && mslEnt s slot == mslCfg s slot

/-! ### Telegrams (R231 to R233) -/

/-- The implicit block (R233). -/
def implicitBlock (e : MslEnt) (seqHi : Nat) : List Byte :=
  bytesLE 4 e.connid.toNat ++ bytesLE 2 seqHi ++ bytesLE 1 e.len ++ [0x4D]

/-- A telegram of a slot. -/
def telegram (e : MslEnt) (kind : Nat) (pasv : Bool) (seq : Word) (echo : Half) (data : List Byte) : List Byte :=
  let head := bytesLE 1 (kind + b2n pasv * 16) ++ bytesLE 1 data.length ++ bytesLE 4 e.connid.toNat ++
    bytesLE 2 (seq.toNat % 65536) ++ bytesLE 2 echo.toNat ++ bytesLE 2 e.texp ++ data
  head ++ bytesLE 4 (crc32c (implicitBlock e (seq.toNat / 65536) ++ head)).toNat

/-- The fields of a received telegram. -/
def tgKind (tg : List Byte) : Nat := getLE tg 0 1 % 16
def tgPasv (tg : List Byte) : Bool := natBit (getLE tg 0 1) 4
def tgLen (tg : List Byte) : Nat := getLE tg 1 1
def tgSeq (tg : List Byte) : Half := BitVec.ofNat 16 (getLE tg 6 2)
def tgEcho (tg : List Byte) : Half := BitVec.ofNat 16 (getLE tg 8 2)
def tgTexp (tg : List Byte) : Nat := getLE tg 10 2
def tgData (tg : List Byte) : List Byte := (tg.drop 12).take (tgLen tg)
def tgStart (tg : List Byte) : Word := wordAt tg 12

/-- The telegram is whole, of the kind, and its CRC agrees with the high half of the sequence number. -/
def tgGood (e : MslEnt) (kind : Nat) (seqHi : Nat) (tg : List Byte) : Bool :=
  tg.length == 16 + tgLen tg && getLE tg 0 1 / 32 == 0 && tgKind tg == kind &&
    wordAt tg (12 + tgLen tg) == crc32c (implicitBlock e seqHi ++ tg.take (12 + tgLen tg))

/-- What a telegram in sequence is (R235). -/
inductive SeqRes where
  | good (s : Word)
  | repeated
  | failure
  deriving DecidableEq, Repr

/-- The sequence number reconstructed: the one value in (last, last + 64] with the low half received. Behind
the last accepted one it is a repetition, further ahead there is none (log entry 16). -/
def seqOf (last : Word) (seq : Half) : SeqRes :=
  let d := (seq - last.setWidth 16).toNat
  if 1 ≤ d ∧ d ≤ 64 then .good (last + BitVec.ofNat 32 d)
  else if d = 0 ∨ 32768 < d then .repeated
  else .failure

/-- A telegram that follows in a slot's sequence. DEDUCED, log 16. -/
def judgeSeq (e : MslEnt) (kind : Nat) (last : Word) (tg : List Byte) : SeqRes :=
  match seqOf last (tgSeq tg) with
  | .good s => if tgLen tg == e.len && tgGood e kind (s.toNat / 65536) tg then .good s else .failure
  | r => r

/-- The state codes (R236, R237). -/
def MslSt.code : MslSt → Nat
  | .unused => 0
  | .idle => 1
  | .opening => 2
  | .run => 3
  | .halt => 4

/-- The status word of a slot (R249). -/
def mslStatus (s : State) (slot : Nat) : Word :=
  let x := mslOf s slot
  BitVec.ofNat 32 (x.st.code + b2n x.rxPasv * 8 + b2n (isConsumer slot && !mslStop s slot) * 16 +
    x.tocnt.toNat * 2 ^ 8 + x.crccnt.toNat * 2 ^ 16 + x.err * 2 ^ 24)

/-- A CRC failure; the second within 1 h halts the slot (R239). DEDUCED, log 16. -/
def crcFailure (slot : Nat) (s : State) : State :=
  let x := mslOf s slot
  let second := match x.crcAt with
    | some t => decide (s.now < t + secT 3600)
    | none => false
  let y := { x with crccnt := x.crccnt + 1, err := if second then 5 else 1, crcAt := some s.now }
  if second then haltEvent slot true (putMsl slot { y with st := .halt, chkDue := false, dataDue := false } s)
  else putMsl slot y s

/-- A repetition is discarded and counted (R235). DEDUCED, log 16. -/
def repetition (slot : Nat) (s : State) : State :=
  let x := mslOf s slot
  putMsl slot { x with err := 2, reps := x.reps + 1 } s

/-- A telegram leaves for the barrier. -/
def sendTg (slot : Nat) (tg : List Byte) (s : State) : State :=
  { s with msl := { s.msl with
    fromPair := Table.set [] s.msl.fromPair slot tg, rxCore := Table.set [] s.msl.rxCore slot [] } }

/-- A start value: any but 0 (R232), by free choice. -/
def startValue (s : State) : Word × State :=
  let r := drawIn 1 (2 ^ 32 - 1) s
  (BitVec.ofNat 32 r.1, r.2)

/-! ### The consumer (R236, R238) -/

/-- The halves formed or judged a telegram differently: nothing is sent or accepted, and the cycle counts a disagreement
(R234). DESIGN CHOICE, log 62. -/
def halvesPart (s : State) : State := { s with saf := { s.saf with rowDiff := true } }

/-- A consumer enters OPENING with a new C0 and sends its OPEN, unless the halves' copies differ. -/
def openSlot (slot : Nat) (differ : Bool) (s : State) : State :=
  let r := startValue s
  let s := r.2
  let x := mslOf s slot
  let e := mslEnt s slot
  let s := putMsl slot { x with
    st := .opening, own := r.1, c0 := r.1, openAt := s.now, fresh := false, chkDue := false, late := false } s
  if differ then halvesPart s else sendTg slot (telegram e 1 false r.1 0 (bytesLE 4 r.1.toNat)) s

/-- The oldest telegram of a slot that the pair has not judged, and the state without it. -/
def inboxOf (s : State) (slot : Nat) : Option (List Byte) := (s.msl.inbox.find? (fun e => e.1 == slot)).map Prod.snd
def dropInbox (slot : Nat) (s : State) : State :=
  { s with msl := { s.msl with inbox := s.msl.inbox.eraseP (fun e => e.1 == slot) } }

/-- A received telegram is judged, and accepted only if both halves accept it (R234). In a state that takes none of its
kind it is dropped. -/
def receiveTg (slot : Nat) (differ fits : Bool) (g : List Byte → State → State) (s : State) : Host.Outcome State Fault Refusal :=
  whenUpAnd s (inboxOf s slot).isSome fun s =>
    let tg := (inboxOf s slot).getD []
    let s := dropInbox slot s
    if !fits then s else if differ then halvesPart s else g tg s

/-- When an OPEN is repeated: max(TEXP, 100 ms). -/
def openWait (e : MslEnt) : Nat := msT (max e.texp 100)

/-- The time expectation ends: the error and the stop state, once; OPENING follows at the end of the cycle (R238). -/
def consumerTimeout (slot : Nat) (s : State) : State :=
  let x := mslOf s slot
  if x.late then s else putMsl slot { x with err := 3, tocnt := x.tocnt + 1, pasv := true, late := true } s

/-- An OPENED at a consumer in OPENING (R236). -/
def takeOpened (slot : Nat) (tg : List Byte) (s : State) : State :=
  let x := mslOf s slot
  let e := mslEnt s slot
  let p0 := tgStart tg
  if !tgGood e 2 (p0.toNat / 65536) tg then crcFailure slot s
  else if tgTexp tg != e.texp || tgLen tg != 4 then putMsl slot { x with err := 4 } s
  else if tgEcho tg != x.c0.setWidth 16 || decide (x.openAt + openWait e ≤ s.now) then s
  else
    putMsl slot { x with st := .run, peer := p0, fresh := false, pasv := false, applied := [], lastChk := none
                         expTo := s.now + msT e.texp, late := false, chkDue := true, chkAt := 0, rxPasv := tgPasv tg } s

/-- MSL_OPENED: a consumer in OPENING takes a good OPENED within the window of its OPEN (R236). -/
def execMslOpened (slot : Nat) (differ : Bool) (s : State) : Host.Outcome State Fault Refusal :=
  receiveTg slot differ (isConsumer slot && (mslOf s slot).st == .opening) (takeOpened slot) s

/-- A DATA at a consumer in RUN (R235, R238, R240). It is fresh if it answers the last CHECK within the time expectation. -/
def takeData (slot : Nat) (tg : List Byte) (s : State) : State :=
  let x := mslOf s slot
  let e := mslEnt s slot
  match judgeSeq e 4 x.peer tg with
  | .failure => crcFailure slot s
  | .repeated => repetition slot s
  | .good n =>
    let d := tgData tg
    if x.lastChk = some (tgEcho tg) && decide (s.now < x.expTo) then
      putMsl slot { x with peer := n, applied := d, pasv := tgPasv tg, fresh := true, rxPasv := tgPasv tg
                           expTo := s.now + msT e.texp, chkDue := true } s
    else
      -- not fresh: it takes effect in the stop direction only
      putMsl slot { x with peer := n, rxPasv := tgPasv tg
                           pasv := x.pasv || tgPasv tg || !dataBit d e.pbit } s

/-- MSL_DATA: a consumer in RUN takes a DATA. -/
def execMslData (slot : Nat) (differ : Bool) (s : State) : Host.Outcome State Fault Refusal :=
  receiveTg slot differ (isConsumer slot && (mslOf s slot).st == .run) (takeData slot) s

/-- MSL_OPEN_RETRY: no OPENED within max(TEXP, 100 ms) of the OPEN (R236). -/
def execMslOpenRetry (x : SlotHalves) (s : State) : Host.Outcome State Fault Refusal :=
  whenUpAnd s (isConsumer x.slot && (mslOf s x.slot).st == .opening &&
      decide ((mslOf s x.slot).openAt + openWait (mslEnt s x.slot) ≤ s.now)) fun s =>
    openSlot x.slot x.differ s

/-- MSL_TIMEOUT: no fresh DATA within the time expectation (R238). -/
def execMslTimeout (slot : Nat) (s : State) : Host.Outcome State Fault Refusal :=
  whenUpAnd s (isConsumer slot && (mslOf s slot).st == .run && decide ((mslOf s slot).expTo ≤ s.now)) fun s =>
    consumerTimeout slot s

/-! ### The producer (R237, R240) -/

/-- The data of an output slot (R240). -/
def producerData (s : State) (e : MslEnt) : List Byte :=
  if s.saf.inForce.isNone then List.replicate e.len 0
  else
    let b0 := (List.range 8).foldl (fun a f => a + b2n ((sfOf s f).st == .run) * 2 ^ f) 0
    let b1 := (List.range 8).foldl (fun a n =>
      a + b2n (!demandOf s n && !(sinOf s n).failA && !(sinOf s n).failB && !(sinOf s n).failAll) * 2 ^ n) 0
    let b2 := (List.range 4).foldl (fun a m => a + b2n (sqOf s m).appl * 2 ^ m) 0
    ([BitVec.ofNat 8 b0, BitVec.ofNat 8 b1, BitVec.ofNat 8 b2] ++ List.replicate (e.len - 3) 0).take e.len

/-- An OPEN at a producer: a good one is answered (R237). -/
def takeOpen (slot : Nat) (tg : List Byte) (s : State) : State :=
  let e := mslEnt s slot
  let c0 := tgStart tg
  if !tgGood e 1 (c0.toNat / 65536) tg then crcFailure slot s
  else if tgTexp tg != e.texp || tgLen tg != 4 then s
  else
    let r := startValue s
    let s := r.2
    let x := mslOf s slot
    sendTg slot (telegram e 2 false r.1 (c0.setWidth 16) (bytesLE 4 r.1.toNat))
      (putMsl slot { x with st := .run, own := r.1, peer := c0, echo := c0.setWidth 16, lastGood := s.now
                            sent := producerData s e, dataDue := false, rxPasv := tgPasv tg } s)

/-- MSL_OPEN: a producer in LISTEN or RUN takes a good OPEN and answers it, unless the halves' outcomes differ (R234, R237). -/
def execMslOpen (slot : Nat) (differ : Bool) (s : State) : Host.Outcome State Fault Refusal :=
  receiveTg slot differ
    (!isConsumer slot && ((mslOf s slot).st == .idle || (mslOf s slot).st == .run) && slotUsed s slot && slotVerified s slot)
    (takeOpen slot) s

/-- A CHECK at a producer in RUN, while its window runs (R237). -/
def takeCheck (slot : Nat) (tg : List Byte) (s : State) : State :=
  let x := mslOf s slot
  if decide (x.lastGood + 2 * msT (mslEnt s slot).texp ≤ s.now) then s
  else
  match judgeSeq (mslEnt s slot) 3 x.peer tg with
  | .failure => crcFailure slot s
  | .repeated => repetition slot s
  | .good n => putMsl slot { x with peer := n, echo := tgSeq tg, lastGood := s.now, dataDue := true, rxPasv := tgPasv tg } s

/-- MSL_CHECK: a producer in RUN takes a good CHECK (R237). -/
def execMslCheck (slot : Nat) (differ : Bool) (s : State) : Host.Outcome State Fault Refusal :=
  receiveTg slot differ (!isConsumer slot && (mslOf s slot).st == .run) (takeCheck slot) s

/-- MSL_PRODUCER_LISTEN: no good CHECK within 2 x TEXP (R237). -/
def execMslProducerListen (slot : Nat) (s : State) : Host.Outcome State Fault Refusal :=
  whenUpAnd s (!isConsumer slot && (mslOf s slot).st == .run &&
      decide ((mslOf s slot).lastGood + 2 * msT (mslEnt s slot).texp ≤ s.now)) fun s =>
    putMsl slot { mslOf s slot with st := .idle, dataDue := false } s

/-! ### The end of a safety cycle -/

/-- The states in which a CAN controller sends (R299). -/
def canActive (s : State) (c : Nat) : Bool :=
  let st := (Table.get Can.factory s.can c).st
  st == 2 || st == 3

/-- A MAC's link. -/
def macUp (s : State) (m : Nat) : Bool := (Table.get Mac.zero s.eth.mac m).linkUp

/-- A network can send (R250). -/
def canSend (s : State) (net : Nat) : Bool :=
  if 1 ≤ net ∧ net ≤ 4 then s.power.mode == .up
  else if net = 5 ∨ net = 6 then canActive s (net - 5)
  else if net = 7 then s.eth.ipAddr.isSome && (macUp s 0 || macUp s 1)
  else false

/-- HALT ends on acknowledgement (R239). -/
def ackHalt (slot : Nat) (s : State) : State :=
  let x := mslOf s slot
  if x.st = .halt then haltEvent slot false (putMsl slot { x with st := .idle, fresh := false } s) else s

/-- An ACK accepted on the request point of a function whose MSLIN names the slot (R239). -/
def mslAcks (s : State) : State :=
  foldS (usedFns s) (fun f t =>
    if (sfOf t f).gotAck && decide ((fnCfg t f).mslin < 16) then ackHalt (fnCfg t f).mslin t else t) s

/-- What a slot does at the end of a safety cycle (R236 to R238). `differ`: the halves' copies of its telegram differ, and it
is not sent (R234); `found`: the comparison of this cycle has counted a disagreement of the halves already. -/
def slotCycle (differ found : Bool) (slot : Nat) (s : State) : State :=
  let x := mslOf s slot
  let e := mslEnt s slot
  if !slotUsed s slot then s
  else if isConsumer slot then
    match x.st with
    | .idle => if slotVerified s slot && canSend s e.net then openSlot slot differ s else s
    | .run =>
      if x.expTo ≤ s.now then openSlot slot differ (consumerTimeout slot s)
      else if x.chkDue && (x.chkAt = 0 || decide (x.chkAt + msT 5 ≤ s.now)) then
        if differ then halvesPart s else
        let n := x.own + 1
        sendTg slot (telegram e 3 false n (x.peer.setWidth 16) (List.replicate e.len 0))
          (putMsl slot { x with own := n, lastChk := some (n.setWidth 16), chkAt := s.now, chkDue := false } s)
      else s
    | _ => s
  else
    let d := producerData s e
    if x.st == .run && (x.dataDue || d != x.sent) then
      -- half B forms its copy from its own state
      if differ then halvesPart s
      else if producerData (swapHalves s) e != d then (if found then s else halvesPart s) else
      let n := x.own + 1
      sendTg slot (telegram e 4 s.saf.inForce.isNone n x.echo d)
        (putMsl slot { x with own := n, sent := d, dataDue := false } s)
    else s

/-- The status words cross the barrier on a change and every 100 ms (R249). -/
def statusCross (s : State) : State :=
  if s.bar.core.loss then s
  else
    foldS (List.range 32) (fun i t =>
      let w := mslStatus t i
      if w != Table.get 0 t.msl.statW i || decide (Table.get 0 t.msl.statAt i + msT 100 ≤ t.now) then
        { t with msl := { t.msl with statW := Table.set 0 t.msl.statW i w, statAt := Table.set 0 t.msl.statAt i t.now } }
      else t) s

/-- SAFETY_CYCLE: 500 microseconds after the last one the halves evaluate and compare, the outputs follow, and MSL sends what
is due, but for each telegram of which the halves' copies differ (R196, R198, R213 to R221, R234 to R240). `edm`: the mirror
contacts that read released; `x`: what the comparison finds beyond State. DESIGN CHOICE, log 62. -/
def execSafetyCycle (edm : BitVec 4) (x : HalfChecks) (s : State) : Host.Outcome State Fault Refusal :=
  whenUpAnd s (pairRuns s && decide (s.saf.cycAt + cycleTicks ≤ s.now)) fun s =>
    let s := evalCycle edm x.differ (!clockOk x.clkB || x.failed != 0) (mslAcks s)
    let found := x.differ || halvesDiffer s
    statusCross (foldS (List.range 32) (fun i => slotCycle (x.slots.getLsbD i) found i) s)

end Sys2Proof.Machine
end

