-- ==== Sys2Proof/Machine/Can.lean ====
section
/-! DEFINITION. The CAN FD controllers (11_can_fd.md): queues, reception, errors and bus-off, what an input and
an output phase do, and the status points. -/

namespace Sys2Proof.Machine
open Sys2Proof

def canOf (s : State) (c : Nat) : Can := Table.get Can.factory s.can c
def putCan (c : Nat) (x : Can) (s : State) : State := { s with can := Table.set Can.factory s.can c x }

/-- The fields of CANCFG0 (R282). -/
def Can.headto (x : Can) : Nat := bitsOf x.cfg0 31 24
def Can.cls (x : Can) : Nat := bitsOf x.cfg0 21 20
def Can.en (x : Can) : Bool := x.cfg0.getLsbD 19
def Can.fden (x : Can) : Bool := x.cfg0.getLsbD 18
def Can.syncen (x : Can) : Bool := x.cfg0.getLsbD 17
def Can.synclen (x : Can) : Bool := x.cfg0.getLsbD 16
def Can.reqpt (x : Can) : Nat := bitsOf x.cfg0 15 0

/-- Error active or error passive: on the bus (R299). -/
def Can.active (x : Can) : Bool := x.st == 2 || x.st == 3

/-- A status count by its point offset (R299). -/
def Can.bump (i n : Nat) (x : Can) : Can := { x with cnt := Table.upd 0 x.cnt i (fun w => w + BitVec.ofNat 32 n) }

/-- A maximum in microseconds, saturating. -/
def Can.top (i us : Nat) (x : Can) : Can :=
  { x with cnt := Table.upd 0 x.cnt i (fun w => BitVec.ofNat 32 (max w.toNat (min us (2 ^ 32 - 1)))) }

/-- The used frame entries with their numbers, in table order. -/
def Can.entries (x : Can) : List (Nat × CanEnt) := x.frame.filterMap (fun e => e.2.map (fun f => (e.1, f)))
def Can.rxEntries (x : Can) : List (Nat × CanEnt) := x.entries.filter (fun e => !e.2.tx)
def Can.txEntries (x : Can) : List (Nat × CanEnt) := x.entries.filter (fun e => e.2.tx)

/-- The points of an entry (R283). -/
def CanEnt.pts (e : CanEnt) : List Nat := (List.range ((e.len + 3) / 4)).map (fun i => e.first + i)

/-- The stage whose house and owner see the records of a controller (R361). -/
def canView (s : State) (x : Can) : Word := if x.reqpt = 0 then viewOf 0 else viewHouse (ownerOf s x.reqpt)

/-- A change of state is recorded (R296, R297). -/
def canEvent (c : Nat) (s : State) : State :=
  let x := canOf s c
  logEv 0x31 (if x.st = 4 then 6 else 4) 0 (canView s x) 0
    (packD [(1, c), (1, x.st), (1, min x.txe 255), (1, min x.rxe 255)]) s

/-- A removal is recorded with its identifier (R289). -/
def removeEvent (c : Nat) (f : CanTx) (s : State) : State :=
  logEv 0x32 3 0 (canView s (canOf s c)) 0 (packD [(1, c), (4, f.idw.toNat % 2 ^ 29)]) s

/-! ### The FIFO and the priority queue (R285, R290) -/

/-- The FIFO's content changes: the head's wait starts again where the head is another one, and the watchdog's window with
the first frame (R290, R299). -/
def Can.setFifo (l : List CanTx) (now : Nat) (x : Can) : Can :=
  if l.head? = x.fifo.head? then { x with fifo := l }
  else
    let x := match x.headSince with
      | some t => x.top 12 ((now - t) / 25)
      | none => x
    { x with fifo := l, headSince := if l.isEmpty then none else some now
             holdSince := if l.isEmpty then none else some (x.holdSince.getD now), headlong := x.headlong && !l.isEmpty }

/-- A frame enters the FIFO; a full one discards it (R286). -/
def Can.enter (f : CanTx) (now : Nat) (x : Can) : Can :=
  if 32 ≤ x.fifo.length then x.bump 6 1 else x.setFifo (x.fifo ++ [f]) now

/-- The priority queue's content changes. -/
def Can.setPq (l : List CanTx) (now : Nat) (x : Can) : Can := { x with pq := l, pqAt := if x.pq.isEmpty then now else x.pqAt }

/-- An MSL frame enters the priority queue, which holds eight of them (R285). -/
def Can.enterMsl (f : CanTx) (x : Can) : Can :=
  if 8 ≤ (x.pq.filter (fun g => g.kind == 3)).length then x.bump 7 1 else x.setPq (x.pq ++ [f]) f.enteredAt

/-- The sync frame heads the priority queue; one that still waits is replaced (R291). -/
def Can.enterSync (half : Word) (now : Nat) (x : Can) : Can :=
  if x.syncen then
    let f : CanTx :=
      { idw := x.sync, data := if x.synclen then bytesLE 2 (half.toNat % 65536) else []
        kind := 2, take := half, ent := 0, enteredAt := now, tried := false, doomed := false, aborted := false }
    let waits := x.pq.any (fun g => g.kind == 2)
    let x := if waits then x.bump 7 1 else x
    { x.setPq (f :: x.pq.filter (fun g => g.kind != 2)) now with syncAt := now }
  else x

/-! ### Errors (R296, R297) -/

/-- Entry to and exit from error passive. -/
def canPassive (c : Nat) (s : State) : State :=
  let x := canOf s c
  let passive := decide (128 ≤ x.txe) || decide (128 ≤ x.rxe)
  if x.st = 2 && passive then canEvent c (putCan c ({ x with st := 3 }.bump 9 1) s)
  else if x.st = 3 && !passive then canEvent c (putCan c { x with st := 2 } s)
  else s

/-- The device requests whose exchange is in progress on a controller, with their keys. -/
def canReqs (s : State) (c : Nat) : List (Nat × DevReq) :=
  s.host.devReq.filterMap (fun e => match e.2 with
    | r :: _ => if e.1 / 256 = c + 5 && r.startAt.isSome then some (e.1, r) else none
    | [] => none)

/-- Bus-off, at the instant TEC exceeds 255: no frame is kept, and the requests whose frames the FIFO held have failed
(R297). -/
def canBusOff (c : Nat) (s : State) : State :=
  let x := canOf s c
  let failed := (canReqs s c).filter (fun e => x.fifo.any (fun f => f.kind == 1 && f.ent == e.1 % 256))
  let cyc := (x.fifo.filter (fun f => f.kind == 0)).length
  let x := ((x.bump 7 x.pq.length).bump 6 cyc).bump 8 1
  let lost := (x.fifo.filter (fun f => f.kind == 0)).map (fun f => f.ent)
  let x := { x with
    st := 4, pq := [], att := none
    undel := lost.foldl (fun t e => Table.set false t e true) x.undel }
  let s := canEvent c (putCan c (x.setFifo [] s.now) s)
  foldS failed (fun e t => endDev e.1 0x0015 [] t) s

/-- The transmit error count rises. -/
def canTxError (c n : Nat) (s : State) : State :=
  let x := canOf s c
  let s := putCan c { x with txe := x.txe + n } s
  if 255 < x.txe + n then canBusOff c s else canPassive c s

/-- CAN_RECEIVE_ERROR: an error detected as a receiver raises REC by what ISO 11898-1 gives (R296). -/
def execCanReceiveError (c lec inc : Nat) (s : State) : Host.Outcome State Fault Refusal :=
  whenUpAnd s (canOf s c).active fun s =>
    let x := canOf s c
    canPassive c (putCan c ({ x with rxe := min (x.rxe + inc) 255, lec := lec, busAt := s.now }.bump 10 1) s)

/-! ### Transmission (R285, R289, R290) -/

/-- Which queue's head has been offered (R285): the priority queue's if it held a frame when the bus became free, the FIFO's
if the priority queue is empty. None: the priority queue filled after the bus had become free while the FIFO held a frame,
and no command says which of them began. -/
def Can.offers (x : Can) : Option Bool :=
  if x.pq.isEmpty then some false
  else
    match x.fifo with
    | [] => some true
    | f :: _ => if x.pqAt ≤ x.busAt || x.pqAt ≤ f.enteredAt then some true else none

/-- Whether the frame whose attempt ends now is the priority queue's; a free choice where nothing says so (log entry 2). -/
def fromPrio (x : Can) (s : State) : Bool × State :=
  match x.att.orElse (fun _ => x.offers) with
  | some b => (b, s)
  | none =>
    let r := drawIn 0 2 s
    (r.1 == 1, r.2)

/-- A frame is offered. -/
def Can.offering (x : Can) : Bool := x.active && !(x.pq.isEmpty && x.fifo.isEmpty)

/-- CAN_FRAME_SENT: the frame offered is sent (R285, R289, R290, R296). -/
def execCanFrameSent (c : Nat) (s : State) : Host.Outcome State Fault Refusal :=
  whenUpAnd s (canOf s c).offering fun s =>
    let x := canOf s c
    let p := fromPrio x s
    let s := p.2
    let y := { (x.bump 1 1) with txe := x.txe - 1, busAt := s.now, att := none }
    if p.1 then
      -- the delay of a sync frame ends with its start of frame, before this instant
      let sync := (x.pq.head?.map (fun f => f.kind == 2)).getD false
      let r := if sync then drawIn 0 ((s.now - x.syncAt) / 25 + 1) s else (0, s)
      canPassive c (putCan c (({ y with pq := x.pq.tail }).top 13 r.1) r.2)
    else
      let e := (x.fifo.head?.map (fun f => if f.kind = 0 then some f.ent else none)).getD none
      let y := { y with headlong := false, undel := match e with
        | some i => Table.set false y.undel i false
        | none => y.undel }
      let y := y.setFifo x.fifo.tail s.now
      canPassive c (putCan c { y with headSince := y.headSince.map (fun _ => s.now), holdSince := y.holdSince.map (fun _ => s.now) } s)

/-- The FIFO's head is removed (R286, R289). -/
def canRemoveHead (c : Nat) (record : Bool) (s : State) : State :=
  let x := canOf s c
  match x.fifo with
  | [] => s
  | f :: t =>
    let x := (x.bump 5 1).setFifo t s.now
    let x := { x with undel := if f.kind = 0 then Table.set false x.undel f.ent true else x.undel }
    let s := putCan c x s
    if record then removeEvent c f s else s

/-- The offered frame has begun an attempt that failed. -/
def Can.tried (prio : Bool) (now : Nat) (x : Can) : Can :=
  let mark (l : List CanTx) : List CanTx := match l with
    | [] => []
    | f :: t => { f with tried := true } :: t
  if prio then { x with pq := mark x.pq, busAt := now, att := none }
  else { x with fifo := mark x.fifo, busAt := now, att := none }

/-- CAN_ATTEMPT_FAIL: an attempt ends without success (R285, R286, R289, R296, R297). -/
def execCanAttemptFail (c : Nat) (why : CanFail) (s : State) : Host.Outcome State Fault Refusal :=
  whenUpAnd s (canOf s c).offering fun s =>
    let x := canOf s c
    let p := fromPrio x s
    let s := putCan c (x.tried p.1 s.now) p.2
    let s := match why with
      | .arbitration => s
      | .busError lec rise => canTxError c rise (putCan c ({ canOf s c with lec := lec }.bump 10 1) s)
      | .noAck =>
        let s := putCan c ({ canOf s c with lec := 3 }.bump 10 1) s
        if x.st = 2 then canTxError c 8 s else s
    if p.1 then s
    else
      match (canOf s c).fifo.head? with
      | some f => if f.doomed then canRemoveHead c f.aborted s else s
      | none => s

/-- HEADLONG: the FIFO has held a frame throughout HEADTO and sent none (R290). -/
def execHeadlong (c : Nat) (s : State) : Host.Outcome State Fault Refusal :=
  let x := canOf s c
  let due := match x.holdSince with
    | some t => decide (t + msT x.headto ≤ s.now)
    | none => false
  whenUpAnd s (due && !x.headlong && !x.fifo.isEmpty) fun s =>
    logEv 0x33 4 0 (viewOf 0) 0 (packD [(1, 7 + c), (1, 2)]) (putCan c ({ x with headlong := true }.bump 11 1) s)

/-! ### Reception (R279, R292, R294, R245) -/

/-- Identifier, format and extended format of a received frame as an identifier word. -/
def rxIdw (f : CanRx) : Nat := b2n f.xtd * 2 ^ 31 + b2n f.fdf * 2 ^ 30 + f.ident % 2 ^ 29

/-- The part of an identifier word that a filter compares: XTD, FDF and the identifier. -/
def idKey (w : Word) : Nat := w.toNat - b2n (w.getLsbD 29) * 2 ^ 29

/-- The identifier on which a slot's peer sends (R242). -/
def mslRxId (slot : Nat) (e : MslEnt) : Nat :=
  let i := e.addr.toNat % 2 ^ 29
  b2n (e.addr.getLsbD 31) * 2 ^ 31 + 2 ^ 30 + (if isConsumer slot then i else i + 1)

/-- A received telegram goes to the barrier, or is discarded and counted (R245). `fromPeer`: the slots whose
ADDR names the sender. DEDUCED, log 32. -/
def mslForward (net : Nat) (fromPeer : Nat → Bool) (tg : List Byte) (s : State) : State :=
  if !coresUp s then s
  else
  match (List.range 32).find? (fun i => mslUsed s i && (mslCfg s i).connid == wordAt tg 2) with
  | some i =>
    if (mslCfg s i).net = net && fromPeer i then
      { s with msl := { s.msl with
        toPair := Table.set [] s.msl.toPair i tg, rxPair := Table.set [] s.msl.rxPair i [] } }
    else { s with msl := { s.msl with discards := s.msl.discards + 1 } }
  | none => { s with msl := { s.msl with discards := s.msl.discards + 1 } }

/-- A frame received without error lowers REC (ISO 11898-1); above 127 it goes to a value of 119 to 127. -/
def canRxGood (c : Nat) (s : State) : State :=
  let x := { canOf s c with busAt := s.now }
  if 127 < x.rxe then
    let r := drawIn 119 9 s
    canPassive c (putCan c { x with rxe := r.1 } r.2)
  else canPassive c (putCan c { x with rxe := x.rxe - 1 } s)

/-- The MSL slots on a controller: their buffers follow those of the receive entries. -/
def canSlots (s : State) (c : Nat) : List Nat := (List.range 32).filter (fun i => mslUsed s i && (mslCfg s i).net == c + 5)

/-- The buffer of a received frame and its least length (R292): one of a receive entry, of an MSL slot or of a DEVREQ's
reply. -/
def canBuffer (s : State) (c : Nat) (f : CanRx) : Option (Nat × Nat) :=
  let x := canOf s c
  let key := rxIdw f
  match x.rxEntries.findIdx? (fun e => idKey e.2.idw == key) with
  | some b => some (b, (x.rxEntries.map (fun e => e.2.len)).getD b 0)
  | none =>
    match (canSlots s c).findIdx? (fun i => mslRxId i (mslCfg s i) == key) with
    | some j => some (x.rxEntries.length + j, 0)
    | none => ((canReqs s c).find? (fun e => idKey (BitVec.ofNat 32 e.2.rxid) == key)).map (fun e => (e.2.buf, 0))

/-- A frame is stored in its buffer with ND, or replaces an unread one (R292), with its stamp (R53). -/
def canStore (c b : Nat) (f : CanRx) (s : State) : State :=
  let x := canOf s c
  let old := Table.get CanBuf.zero x.buf b
  let x := if old.nd then x.bump 4 1 else x
  let n := nextArr (7 + c) s
  let a := n.2.arrSeq
  let new : CanBuf :=
    { idw := BitVec.ofNat 32 (rxIdw f), used := true, data := f.data, nd := true, lost := old.lost || old.nd
      stamp := houseTime s, ndAt := some s.now, lostAt := if old.nd then some s.now else old.lostAt }
  putCan c { x with buf := Table.set CanBuf.zero x.buf b new }
    { n.2 with arrSeq := { a with can := Table.set 0 a.can (c * 64 + b) n.1 } }

/-- CAN_FRAME_RECEIVED: a frame becomes valid (R279, R283, R292). -/
def execCanFrameReceived (c : Nat) (f : CanRx) (s : State) : Host.Outcome State Fault Refusal :=
  whenUpAnd s ((canOf s c).active && ((canOf s c).fden || !f.fdf)) fun s =>
    let s := canRxGood c s
    let x := canOf s c
    let unmapped (s : State) : State := putCan c ((canOf s c).bump 3 1) s
    let s := putCan c (x.bump 2 1) s
    if f.remote then unmapped s
    else
      match canBuffer s c f with
      | some (b, least) => if f.data.length < least then unmapped s else canStore c b f s
      | none => unmapped s

/-- What the house firmware read from a live buffer with ND goes on its way (R294): a telegram to the barrier (R242, R245),
a reply to its request (R319). -/
def bufferRead (c buf : Nat) (b : CanBuf) (s : State) : State :=
  if 56 ≤ buf then
    match (canReqs s c).find? (fun e => e.2.buf == buf && idKey (BitVec.ofNat 32 e.2.rxid) == b.idw.toNat) with
    | some e => endDev e.1 0 b.data s
    | none => s
  else if (canOf s c).rxEntries.length ≤ buf then
    mslForward (c + 5) (fun i => mslRxId i (mslCfg s i) == b.idw.toNat) b.data s
  else s

/-- ND_READ: a read of ND returns it with the buffer's contents and clears it (R294); ND that a frame sets in the same
clock stays set, and the read returns the old value (R7). -/
def execNdRead (c buf : Nat) (s : State) : Host.Outcome State Fault Refusal :=
  whenUp s fun s =>
    let x := canOf s c
    let b := Table.get CanBuf.zero x.buf buf
    let new := b.ndAt == some s.now
    let was := b.nd && (!new || b.lostAt == some s.now)
    let s := emit (.buffer c buf was b.lost b.idw b.data)
      (putCan c { x with buf := Table.set CanBuf.zero x.buf buf { b with nd := b.nd && new } } s)
    if was then bufferRead c buf b s else s

/-! ### Bus-on and recovery (R297, R298) -/

/-- CAN_BUS_INTEGRATED: 11 recessive bits: error active, and the sync frame is sent (R298). -/
def execCanBusIntegrated (c : Nat) (s : State) : Host.Outcome State Fault Refusal :=
  whenUpAnd s ((canOf s c).st == 1) fun s =>
    putCan c ({ canOf s c with st := 2, txe := 0, rxe := 0 }.enterSync (takeOf s (canOf s c).cls).startHalf s.now) s

/-- A recovery request (R297): it applies in bus-off only; any other is ignored and recorded. -/
def canRecover (c : Nat) (s : State) : State :=
  let x := canOf s c
  if x.st = 4 then canEvent c (putCan c { x with st := 5, recreq := true } s) else canEvent c s

/-- CAN_RECOVERY_DONE: 128 sequences of 11 recessive bits (R297). -/
def execCanRecoveryDone (c : Nat) (s : State) : Host.Outcome State Fault Refusal :=
  whenUpAnd s ((canOf s c).st == 5) fun s =>
    putCan c { canOf s c with st := 6, txe := 0, rxe := 0, recreq := false } s

/-! ### Device requests (R319, R286) -/

/-- A request whose frames the controller does not send: of FD format while only classical frames are permitted (R279). -/
def canRefuses (s : State) (c : Nat) (r : DevReq) : Bool := !(canOf s c).fden && natBit r.txid 30

/-- A DEVREQ's frame enters the FIFO; `ent` names its node. -/
def canStartReq (c node : Nat) (r : DevReq) (s : State) : State :=
  let x := canOf s c
  putCan c (x.enter { idw := BitVec.ofNat 32 r.txid, data := r.data, kind := 1, take := 0, ent := node, enteredAt := s.now
                      tried := false, doomed := false, aborted := false } s.now) s

/-! ### The output phase (R286, R289, R297) -/

/-- Whether the FIFO's head is in an attempt at this instant: not if the priority queue's head is the one offered; otherwise
no command says, and the answer is a free choice (log entry 2), which holds until that attempt ends. -/
def headInAttempt (c : Nat) (s : State) : Bool × State :=
  let x := canOf s c
  if x.fifo.isEmpty || !x.active then (false, s)
  else
    match x.att with
    | some prio => (!prio, s)
    | none =>
      if x.offers == some true then (false, s)
      else
        let r := drawIn 0 2 s
        (r.1 == 1, putCan c { x with att := if r.1 = 1 then some false else if x.pq.isEmpty then none else some true } r.2)

/-- Step 1: cyclic frames of an earlier take that have not begun an attempt are removed; one that has leaves when an attempt
of it fails. -/
def canPurge (c : Nat) (busy : Bool) (s : State) : State :=
  let x := canOf s c
  let now := (takeOf s x.cls).startHalf
  let old (f : CanTx) : Bool := f.kind == 0 && f.take != now
  let keepHead := match x.fifo with
    | f :: _ => if busy || f.tried then [if old f then { f with doomed := true } else f] else if old f then [] else [f]
    | [] => []
  let l := keepHead ++ x.fifo.tail.filter (fun f => !old f)
  let x := { x with undel := (x.fifo.filter old).foldl (fun t (f : CanTx) => Table.set false t f.ent true) x.undel }
  putCan c ((x.bump 5 (x.fifo.length - l.length)).setFifo l s.now) s

/-- Step 2: a pending abort-head request. -/
def canAbort (c : Nat) (busy : Bool) (s : State) : State :=
  let x := canOf s c
  if x.abortReq then
    let s := putCan c { x with abortReq := false } s
    if busy then
      match x.fifo with
      | f :: t => putCan c { x with abortReq := false, fifo := { f with doomed := true, aborted := true } :: t } s
      | [] => s
    else canRemoveHead c true s
  else s

/-- The stage of a frame entry's device. -/
def canStage (x : Can) (e : CanEnt) : Nat := match Table.get none x.dev e.dev with
  | some d => d.stage
  | none => 0

/-- The values of a take's transmit frames are handed off to the controller's transmit buffers (R40): `v` gives a point's
value, `ovr` the stages that hand nothing off. -/
def handOffCan (c : Nat) (ovr : Nat → Bool) (v : Nat → Nat → Word) (s : State) : State :=
  let x := canOf s c
  putCan c { x with handed := x.txEntries.foldl (fun t e =>
    let st := canStage x e.2
    Table.set none t e.1 (if ovr st then none else some (e.2.pts.map (v st)))) [] } s

/-- The words of a transmit frame: as handed off, a loop's output as last written (R146). -/
def canWords (s : State) (pts : List Nat) (ws : List Word) : List Word :=
  (pts.zip ws).map (fun e => if isLoopOut s e.1 then outValue s e.1 else e.2)

/-- Step 3: the take's transmit frames, of every device whose stage handed off. -/
def canEnterFrames (c : Nat) (s : State) : State :=
  let x := canOf s c
  let t := takeOf s x.cls
  let s := putCan c { x with handed := [] } s
  foldS x.txEntries (fun e u =>
    match Table.get none x.handed e.1 with
    | none => u
    | some ws =>
      let y := canOf u c
      let y := { y with undel := Table.set false y.undel e.1 true }
      if y.active || y.st == 1 then
        putCan c (y.enter { idw := e.2.idw, data := ((canWords u e.2.pts ws).flatMap (fun w => bytesLE 4 w.toNat)).take e.2.len
                            kind := 0, take := t.startHalf, ent := e.1, enteredAt := u.now, tried := false
                            doomed := false, aborted := false } u.now) u
      else putCan c y u) s

/-- The request bits of REQPT act on their rise at an output phase of the class (R289, R297). -/
def canRequests (c : Nat) (s : State) : State :=
  let x := canOf s c
  if x.reqpt = 0 then s
  else
    let v := outValue s x.reqpt
    let s := if v.getLsbD 0 && !x.prevRecover then canRecover c s else s
    let y := canOf s c
    putCan c { y with prevRecover := v.getLsbD 0, prevAbort := v.getLsbD 1
                      abortReq := y.abortReq || (v.getLsbD 1 && !x.prevAbort) } s

/-- A FIFO that held frames before a step and holds frames after it, and has sent none, has held frames throughout (R290). -/
def Can.keepWatch (old x : Can) : Can :=
  if old.fifo.isEmpty || x.fifo.isEmpty then x else { x with holdSince := old.holdSince, headlong := old.headlong }

/-- The output phase of a controller's class, as one step (R286). -/
def canOutput (c : Nat) (s : State) : State :=
  let s := canRequests c s
  let r := headInAttempt c s
  let t := canEnterFrames c (canAbort c r.1 (canPurge c r.1 r.2))
  putCan c ((canOf t c).keepWatch (canOf s c)) t

/-! ### The input phase (R291, R293, R295, R298, R299) -/

/-- Mapped buffers with ND are sealed and ND is cleared, in one clock (R293), beside what a change of the frame table has sealed;
a frame that became valid at the input phase itself belongs to the next interval. -/
def canSeal (c : Nat) (s : State) : State :=
  let x := canOf s c
  let es := x.rxEntries
  let news := ((List.range es.length).zip es).filter (fun e =>
    (Table.get CanBuf.zero x.buf e.1).nd && (Table.get CanBuf.zero x.buf e.1).ndAt.all (fun t => decide (t < s.slate.halfStart)))
  putCan c { x with
    sealed := news.foldl (fun t e => Table.set [] t e.2.1 (Table.get CanBuf.zero x.buf e.1).data) x.sealed
    buf := news.foldl (fun t e => Table.upd CanBuf.zero t e.1 (fun b => { b with nd := false })) x.buf
    devRt := news.foldl (fun t e =>
      Table.upd ⟨.ok, []⟩ t e.2.2.dev (fun d => { d with got := e.2.1 :: d.got })) x.devRt } s

/-- A device answered in the interval (R295). -/
def canAnswered (x : Can) (dev : Nat) : Bool :=
  let req := x.rxEntries.filter (fun e => e.2.dev == dev && e.2.req)
  if req.isEmpty then x.active else req.all (fun e => ((Table.get (⟨.ok, []⟩ : CanDevRt) x.devRt dev).got).contains e.1)

/-- The points of a received frame enter; unused bytes of the last point read 0 (R283). -/
def canEnterPts (e : CanEnt) (data : List Byte) (s : State) : State :=
  foldS (List.range ((e.len + 3) / 4)) (fun i t => enterPt (e.first + i) (BitVec.ofNat 32 (getLE (data.take e.len) (4 * i) 4)) 1 t) s

/-- The frames of a device whose data are accepted enter; the others age by R48 and R49. -/
def canDevInputs (c dev : Nat) (d : CanDev) (accept : Bool) (s : State) : State :=
  let x := canOf s c
  foldS (x.rxEntries.filter (fun e => e.2.dev == dev)) (fun e t =>
    let y := canOf t c
    let data := Table.get [] y.sealed e.1
    if accept && ((Table.get (⟨.ok, []⟩ : CanDevRt) y.devRt dev).got).contains e.1 then
      putCan c { y with fresh := Table.set Fresh.start y.fresh e.1 (Fresh.got t.now) } (canEnterPts e.2 data t)
    else
      let r := (Table.get Fresh.start y.fresh e.1).miss (freshF t d.f y.cls) d.h t.now
      missPts e.2.pts r (putCan c { y with fresh := Table.set Fresh.start y.fresh e.1 r.2.2 } t)) s

/-- UNDELIV of a device's transmit points (R295): each frame not sent, and all of them after a failed exchange. -/
def canUndeliv (c dev : Nat) (missed accepted : Bool) (s : State) : State :=
  let x := canOf s c
  foldS (x.txEntries.filter (fun e => e.2.dev == dev)) (fun e t =>
    if missed || Table.get false x.undel e.1 then foldS e.2.pts (undelivPt true) t
    else if accepted then foldS e.2.pts (undelivPt false) t
    else t) s

/-- One device at an input phase: its exchange is judged, and R51 governs its return. Where the controller is only about to
join the bus there has been no exchange (R298). DEDUCED, log 36. -/
def canDevPhase (c dev : Nat) (d : CanDev) (s : State) : State :=
  let x := canOf s c
  let joins := x.st == 0 && x.en
  let ok := joins || canAnswered x dev
  let rt := Table.get (⟨.ok, []⟩ : CanDevRt) x.devRt dev
  let txs := x.txEntries.filter (fun e => e.2.dev == dev)
  let sent := txs.all (fun e => !Table.get false x.undel e.1)
  let next : RetSt := if joins then rt.ret else match rt.ret with
    | .ok => if ok then .ok else .discard
    | .discard => if ok then .sendFull else .discard
    | .sendFull => if !ok then .discard else if sent then .await else .sendFull
    | .await => if ok then .ok else .discard
  let accept := rt.ret == .ok || rt.ret == .await
  let x := if ok then x else x.bump 14 1
  let undel := if rt.ret == .discard && ok && !joins then txs.foldl (fun t e => Table.set false t e.1 true) x.undel else x.undel
  let s := putCan c { x with undel := undel } s
  let s := canDevInputs c dev d accept s
  let s := canUndeliv c dev (!ok) (ok && accept && !joins) s
  let y := canOf s c
  putCan c { y with devRt := Table.set ⟨.ok, []⟩ y.devRt dev ⟨next, []⟩ } s

/-- CANSTAT (R299). -/
def canStat (x : Can) : Word :=
  BitVec.ofNat 32 (x.st + b2n x.recreq * 16 + b2n x.headlong * 32 + b2n (decide (96 ≤ x.txe) || decide (96 ≤ x.rxe)) * 64 +
    x.lec * 128 + x.fifo.length * 1024 + min x.rxe 255 * 2 ^ 16 + min x.txe 255 * 2 ^ 24)

/-- The status points (R299). -/
def canStatus (c : Nat) (s : State) : State :=
  let x := canOf s c
  let b := bitsOf x.cfg1 31 22
  if b = 0 then s
  else
    foldS (List.range 16) (fun i t =>
      enterPt (b * 64 + i) (if i = 0 then canStat x else if i = 15 then 0 else Table.get 0 x.cnt i) 1 t) s

/-- The input phase of a controller's class. -/
def canInput (c : Nat) (s : State) : State :=
  let s := canSeal c s
  let s := foldS (canOf s c).dev (fun e t => match e.2 with
    | some d => canDevPhase c e.1 d t
    | none => t) s
  let x := canOf s c
  let half := s.slate.halfcnt
  let x := if x.st = 0 && x.en then { x with st := 1 }
    else if x.st = 6 then { x with st := 2 }.enterSync half s.now
    else if x.active then x.enterSync half s.now
    else x
  canStatus c (putCan c { x with sealed := [] } s)

/-- A controller takes no part in the bus (R282, R298): queues emptied, off; its devices begin again. -/
def canOff (c : Nat) (s : State) : State :=
  let x := canOf s c
  putCan c { (x.setFifo [] s.now) with
    st := 0, pq := [], att := none, recreq := false, abortReq := false, headlong := false
    devRt := x.devRt.foldl (fun t e => Table.set ⟨.ok, []⟩ t e.1 { e.2 with ret := .ok }) [] } s

/-- The frame table changes at a boundary (R282): what the ended interval received stays with the entry of the same identifier
and device. -/
def remapFrames (c : Nat) (new : Table (Option CanEnt)) (s : State) : State :=
  let s := canSeal c s
  let x := canOf s c
  let y := { x with frame := new }
  let old := x.rxEntries.length
  let n := y.rxEntries.length
  let same (e f : Nat × CanEnt) : Bool := idKey e.2.idw == idKey f.2.idw && e.2.dev == f.2.dev
  let kept := y.rxEntries.filterMap (fun e => (x.rxEntries.find? (same e)).map (fun f => (e, f.1)))
  let got (dev : Nat) : List Nat := (Table.get (⟨.ok, []⟩ : CanDevRt) x.devRt dev).got
  -- the buffers of MSL follow those of the entries; those of device requests stay
  putCan c { y with
    buf := (List.range (56 - n)).foldl (fun t j =>
      Table.set CanBuf.zero t (n + j) (if old + j < 56 then Table.get CanBuf.zero x.buf (old + j) else CanBuf.zero))
      (x.buf.filter (fun e => decide (56 ≤ e.1)))
    sealed := kept.foldl (fun t e => Table.set [] t e.1.1 (Table.get [] x.sealed e.2)) []
    devRt := (List.range 16).foldl (fun t dev => Table.set ⟨.ok, []⟩ t dev
      { Table.get (⟨.ok, []⟩ : CanDevRt) x.devRt dev with
        got := (kept.filter (fun e => e.1.2.dev == dev && (got dev).contains e.2)).map (fun e => e.1.1) }) [] } s

end Sys2Proof.Machine
end

