-- ==== Sys2Proof/Machine/Eth.lean ====
section
/-! DEFINITION. The Ethernet MACs (10_frame_macs.md): counters, the receive path with the switch and the filter,
transmit queues, collisions, PAUSE, and the rate of an uplink. MACs 0 and 1 are UL1 and UL2, 2 to 5 FS1 to FS4,
6 is SVC; rates 0, 1 and 2 are 1000, 100 and 10 Mbit/s. -/

namespace Sys2Proof.Machine
open Sys2Proof

def macOf (s : State) (m : Nat) : Mac := Table.get Mac.zero s.eth.mac m
def putMac (m : Nat) (x : Mac) (s : State) : State :=
  { s with eth := { s.eth with mac := Table.set Mac.zero s.eth.mac m x } }

def isUl (m : Nat) : Bool := m < 2
def isFs (m : Nat) : Bool := 2 ≤ m && m < 6

/-- A medium is there to send and receive on: a mixing segment has no link to lose. -/
def macLive (s : State) (m : Nat) : Bool := decide (m < 7) && (isFs m || (macOf s m).linkUp)

/-- In recovery only the uplinks run (R404). -/
def macRuns (s : State) (m : Nat) : Bool := s.power.mode == .up || isUl m

/-- The address of a MAC (R251). DESIGN CHOICE, log 7. -/
def macAddr (s : State) (m : Nat) : BitVec 48 :=
  s.eth.baseMac + BitVec.ofNat 48 (if isUl m then 0 else if m = 6 then 1 else m)

/-- The rate a MAC runs at. -/
def macRate (s : State) (m : Nat) : Nat := if isFs m then 2 else if m = 6 then 1 else (macOf s m).rate

/-- 512 bit times in ticks at a rate, rounded up. -/
def slotTicks (rate n : Nat) : Nat := if rate = 0 then (n * 64 + 4) / 5 else if rate = 1 then n * 128 else n * 1280

/-! ### Counters (R268, R269) -/

/-- A counter rises by `n`: it wraps, a rise of bit 31 raises the counter interrupt, and a wrap enters the upper
half. -/
def Mac.count (i n : Nat) (x : Mac) : Mac :=
  let old := Table.get 0 x.cnt i
  let new := old + BitVec.ofNat 32 n
  { x with
    cnt := Table.set 0 x.cnt i new
    irq := if !old.getLsbD 31 && new.getLsbD 31 then i :: x.irq else x.irq
    hi := if new.toNat < old.toNat then Table.upd 0 x.hi i (fun w => w + 1) else x.hi }

def countMac (m i n : Nat) (s : State) : State := putMac m ((macOf s m).count i n) s

/-- Group and broadcast addresses. -/
def isGroup (da : BitVec 48) : Bool := da.getLsbD 40
def isBroadcast (da : BitVec 48) : Bool := da == BitVec.allOnes 48

/-- The size bin of a frame, 0 to 5. -/
def sizeBin (len : Nat) : Nat :=
  if len ≤ 64 then 0 else if len ≤ 127 then 1 else if len ≤ 255 then 2 else if len ≤ 511 then 3
  else if len ≤ 1023 then 4 else 5

/-- The counters of a good frame from a base: frames, octets, destination type; the bins from another. -/
def Mac.goodFrame (base bins len : Nat) (da : BitVec 48) (x : Mac) : Mac :=
  let dst := if isBroadcast da then 4 else if isGroup da then 3 else 2
  (((x.count base 1).count (base + 1) len).count (base + dst) 1).count (bins + sizeBin len) 1

/-- A good frame received, and one sent. -/
def Mac.rxGood (len : Nat) (da : BitVec 48) (x : Mac) : Mac := x.goodFrame 0x00 0x06 len da
def Mac.txGood (len : Nat) (da : BitVec 48) (x : Mac) : Mac := x.goodFrame 0x18 0x1D len da

/-- Octets of the rate windows (R256): received, sent. -/
def Mac.octets (rx tx : Nat) (x : Mac) : Mac :=
  { x with oct1 := (x.oct1.1 + rx, x.oct1.2 + tx), oct01 := (x.oct01.1 + rx, x.oct01.2 + tx) }

/-- A network event is recorded: the MAC and the kind 0 PAUSEBRK, 1 rate change (R361). -/
def netEvent (m kind : Nat) (s : State) : State := logEv 0x33 4 0 (viewOf 0) 0 (packD [(1, m), (1, kind)]) s

/-! ### Transmit queues (R258, R260, R261) -/

/-- A descriptor that is a whole frame of its own: forwarded, or formed by the module. -/
def TxD.alone (d : TxD) : Bool := d.fwd.isSome || d.made.isSome

/-- The complete frames of a ring, as the positions of their descriptors from FS to LS, in the order in which they became
complete (R260, R261). A descriptor without an FS before it belongs to no frame. -/
def framesOf (l : List TxD) : List (List Nat) :=
  (((List.range l.length).zip l).foldl (fun (a : List (List Nat) × List Nat) e =>
    if !e.2.own then a
    else if e.2.alone then (a.1 ++ [[e.1]], a.2)
    else
      let cur := if e.2.d.fs then [e.1] else if a.2.isEmpty then [] else a.2 ++ [e.1]
      if e.2.d.ls && !cur.isEmpty then (a.1 ++ [cur], []) else (a.1, cur)) ([], [])).1

/-- The descriptors at positions of a ring. -/
def descsAt (l : List TxD) (f : List Nat) : List TxD := f.filterMap (fun i => l[i]?)

/-- Bytes of a frame's buffers, and its destination address. -/
def frameLen (f : List TxD) : Nat := (f.map (fun d => d.d.len)).sum
def frameDa (f : List TxD) : BitVec 48 := ((f.head?).map (fun d => d.d.da)).getD 0
def frameFwd (f : List TxD) : Bool := f.any (fun d => d.fwd.isSome)

/-- A frame that is not sent for its length (R261). A buffer without a byte counts as such. DESIGN CHOICE, log 33. -/
def frameLong (f : List TxD) : Bool := decide (1518 < frameLen f) || f.any (fun d => d.d.len == 0)

/-- A frame of `n` bytes on the wire: padded, with FCS. -/
def wireLen (n : Nat) : Nat := max n 60 + 4

/-- The frame at positions of a ring is returned with a code and a timestamp (R261); what the module put there itself
leaves. -/
def returnFrame (f : List Nat) (err : Nat) (ts : Dword) (l : List TxD) : List TxD :=
  (((List.range l.length).zip l).map (fun e =>
    if f.contains e.1 then
      { e.2 with own := false, err := if e.2.d.ls then err else 0
                 ts := if e.2.d.ls && e.2.d.tsreq && err == 0 then ts else 0 }
    else e.2)).filter (fun d => d.own || !d.alone)

/-- What a ring keeps: at most 256 descriptors, the returned ones dropped first. -/
def trimRing (l : List TxD) : List TxD :=
  if l.length ≤ 256 then l else (l.filter (fun d => !d.own)).drop (l.length - 256) ++ l.filter (fun d => d.own)

def ringOf (x : Mac) (q : Nat) : List TxD := Table.get [] x.txq q
def Mac.putRing (q : Nat) (l : List TxD) (x : Mac) : Mac := { x with txq := Table.set [] x.txq q (trimRing l) }

/-- The frame at the head of a queue. -/
def headFrame (x : Mac) (q : Nat) : Option (List TxD) := (framesOf (ringOf x q)).head?.map (descsAt (ringOf x q))

/-- Frames are held by a PAUSE. -/
def Mac.held (x : Mac) : Bool := x.hold.isSome

/-! ### What may start on a segment (R43, R275) -/

def devOf (s : State) (key : Nat) : Option DevEnt := Table.get none s.eth.dev key
def winOf (s : State) (g : Nat) : SegWin := Table.get SegWin.none s.eth.win g

/-- Bytes from DA to FCS of a frame with n data bytes. -/
def fxLen (n : Nat) : Nat := max (n + 34) 64

/-- frame(n) of R276 in ticks of 40 ns: 0.8 microseconds a byte. -/
def fxFrame (n : Nat) : Nat := (fxLen n + 22) * 20

/-- exch(d) of R276 in ticks. -/
def fxExch (d : DevEnt) : Nat := fxFrame (4 * d.outCnt) + usT d.respto + fxFrame (4 * d.inCnt)

/-- When the window closes: the output phase of class 0. DEDUCED, log 34. -/
def winEnd (s : State) : Nat := offsetTick s (clsCfg s 0).outph

/-- The exchange in hand could still complete in the window (R275). -/
def exchangeFits (s : State) (g : Nat) : Bool := match (winOf s g).cur with
  | some key => (devOf s key).all (fun d => decide (s.now + fxExch d ≤ winEnd s))
  | none => true

/-- An acyclic frame that takes `n` ticks lies outside the windows: none is open, and it ends before the next opens, at offset
32 of this half-period or the next. DEDUCED, log 34. -/
def acycFits (s : State) (g n : Nat) : Bool :=
  let p := s.slate.period
  let next := offsetTick s 2048 + ceilDiv (32 * p) 4096
  !s.slate.started || !(winOf s g).isOpen && decide (s.now + n ≤ (if (winOf s g).ready then offsetTick s 32 else next))

/-- The head frame of a queue may start: on a segment nothing starts while a reply is awaited, a request only if its exchange
fits, and what is not of the field exchange or MSL only outside the windows. -/
def mayStart (s : State) (m q : Nat) (f : List TxD) : Bool :=
  let g := m - 1
  if !isFs m then true
  else if (winOf s g).cur.isSome && (winOf s g).reqAt.isSome then false
  else if q = 3 then true
  else if q = 2 then !f.any (fun d => match d.made with
    | some (2, _) => !exchangeFits s g
    | _ => false)
  else acycFits s g ((wireLen (frameLen f) + 22) * 20)

/-- The next frame starts from the highest queue that holds a complete one (R260). -/
def startNext (m : Nat) (s : State) : State :=
  let x := macOf s m
  if x.busy.isSome || x.held || !macLive s m then s
  else
    match [3, 2, 1, 0].find? (fun q => (headFrame x q).any (mayStart s m q)) with
    | some q => putMac m { x with busy := some q, colls := 0, backoff := none } s
    | none => s

/-- Units of 8 ns that a byte takes at a rate. -/
def byteTime (rate : Nat) : Nat := if rate = 0 then 1 else if rate = 1 then 10 else 100

/-- The timestamp of a frame of `n` bytes from DA to FCS whose last bit has just passed the medium: its SFD, in units of
8 ns, with the latency of the PHY taken out (R270). DEDUCED, log 13. -/
def sfdTime (s : State) (m n : Nat) : Dword := BitVec.ofNat 64 (s.now * 5) - BitVec.ofNat 64 (n * byteTime (macRate s m))

/-- The head frame of a queue is returned with a code; a forwarded one leaves the shared buffer (R253). -/
def retireHead (m q err : Nat) (s : State) : State :=
  let x := macOf s m
  match (framesOf (ringOf x q)).head? with
  | none => s
  | some f =>
    let ds := descsAt (ringOf x q) f
    let s := putMac m (x.putRing q (returnFrame f err (sfdTime s m (wireLen (frameLen ds))) (ringOf x q))) s
    if frameFwd ds then { s with eth := { s.eth with fwdBytes := s.eth.fwdBytes - (frameLen ds + 4) } } else s

/-- Every complete frame of a queue is discarded while the link is down (R257, R261). -/
def dropQueue (m q : Nat) (s : State) : State :=
  foldS (framesOf (ringOf (macOf s m) q)) (fun _ t => countMac m 0x29 1 (retireHead m q 5 t)) s

def dropAll (m : Nat) (s : State) : State := foldS [0, 1, 2, 3] (fun q => dropQueue m q) s

/-- Frames that are not sent for their length are returned (R261). -/
def dropLong (m q : Nat) (s : State) : State :=
  let x := macOf s m
  let l := ringOf x q
  let long := (framesOf l).filter (fun f => frameLong (descsAt l f))
  putMac m ((x.putRing q (returnFrame long.flatten 1 0 l)).count 0x29 long.length) s

/-- Descriptors enter a ring of 256 (R261). Those that it cannot hold come back unsent, and their frames are counted; with
which code is a free choice. DESIGN CHOICE, log 33. -/
def submitTo (m q : Nat) (ds : List TxDesc) (s : State) : State :=
  let x := macOf s m
  let l := ringOf x q
  let room := 256 - (l.filter (fun d => d.own)).length
  let r := drawIn 1 5 s
  let out := (ds.drop room).map (fun d =>
    ({ d := d, own := false, err := if d.ls then r.1 else 0, ts := 0, fwd := none, at_ := s.now, made := none } : TxD))
  let l := l ++ (ds.take room).map (fun d =>
    ({ d := d, own := true, err := 0, ts := 0, fwd := none, at_ := s.now, made := none } : TxD)) ++ out
  let s := if out.isEmpty then s else r.2
  let s := dropLong m q (putMac m ((x.putRing q l).count 0x29 (out.filter (fun d => d.d.ls)).length) s)
  if macLive s m then startNext m s else dropQueue m q s

/-- A frame that the module forms itself waits in a queue (R260): `bytes` from the EtherType on. -/
def queueMade (m q kind : Nat) (da : BitVec 48) (bytes : List Byte) (s : State) : State :=
  let x := macOf s m
  let e : TxD := { d := { buf := 0, fs := true, ls := true, tsreq := false, len := bytes.length + 12, da := da }, own := true
                   err := 0, ts := 0, fwd := none, at_ := s.now, made := some (kind, bytes) }
  let s := putMac m { x with txq := Table.set [] x.txq q (ringOf x q ++ [e]) } s
  if macLive s m then startNext m s else dropQueue m q s

/-- The uplinks that a frame of the host port goes out of (R253). -/
def learnedOn (s : State) (a : BitVec 48) : Option Nat := (s.eth.learned.find? (fun e => e.1 == a)).map (fun e => e.2.1)
def routeUl (s : State) (da : BitVec 48) : List Nat :=
  match learnedOn s da with
  | some u => if isGroup da then [0, 1] else [u]
  | none => [0, 1]

/-- Submitted descriptors cut at each FS: what continues an earlier frame, then each frame. -/
def cutFrames (ds : List TxDesc) : List (List TxDesc) :=
  ds.foldr (fun d (l : List (List TxDesc)) =>
    match l with
    | [] => [[d]]
    | f :: t => if (f.head?.map (fun e => e.fs)).getD true then [d] :: f :: t else (d :: f) :: t) []

/-- The last frame of a ring is not complete yet. -/
def openTail (x : Mac) (q : Nat) : Bool :=
  match ((ringOf x q).filter (fun d => d.own && !d.alone)).getLast? with
  | some d => !d.d.ls
  | none => false

/-- One frame of the host port, or a piece of one, goes to the uplink on which its destination is learned, or to both; the
rest of a frame follows its beginning (R253). -/
def submitUl (q : Nat) (f : List TxDesc) (s : State) : State :=
  if (f.head?.map (fun d => d.fs)).getD false then
    foldS (routeUl s ((f.head?.map (fun d => d.da)).getD 0)) (fun u => submitTo u q f) s
  else foldS ([0, 1].filter (fun u => openTail (macOf s u) q)) (fun u => submitTo u q f) s

/-- TX_DESCRIPTOR_SUBMIT: descriptors are handed to a queue by OWN (R260, R261). DEDUCED, log 33. -/
def execTxDescriptorSubmit (m q : Nat) (ds : List TxDesc) (s : State) : Host.Outcome State Fault Refusal :=
  whenUpAnd s (decide (m < 7) && decide (q < 4)) fun s =>
    if isUl m then foldS (cutFrames ds) (submitUl q) s else submitTo m q ds s

/-- What a sent frame counts (R258, R268, R269). -/
def countSent (m : Nat) (deferred : Bool) (f : List TxD) (s : State) : State :=
  let x := macOf s m
  let n := wireLen (frameLen f)
  let y := x.txGood n (frameDa f)
  let y := if isFs m && x.colls == 1 then y.count 0x24 1 else if isFs m && 2 ≤ x.colls then y.count 0x25 1 else y
  let y := if frameFwd f then y.count 0x2C 1 else y
  let y := if isFs m && deferred then y.count 0x23 1 else y
  putMac m (if isUl m then y.octets 0 n else y) s

/-- The bytes of a frame that the module formed: an OPEN carries the microseconds from its SFD, `len` bytes ago, to the end of
the window (R273). -/
def madeBytes (s : State) (len : Nat) (e : Nat × List Byte) : List Byte :=
  if e.1 = 1 then e.2.take 18 ++ bytesLE 2 ((winEnd s - (s.now - len * 20)) / 25) ++ e.2.drop 20 else e.2

/-- A frame on the wire: a MAC's own address is the source of what it originates (R251); a forwarded frame keeps its own. -/
def frameOut (m q : Nat) (f : List TxD) (s : State) : Out :=
  .frame m q (frameDa f) ((f.findSome? (fun d => d.fwd)).getD (macAddr s m)) (wireLen (frameLen f))
    ((f.filterMap (fun d => d.made)).flatMap (madeBytes s (wireLen (frameLen f))))
    ((f.filter (fun d => d.made.isNone)).map (fun d => d.d.buf))

/-- BACKOFF_EXPIRY: the frame is tried again (R258). -/
def execBackoffExpiry (m : Nat) (s : State) : Host.Outcome State Fault Refusal :=
  let due := match (macOf s m).backoff with
    | some t => decide (t ≤ s.now)
    | none => false
  whenUpAnd s due fun s => putMac m { macOf s m with backoff := none } s

/-! ### Reception (R253, R262 to R264) -/

/-- A filter entry (R264); FILT0 holds the MAC's address. -/
def filtOf (s : State) (m i : Nat) : Dword :=
  if i = 0 then BitVec.ofNat 64 (2 ^ 63 + (macAddr s m).toNat) else Table.get 0 (macOf s m).filt i

/-- MATCH of a destination (R264): the lowest filter entry, 8 broadcast, 9 multicast; none: rejected. -/
def filterMatch (s : State) (m : Nat) (da : BitVec 48) : Option Nat :=
  match (List.range 8).find? (fun i => (filtOf s m i).getLsbD 63 && (filtOf s m i).setWidth 48 == da) with
  | some i => some i
  | none =>
    if isBroadcast da && (macOf s m).cfg.getLsbD 0 then some 8
    else if isGroup da && (macOf s m).cfg.getLsbD 1 then some 9 else none

/-- STAT of the `i`-th of `n` descriptors of a frame (R262), OWN clear. -/
def rxStat (len mt n i : Nat) : Word :=
  BitVec.ofNat 32 (b2n (i == 0) * 2 ^ 30 + b2n (i + 1 == n) * 2 ^ 29 + (if i = 0 then mt * 2 ^ 20 else 0) +
    (if i + 1 = n then len else 512))

/-- A frame goes into the receive ring (R262), or is lost for want of descriptors (R263): whether it was
delivered. The descriptors filled fall behind the MAC's position. Fewer than 16 descriptors are no ring. DESIGN CHOICE, log
33. -/
def rxDeliver (m mt len : Nat) (s : State) : Bool × State :=
  let x := macOf s m
  let n := (len + 511) / 512
  let mine := x.rx.take n
  if 16 ≤ x.rx.length && n ≤ x.rx.length && mine.all (fun d => d.own) then
    let filled := ((List.range n).zip mine).map (fun e =>
      { e.2 with own := false, stat := rxStat len mt n e.1, ts := if e.1 + 1 = n then sfdTime s m len else e.2.ts })
    (true, putMac m { x with rx := x.rx.drop n ++ filled } s)
  else (false, countMac m 0x16 1 s)

/-- A good frame that is subject to the filter. -/
def rxFilter (m : Nat) (f : RxFrame) (s : State) : Bool × State :=
  match filterMatch s m f.da with
  | none => (false, countMac m 0x15 1 s)
  | some mt => rxDeliver m mt f.len s

/-- A source address is learned or refreshed (R253). -/
def learn (u : Nat) (a : BitVec 48) (s : State) : State :=
  if s.eth.learned.any (fun e => e.1 == a) then
    { s with eth := { s.eth with learned := s.eth.learned.map (fun e => if e.1 == a then (a, u, s.now) else e) } }
  else if s.eth.learned.length < 1024 then
    { s with eth := { s.eth with learned := s.eth.learned ++ [(a, u, s.now)] } }
  else s

/-- The queue of a forwarded frame (R260). -/
def fwdQueue (f : RxFrame) : Nat :=
  match f.pcp with
  | some p => p % 8 / 2
  | none => if f.etype == 0x88F7 || f.udpPort == 319 || f.udpPort == 320 then 3 else 0

/-- A frame is forwarded out of an uplink, if its queue and the shared buffer hold it (R253). DEDUCED, log 33. -/
def forward (u : Nat) (f : RxFrame) (s : State) : State :=
  let x := macOf s u
  let q := fwdQueue f
  if !macLive s u then countMac u 0x29 1 s
  else
    let used := (((ringOf x q).filter (fun d => d.own && d.fwd.isSome)).map (fun d => d.d.len + 4)).sum
    if 49_152 < used + f.len || 196_608 < s.eth.fwdBytes + f.len then countMac u 0x2D 1 s
    else
      let d : TxDesc := { buf := 0, fs := true, ls := true, tsreq := false, len := f.len - 4, da := f.da }
      let e : TxD := { d := d, own := true, err := 0, ts := 0, fwd := some f.sa, at_ := s.now, made := none }
      let s := { s with eth := { s.eth with fwdBytes := s.eth.fwdBytes + f.len } }
      startNext u (putMac u { x with txq := Table.set [] x.txq q (ringOf x q ++ [e]) } s)

/-- The addresses that are never forwarded (R253). -/
def isLinkLocal (f : RxFrame) : Bool := f.da.toNat / 16 == 0x0180_C200_000 || f.etype == 0x8808

/-- The switch: whether the frame is delivered to the host port (R253), which takes nothing in recovery (R404). -/
def hostPort (u : Nat) (f : RxFrame) (s : State) : Bool × State :=
  if s.power.mode = .up then rxFilter u f s else (false, s)

/-- A good frame on an uplink: whether it is delivered. One that the table of R253 does not deliver counts as filtered
(R264). -/
def switchFrame (u : Nat) (f : RxFrame) (s : State) : Bool × State :=
  if isLinkLocal f || f.da == macAddr s 0 then hostPort u f s
  else if isGroup f.da then
    let r := hostPort u f s
    (r.1, forward (1 - u) f r.2)
  else
    let s := countMac u 0x15 1 s
    (false, if learnedOn s f.da = some u then s else forward (1 - u) f s)

/-- What the module reads in a delivered frame: an MSL telegram (R241, R243, R245). A field-exchange frame of another version
or kind, or whose DLEN does not match its kind, is discarded (R273); replies and acyclic frames have rows of their own. DEDUCED, log 32. -/
def readFrame (m : Nat) (f : RxFrame) (s : State) : State :=
  let s := if f.srcIp = 0 then s else { s with eth := { s.eth with nbr := Table.set none s.eth.nbr f.srcIp.toNat (some f.sa) } }
  if isFs m && f.etype == 0x88B5 then
    if f.vk = 0x15 then
      if f.dlen = f.telegram.length ∧ 20 ≤ f.dlen ∧ f.dlen ≤ 64 then
        mslForward (m - 1) (fun i => (mslCfg s i).addr.toNat % 256 == f.srcNode) f.telegram s
      else countMac m 0x34 1 s
    else if f.vk = 0x13 || f.vk = 0x14 then s
    else countMac m 0x34 1 s
  else if isUl m && f.udpPort == 4871 && s.eth.ipAddr.isSome then
    mslForward 7 (fun i => (mslCfg s i).addr == f.srcIp) f.telegram s
  else s

/-- The class of a frame that is not good (R268), checked in this order; none: RXOK. -/
def rxClass (f : RxFrame) : Option Nat :=
  if f.phyError then some 0x12
  else if !f.fcsOk && !f.wholeOctets then some 0x11
  else if !f.fcsOk && 64 ≤ f.len && f.len ≤ 1522 then some 0x10
  else if !f.fcsOk && 1522 < f.len then some 0x0F
  else if 1522 < f.len then some 0x0E
  else if !f.fcsOk then some 0x0D
  else if f.len < 64 then some 0x0C
  else none

/-- FRAME_RECEIVE: a MAC receives a frame (R253, R260 to R264, R268, R270). DEDUCED, log 32. -/
def execFrameReceive (m : Nat) (f : RxFrame) (s : State) : Host.Outcome State Fault Refusal :=
  whenSwitch s (macLive s m && macRuns s m) fun s =>
    let s := if isUl m then putMac m ((macOf s m).octets f.len 0) s else s
    let s := if isUl m && f.fcsOk then learn m f.sa s else s
    match rxClass f with
    | some i => countMac m i 1 s
    | none =>
      let x := (macOf s m).rxGood f.len f.da
      let x := if f.pcp.isSome then x.count 0x05 1 else x
      let s := putMac m (if f.etype == 0x8808 then x.count 0x14 1 else x) s
      -- a mixing segment only counts MAC control frames (R266); a frame that overran the FIFO is gone (R263)
      let r := if f.fifoOverrun then (false, countMac m 0x17 1 s) else if isUl m then switchFrame m f s else if isFs m && f.etype == 0x8808 then (false, s) else rxFilter m f s
      if r.1 then readFrame m f r.2 else r.2

/-- RX_DESCRIPTOR_RETURN: firmware gives buffers to the receive ring by OWN (R262, R263); a buffer that the ring
does not hold is a new descriptor, up to 1,024, behind those that the MAC owns. The ring is as long as the buffers
given, from 16 on. DESIGN CHOICE, log 33. -/
def execRxDescriptorReturn (m : Nat) (bufs : List Word) (s : State) : Host.Outcome State Fault Refusal :=
  whenUpAnd s (decide (m < 7)) fun s =>
    foldS (bufs.filter (fun b => b.toNat % 512 == 0)) (fun b t =>
      let x := macOf t m
      if x.rx.any (fun d => d.buf == b) then
        putMac m { x with rx := x.rx.map (fun d => if d.buf == b then { d with own := true, stat := 0 } else d) } t
      else if x.rx.length < 1024 then putMac m { x with rx := x.rx.takeWhile (fun d => d.own) ++ [⟨b, true, 0, 0⟩] ++ x.rx.dropWhile (fun d => d.own) } t
      else t) s

/-- ADDRESS_AGEOUT: an entry not refreshed for 300 s leaves the table (R253). -/
def execAddressAgeout (addr : BitVec 48) (s : State) : Host.Outcome State Fault Refusal :=
  whenSwitch s true fun s =>
    { s with eth := { s.eth with
        learned := s.eth.learned.filter (fun e => e.1 != addr || decide (s.now < e.2.2 + secT 300)) } }

/-! ### Links and rates (R255 to R257) -/

/-- The fields of DSCFG (R255). -/
def dsWord (s : State) (u : Nat) : Word := Table.get 0x003C_3C02 s.eth.dscfg u
def dsWait (s : State) (u : Nat) : Nat := bitsOf (dsWord s u) 23 16
def dsHold (s : State) (u : Nat) : Nat := secT (10 * bitsOf (dsWord s u) 15 8)
def dsMin (s : State) (u : Nat) : Nat := bitsOf (dsWord s u) 1 0

/-- A link goes down: its learned entries are flushed, and what is queued for it is discarded. -/
def loseLink (m : Nat) (s : State) : State :=
  let x := macOf s m
  if x.linkUp then
    let s := putMac m ({ x with linkUp := false, busy := none, colls := 0, backoff := none }.count 0x31 1) s
    dropAll m { s with eth := { s.eth with learned := s.eth.learned.filter (fun e => e.2.1 != m) } }
  else s

/-- LINK_DOWN (R253, R257, R269). -/
def execLinkDown (m : Nat) (s : State) : Host.Outcome State Fault Refusal :=
  whenSwitch s (macRuns s m && (isUl m || m == 6)) fun s => loseLink m s

/-- An uplink restarts auto-negotiation with an advertisement: 0 every rate, 1 100 Mbit/s, 2 10 Mbit/s. -/
def renegotiate (u adv : Nat) (s : State) : State :=
  let s := loseLink u s
  putMac u { macOf s u with reneg := some (adv, s.now), quiet := 0 } s


/-- A change may not start while the other uplink's link is down or renegotiating (R257). -/
def rateBarred (s : State) (u : Nat) : Bool :=
  let x := macOf s u
  let y := macOf s (1 - u)
  !x.linkUp || x.reneg.isSome || !y.linkUp || y.reneg.isSome

/-- The MSL set as committed or as the pair has it uses an entry with NET 7 (R257). -/
def mslUsesUl (s : State) : Bool :=
  (List.range 32).any (fun i => slotUsed s i && (mslEnt s i).net == 7) ||
    (parseMsl (mslBytes s)).ents.any (fun e => e.connid != 0 && e.net == 7)

/-- Uplinks that are to upshift for an MSL set do so one after the other (R257). -/
def mslUpshift (s : State) : State :=
  foldS s.eth.wantUp (fun u t =>
    if (macOf t u).rate = 0 then { t with eth := { t.eth with wantUp := t.eth.wantUp.filter (fun v => v != u) } }
    else if rateBarred t u then t
    else renegotiate u 0 { t with eth := { t.eth with wantUp := t.eth.wantUp.filter (fun v => v != u) } }) s

/-- An MSL set that uses the uplinks takes effect: an uplink below 1000 Mbit/s upshifts (R257). -/
def mslSetUp (s : State) : State :=
  if mslUsesUl s then
    mslUpshift { s with eth := { s.eth with wantUp := [0, 1].filter (fun u => (macOf s u).rate != 0) } }
  else s

/-- LINK_UP: the link is up at a rate; a rate change completes (R256), and a rate other than the last is recorded, also
after a change that failed (R257). -/
def execLinkUp (m rate : Nat) (s : State) : Host.Outcome State Fault Refusal :=
  whenSwitch s (macRuns s m && (isUl m || m == 6) && !(macOf s m).linkUp) fun s =>
    let x := macOf s m
    let r := if m = 6 then 1 else rate
    let y := { x with linkUp := true, wasUp := true, rate := r, reneg := none, quiet := 0, oct1 := (0, 0), oct01 := (0, 0) }
    let z := match x.reneg with
      | some (0, _) => if r < x.rate then { y.count 0x2F 1 with holdTo := max y.holdTo (s.now + dsHold s m) } else y
      | some (adv, _) => if r = adv ∧ x.rate < r then y.count 0x2E 1 else y
      | none => y
    let s := putMac m z s
    mslUpshift (if x.wasUp && r != x.rate then netEvent m 1 s else s)

/-- RATE_WINDOW_1S: a quiet window counts toward a downshift (R256). -/
def execRateWindow1s (u : Nat) (s : State) : Host.Outcome State Fault Refusal :=
  whenUpAnd s (isUl u) fun s =>
    let x := macOf s u
    let lim := if x.rate = 0 then 625_000 else 62_500
    let low := x.linkUp && decide (x.oct1.1 < lim) && decide (x.oct1.2 < lim) && decide (x.holdTo + secT 1 ≤ s.now)
    let n := if low then x.quiet + 1 else 0
    let s := putMac u { x with oct1 := (0, 0), quiet := n } s
    if dsWait s u ≤ n ∧ x.rate < dsMin s u ∧ x.failTo ≤ s.now ∧ rateBarred s u = false ∧ mslUsesUl s = false then
      renegotiate u (x.rate + 1) s
    else s

/-- An upshift starts (R256). -/
def upshift (u : Nat) (s : State) : State :=
  if (macOf s u).rate != 0 && !rateBarred s u then renegotiate u 0 s else s

/-- RATE_WINDOW_100MS: more than half the rate in either direction (R256). -/
def execRateWindow100ms (u : Nat) (s : State) : Host.Outcome State Fault Refusal :=
  whenUpAnd s (isUl u) fun s =>
    let x := macOf s u
    let half := if x.rate = 1 then 625_000 else 62_500
    let s := putMac u { x with oct01 := (0, 0) } s
    if half < x.oct01.1 ∨ half < x.oct01.2 then upshift u s else s

/-- QUEUE_WAIT_UPSHIFT: a frame has waited 10 ms in a queue of the uplink (R256). -/
def execQueueWaitUpshift (u q : Nat) (s : State) : Host.Outcome State Fault Refusal :=
  let x := macOf s u
  let fs := (framesOf (ringOf x q)).map (descsAt (ringOf x q))
  let waiting := if x.busy = some q then fs.tail else fs
  whenUpAnd s (isUl u && waiting.any (fun f => f.any (fun d => decide (d.at_ + msT 10 ≤ s.now)))) fun s => upshift u s

/-- RATE_CHANGE_FAIL: the link is not up 5 s after its advertisement: every rate is advertised from here (R256). -/
def execRateChangeFail (u : Nat) (s : State) : Host.Outcome State Fault Refusal :=
  let due := match (macOf s u).reneg with
    | some (_, t) => decide (t + secT 5 ≤ s.now)
    | none => false
  whenUpAnd s (isUl u && due) fun s =>
    putMac u ({ macOf s u with reneg := none, failTo := s.now + secT 3600 }.count 0x30 1) s

/-! ### PAUSE (R266, R267) -/

def pauseWd (s : State) (m : Nat) : Nat := msT (bitsOf (macOf s m).cfg 31 22)

/-- A PAUSE frame of 64 bytes as received. -/
def pauseRx (sa : BitVec 48) : RxFrame :=
  { da := 0x0180_C200_0001, sa := sa, len := 64, fcsOk := true, wholeOctets := true, phyError := false, fifoOverrun := false
    pcp := none, etype := 0x8808, udpPort := 0, ptpEvent := false, ptpDomain := 0, vk := 0, srcNode := 0, dlen := 0, srcIp := 0
    telegram := [] }

/-- PAUSE_FRAME: a good PAUSE frame of 64 bytes to 01-80-C2-00-00-01 (R266 to R268). On an uplink its source is learned, and
it is delivered subject to the filter as on SVC (R253, R264). -/
def execPauseFrame (m : Nat) (f : PauseRx) (s : State) : Host.Outcome State Fault Refusal :=
  whenSwitch s (macLive s m && macRuns s m) fun s =>
    let s := if isUl m then learn m f.sa s else s
    let s := if isFs m then s else (hostPort m (pauseRx f.sa) s).2
    let x := ((macOf s m).rxGood 64 0x0180_C200_0001).count 0x13 1
    let x := if isUl m then x.octets 64 0 else x
    let inBreak := match x.pauseOff with
      | some t => decide (s.now < t)
      | none => false
    if isFs m || inBreak then putMac m x s
    else if f.quanta = 0 then startNext m (putMac m { x with hold := none } s)
    else
      let ends := s.now + slotTicks (macRate s m) f.quanta.toNat
      let renewed := match x.hold with
        | some h => decide (s.now ≤ h.ends)
        | none => false
      if renewed then putMac m { x with hold := x.hold.map (fun h => { h with ends := ends }) } s
      else putMac m ({ x with hold := some ⟨s.now, ends⟩ }.count 0x2A 1) s

/-- PAUSE_HOLD_END: the pause time runs out (R266). -/
def execPauseHoldEnd (m : Nat) (s : State) : Host.Outcome State Fault Refusal :=
  let due := match (macOf s m).hold with
    | some h => decide (h.ends ≤ s.now)
    | none => false
  whenSwitch s (macRuns s m && due) fun s => startNext m (putMac m { macOf s m with hold := none } s)

/-- PAUSE_WATCHDOG: a hold renewed throughout PAUSEWD ends, and PAUSE is ignored for 1 s (R267). -/
def execPauseWatchdog (m : Nat) (s : State) : Host.Outcome State Fault Refusal :=
  let due := match (macOf s m).hold with
    | some h => decide (h.began + pauseWd s m ≤ s.now) && decide (h.began + pauseWd s m ≤ h.ends)
    | none => false
  whenSwitch s (macRuns s m && due) fun s =>
    let x := macOf s m
    let t0 := (x.hold.map (fun h => h.began)).getD s.now
    let y := { x with hold := none, pauseOff := some (t0 + pauseWd s m + secT 1) }.count 0x2B 1
    startNext m (netEvent m 0 (putMac m y s))

/-- PAUSE_BREAK_END: PAUSE is obeyed again (R267). -/
def execPauseBreakEnd (m : Nat) (s : State) : Host.Outcome State Fault Refusal :=
  let due := match (macOf s m).pauseOff with
    | some t => decide (t ≤ s.now)
    | none => false
  whenSwitch s (macRuns s m && due) fun s => putMac m { macOf s m with pauseOff := none } s

end Sys2Proof.Machine
end

