-- ==== Sys2Proof/Machine/Exchange.lean ====
section
/-! DEFINITION. The field exchange on segments 1 to 4 (R43, R50, R51, R273 to R276, R319): windows, requests and
replies, the input phase of its devices, and acyclic requests. Segment g is served by MAC g + 1. -/

namespace Sys2Proof.Machine
open Sys2Proof

def devRt (s : State) (key : Nat) : DevRt := Table.get DevRt.zero s.eth.devRt key
def putDevRt (key : Nat) (r : DevRt) (s : State) : State :=
  { s with eth := { s.eth with devRt := Table.set DevRt.zero s.eth.devRt key r } }
def putWin_ (g : Nat) (w : SegWin) (s : State) : State :=
  { s with eth := { s.eth with win := Table.set SegWin.none s.eth.win g w } }

/-- An entry is exchanged at all (R274). -/
def DevEnt.exchanged (d : DevEnt) : Bool := decide (0 < d.outCnt + d.inCnt)

def DevEnt.outPts (d : DevEnt) : List Nat := (List.range d.outCnt).map (fun i => d.outFirst + i)
def DevEnt.inPts (d : DevEnt) : List Nat := (List.range d.inCnt).map (fun i => d.inFirst + i)

/-- The entries of a segment with their keys. -/
def segDevs (s : State) (g : Nat) : List (Nat × DevEnt) :=
  s.eth.dev.filterMap (fun e => match e.2 with
    | some d => if e.1 / 16 = g then some (e.1, d) else none
    | none => none)

/-- A list put in ascending order of a number. -/
def insertBy {α : Type} (f : α → Nat) (a : α) : List α → List α
  | [] => [a]
  | b :: t => if f a ≤ f b then a :: b :: t else b :: insertBy f a t
def sortBy {α : Type} (f : α → Nat) (l : List α) : List α := l.foldr (insertBy f) []

/-! ### Frames (R273, R276) -/

/-- The bytes of a field-exchange frame of the module from its EtherType on (R273): the header, then the data. -/
def fxBytes (s : State) (kind dst flags : Nat) (seq : Half) (data : List Byte) : List Byte :=
  [0x88, 0xB5, BitVec.ofNat 8 (16 + kind), 0, BitVec.ofNat 8 dst, BitVec.ofNat 8 flags] ++ bytesLE 2 seq.toNat ++
    bytesLE 2 s.slate.halfcnt.toNat ++ bytesLE 2 data.length ++ List.replicate 6 0 ++ data

/-- The queue of each kind of frame on a segment (R260). -/
def fxQueue (kind : Nat) : Nat := if kind = 5 then 3 else if kind = 4 then 1 else 2

/-- A frame waits in its queue of a segment (R260, R273). -/
def fxSend (g kind dst flags : Nat) (seq : Half) (da : BitVec 48) (data : List Byte) (s : State) : State :=
  queueMade (g + 1) (fxQueue kind) kind da (fxBytes s kind dst flags seq data) s

/-- An FX frame is received (R268). DESIGN CHOICE, log 13. -/
def fxReceived (g dlen : Nat) (s : State) : State :=
  putMac (g + 1) ((macOf s (g + 1)).rxGood (fxLen dlen) (macAddr s (g + 1))) s

/-! ### The window (R43, R275, R438) -/

/-- The windows of a half-period, before they open: the entries whose class begins a take, not its first one. DEDUCED, log 34. -/
def prepWindows (s : State) : State :=
  foldS [1, 2, 3, 4] (fun g t =>
    let due := sortBy (fun e => e.2.node) ((segDevs t g).filter (fun e => e.2.exchanged &&
      beginsTake t t.slate.halfcnt e.2.cls && !(takeOf t e.2.cls).firstTake))
    startNext (g + 1) (putWin_ g { SegWin.none with ready := true, todo := due.map (fun e => e.1) } t)) s

/-- An exchange is missed (R50, R51, R269). -/
def missExchange (g key : Nat) (s : State) : State :=
  countMac (g + 1) 0x32 1 (putDevRt key { devRt s key with missed := true, ret := .discard, input := none } s)

/-- The values of a device's EXREQ: as handed off, a loop's output as last written (R146), with forced values (R133). -/
def exOuts (s : State) (d : DevEnt) (r : DevRt) : List Word :=
  (List.range d.outCnt).map (fun i =>
    let pt := d.outFirst + i
    match frozen s pt with
    | some v => v
    | none => if isLoopOut s pt then (rawPoint s pt).val else r.outs.getD i (rawPoint s pt).val)

/-- A device's request goes to its queue; its wait begins when it has been sent. DEDUCED, log 34. -/
def sendExreq (g key : Nat) (d : DevEnt) (s : State) : State :=
  let r := devRt s key
  let full := r.ret == .sendFull
  let seq := r.seq + 1
  let s := putDevRt key { r with seq := seq, full := full, started := true } s
  let s := putWin_ g { winOf s g with cur := some key, reqAt := none } s
  fxSend g 2 d.node (b2n full) seq d.mac ((exOuts s d r).flatMap (fun w => bytesLE 4 w.toNat)) s

/-- The exchanges still to do: the next begins, unless it could not complete in the window (R275 step 5). -/
def nextExchange (g : Nat) : List Nat → State → State
  | [], s => startNext (g + 1) (putWin_ g { winOf s g with todo := [], cur := none } s)
  | key :: rest, s =>
    match devOf s key with
    | none => nextExchange g rest s
    | some d =>
      if winEnd s < s.now + fxExch d then nextExchange g rest (missExchange g key s)
      else sendExreq g key d (putWin_ g { winOf s g with todo := rest } s)

/-- EXCHANGE_WINDOW_OPEN: from offset 32, before the output phase of class 0, OPEN is sent and the exchanges begin (R43,
R275). -/
def execExchangeWindowOpen (g : Nat) (s : State) : Host.Outcome State Fault Refusal :=
  whenUpAnd s (decide (1 ≤ g) && decide (g ≤ 4) && (winOf s g).ready && !(winOf s g).isOpen &&
      decide (32 ≤ offsetNow s) && decide (offsetNow s < (clsCfg s 0).outph)) fun s =>
    let mask := (List.range 4).foldl (fun a k => a + b2n (beginsTake s s.slate.halfcnt k) * 2 ^ k) 0
    let s := putWin_ g { winOf s g with ready := false, isOpen := true } s
    fxSend g 1 0xFF 0 0 (BitVec.allOnes 48) ([0, 0, BitVec.ofNat 8 mask] ++ List.replicate 5 0) s

/-- A reply answers the request in all but its time (R275). -/
def replyFits (d : DevEnt) (r : DevRt) (x : ExReply) : Bool :=
  x.srcMac == d.mac && x.src == d.node && x.dst == 0 && x.seq == r.seq && x.data.length == d.inCnt &&
    x.ackFull == r.full

/-- A reply comes too late: its SFD after RESPTO has passed since the request's last bit, or after the window (R43, R275). -/
def replyLate (s : State) (g : Nat) (d : DevEnt) (x : ExReply) : Bool :=
  x.late || x.closed || decide (winEnd s ≤ s.now) || (match (winOf s g).reqAt with
    | some t => decide (t + usT d.respto + (fxLen (4 * x.data.length) + 1) * 20 ≤ s.now)
    | none => true)

/-- An accepted reply (R51): after a missed exchange its data are discarded, and the complete image follows. -/
def acceptReply (key : Nat) (x : ExReply) (s : State) : State :=
  let r := devRt s key
  match r.ret with
  | .discard => putDevRt key { r with ret := .sendFull, input := none } s
  | _ => putDevRt key { r with ret := .ok, input := some (x.data, x.inval) } s

/-- EXREP: a device's reply (R43, R275). One of the device in exchange ends its wait; one of a device whose exchange has
been missed is late; any other is discarded, and the wait goes on. -/
def execExrep (g : Nat) (x : ExReply) (s : State) : Host.Outcome State Fault Refusal :=
  whenUpAnd s (decide (1 ≤ g) && decide (g ≤ 4)) fun s =>
    let s := fxReceived g (4 * x.data.length) s
    let w := winOf s g
    match (segDevs s g).find? (fun e => e.2.mac == x.srcMac) with
    | none => countMac (g + 1) 0x34 1 s
    | some (key, d) =>
      let fits := replyFits d (devRt s key) x
      if w.cur = some key then
        let s :=
          if !fits then missExchange g key (countMac (g + 1) 0x34 1 s)
          else if replyLate s g d x then missExchange g key (countMac (g + 1) 0x33 1 s)
          else acceptReply key x s
        nextExchange g w.todo s
      else countMac (g + 1) (if fits && (devRt s key).missed then 0x33 else 0x34) 1 s

/-- EXCHANGE_TIMEOUT: RESPTO has passed since the last bit of the request's FCS (R275). -/
def execExchangeTimeout (g : Nat) (s : State) : Host.Outcome State Fault Refusal :=
  let w := winOf s g
  let due := match w.cur, w.reqAt with
    | some key, some t => match devOf s key with
      | some d => decide (t + usT d.respto ≤ s.now)
      | none => true
    | _, _ => false
  whenUpAnd s due fun s => nextExchange g w.todo (missExchange g (w.cur.getD 0) s)

/-- Requests that wait in the queue of a segment and are not on the wire are withdrawn. -/
def withdrawReqs (g : Nat) (s : State) : State :=
  let m := g + 1
  let x := macOf s m
  let l := ringOf x 2
  let head := if x.busy = some 2 then ((framesOf l).head?).getD [] else []
  let keep (e : Nat × TxD) : Bool := head.contains e.1 || !(match e.2.made with
    | some (2, _) => true
    | _ => false)
  putMac m (x.putRing 2 ((((List.range l.length).zip l).filter keep).map (fun e => e.2))) s

/-- The window closes: what is not done is missed. -/
def closeWindow (g : Nat) (s : State) : State :=
  let w := winOf s g
  let s := foldS (w.cur.toList ++ w.todo) (fun key => missExchange g key) (withdrawReqs g s)
  startNext (g + 1) (putWin_ g SegWin.none s)

/-! ### The end of a transmission (R258, R260, R261, R275) -/

/-- What follows the end of a frame that the module formed: after OPEN the exchanges begin, after EXREQ the wait for the
reply; a request that was not sent is a missed exchange. -/
def afterMade (m : Nat) (sent : Bool) (f : List TxD) (s : State) : State :=
  let g := m - 1
  let w := winOf s g
  match f.findSome? (fun d => d.made) with
  | some (1, _) => if w.isOpen then nextExchange g w.todo s else s
  | some (2, _) =>
    match w.cur with
    | some key =>
      if w.reqAt.isSome then s
      else if sent then putWin_ g { w with reqAt := some s.now } s
      else nextExchange g w.todo (missExchange g key s)
    | none => s
  | _ => s

/-- A request that has waited until its exchange no longer fits is not started: the exchange is missed (R275). -/
def dropUnfit (g : Nat) (s : State) : State :=
  let w := winOf s g
  match w.cur with
  | some key =>
    if (macOf s (g + 1)).busy.isNone && w.reqAt.isNone && !exchangeFits s g then
      nextExchange g w.todo (missExchange g key (withdrawReqs g s))
    else s
  | none => s

/-- The frame in progress ends, and what follows it. -/
def finishFrame (m err : Nat) (s : State) : State :=
  let q := (macOf s m).busy.getD 0
  let f := (headFrame (macOf s m) q).getD []
  let s := retireHead m q err s
  let s := afterMade m (err == 0) f (putMac m { macOf s m with busy := none, colls := 0, backoff := none } s)
  let s := startNext m s
  if isFs m then dropUnfit (m - 1) s else s

/-- FRAME_TRANSMIT_DONE: the frame in progress is sent or discarded, its descriptors come back, and the next frame
starts (R260, R261). -/
def execFrameTransmitDone (m : Nat) (r : TxEnd) (s : State) : Host.Outcome State Fault Refusal :=
  whenSwitch s (macRuns s m && (macOf s m).busy.isSome && (macOf s m).backoff.isNone) fun s =>
    match r with
    | .sent deferred =>
      let q := (macOf s m).busy.getD 0
      let f := (headFrame (macOf s m) q).getD []
      finishFrame m 0 (emit (frameOut m q f s) (countSent m deferred f s))
    | .underrun => finishFrame m 4 (countMac m 0x28 1 s)
    | .linkDown => finishFrame m 5 (countMac m 0x29 1 s)

/-- COLLISION: on a mixing segment: after the first 512 bits the frame is lost; else the frame is tried again
after a back-off of free choice, up to the sixteenth attempt (R258). -/
def execCollision (m : Nat) (late : Bool) (s : State) : Host.Outcome State Fault Refusal :=
  whenUpAnd s (isFs m && (macOf s m).busy.isSome && (macOf s m).backoff.isNone) fun s =>
    let x := macOf s m
    let k := x.colls + 1
    if late then finishFrame m 3 (countMac m 0x26 1 s)
    else if 16 ≤ k then finishFrame m 2 (countMac m 0x27 1 s)
    else
      let r := drawIn 0 (2 ^ min k 10) s
      putMac m { x with colls := k, backoff := some (r.2.now + r.1 * 1280) } r.2

/-! ### Hand-off and the input phase (R48 to R51) -/

/-- The outputs of a take of a class are handed off to its devices' transmit buffers (R40): `v` gives a point's value,
`ovr` the stages that hand nothing off. -/
def handOffDevs (k : Nat) (ovr : Nat → Bool) (v : Nat → Nat → Word) (s : State) : State :=
  foldS s.eth.dev (fun e t => match e.2 with
    | some d =>
      if d.cls = k then
        putDevRt e.1 { devRt t e.1 with next := if ovr d.stage then none else some (d.outPts.map (v d.stage)) } t
      else t
    | none => t) s

/-- What a take handed off goes in its devices' next exchange (R41, R43). -/
def releaseDevs (k : Nat) (s : State) : State :=
  foldS s.eth.dev (fun e t => match e.2 with
    | some d =>
      let r := devRt t e.1
      if d.cls = k then putDevRt e.1 { r with outs := r.next.getD r.outs, next := none } t else t
    | none => t) s

/-- A device at an input phase of its class: its reply enters, or its points age (R275, R48 to R51). -/
def devInput (key : Nat) (d : DevEnt) (s : State) : State :=
  let r := devRt s key
  match r.input with
  | some (data, inval) =>
    let s := foldS (List.range d.inCnt) (fun i =>
      enterPt (d.inFirst + i) (data.getD i 0) (if inval.getLsbD i then 0x80 else 0x01)) s
    let s := foldS d.outPts (undelivPt false) s
    putDevRt key { r with input := none, missed := false, fresh := Fresh.got s.now } s
  | none =>
    let m := r.fresh.miss (freshF s d.f d.cls) d.h s.now
    let s := missPts d.inPts m s
    let s := if r.missed then foldS d.outPts (undelivPt true) s else s
    putDevRt key { r with missed := false, fresh := m.2.2 } s

/-- The input phase of the devices of the classes that begin a take. -/
def fieldInput (s : State) : State :=
  foldS s.eth.dev (fun e t => match e.2 with
    | some d => if d.exchanged && beginsTake t t.slate.halfcnt d.cls then devInput e.1 d t else t
    | none => t) s

/-! ### Acyclic requests (R43, R319) -/

/-- No window is open on a segment, nor about to open in this half-period. -/
def outsideWindow (s : State) (g : Nat) : Bool := !(winOf s g).ready && !(winOf s g).isOpen

/-- The next SEQ toward a node of a segment (R273): its device's, which the module increments; a node that is in no entry
counts from 0. -/
def nextSeq (g node : Nat) (s : State) : Half × State :=
  match (segDevs s g).find? (fun e => e.2.node == node) with
  | some e =>
    let r := devRt s e.1
    (r.seq + 1, putDevRt e.1 { r with seq := r.seq + 1 } s)
  | none => (0, s)

/-- A DEVREQ's ACYC frame is sent. -/
def sendAcyc (g node : Nat) (r : DevReq) (s : State) : State :=
  let da := (((segDevs s g).find? (fun e => e.2.node == node)).map (fun e => e.2.mac)).getD 0
  fxSend g 4 node 0 r.seq da r.data s

/-- ACYC: a device's acyclic frame completes the request with its SEQ (R273, R319); any other is discarded. -/
def execAcyc (g node : Nat) (seq : Half) (data : List Byte) (s : State) : Host.Outcome State Fault Refusal :=
  whenUpAnd s (decide (1 ≤ g) && decide (g ≤ 4)) fun s =>
    let s := fxReceived g data.length s
    let key := devKey g node
    if 256 < data.length then countMac (g + 1) 0x34 1 s
    else
      match devQueue s key with
      | r :: _ => if r.sent && r.seq == seq then endDev key 0 data s else s
      | [] => s

end Sys2Proof.Machine
end

