-- ==== Sys2Proof/Machine/Barrier.lean ====
section
/-! DEFINITION. The frames of the barrier and what they carry (R168 to R174), its links (R171, R172), and the
local input points as bursts bring them (R173, R178, R179, R187, R224). -/

namespace Sys2Proof.Machine
open Sys2Proof

/-! ### Core to field -/

/-- IDLE: the field side's follower hears the half-period and the last period (R168, R170). -/
def execIdleFrame (h : FrameHdr) (s : State) : Host.Outcome State Fault Refusal :=
  toField 0x00 0 (bytesLE 2 s.slate.halfcnt.toNat ++ wordBytes [s.slate.slatePer]) h (fun s =>
    { s with field := { s.field with folHalf := s.slate.halfcnt.setWidth 16, folPer := s.slate.slatePer } }) s

/-- A command without the channels that another one names. -/
def OutCmd.without (c d : OutCmd) : OutCmd := { c with doMask := c.doMask &&& ~~~d.doMask, aoMask := c.aoMask &&& ~~~d.aoMask }

/-- Whether a command still has something to do. -/
def OutCmd.live (c : OutCmd) : Bool := c.complete || c.doMask != 0 || c.aoMask != 0

/-- The payload of an OUTCMD (R168): HALFCNT and phase step, DO mask and values, AO mask and values in mV. -/
def OutCmd.bytes (c : OutCmd) : List Byte :=
  bytesLE 4 c.half.toNat ++ bytesLE 2 c.ph ++ bytesLE 2 c.doMask.toNat ++ bytesLE 2 c.doVal.toNat ++
    bytesLE 1 c.aoMask.toNat ++ (List.range 4).flatMap (fun n => bytesLE 2 (aoMv (c.aoVal.getD n 0)).1)

/-- The DO states that will apply at a command's output phase, and the AO states in mV (R168). -/
def willApply (c : OutCmd) (s : State) : Half × List Nat :=
  (BitVec.ofNat 16 ((List.range 16).foldl (fun a n =>
      a + b2n (if c.doMask.getLsbD n then c.doVal.getLsbD n else (doOf s n).cmd) * 2 ^ n) 0),
    (List.range 4).map (fun n => if c.aoMask.getLsbD n then (aoMv (c.aoVal.getD n 0)).1 else (aoOf s n).mv))

/-- The field side holds a command until its phase step; it replaces what is pending for its channels, and what it does not
name stays pending (R170). Its ACK will name the SEQ it came with. -/
def takeOutcmd (k : Nat) (seq : Half) (c : OutCmd) (s : State) : State :=
  let others := (s.field.pend.map (fun e => (e.1, e.2.without c))).filter (fun e => e.2.live)
  let a := willApply c s
  { s with field := { s.field with
    pend := others ++ [(k, c)], acked := Table.set none s.field.acked k (some ⟨c, seq, a.1, a.2⟩) } }

/-- The module notes the SEQ of the first of the two slots in which it sends an OUTCMD. -/
def noteSeq (h : FrameHdr) (k : Nat) (s : State) : State :=
  if h.rep then s else { s with bar := { s.bar with outSeq := Table.set none s.bar.outSeq k (some h.seq) } }

/-- OUTCMD: outputs of one class reach the field side; number 4 holds those of the loop engine (R168, R170). -/
def execOutcmd (h : FrameHdr) (k : Nat) (s : State) : Host.Outcome State Fault Refusal :=
  match Table.get none s.bar.outTx k with
  | some c => whenUp s fun s => fieldSlot 0x01 0 c.1.bytes h (takeOutcmd k h.seq c.1) (noteSeq h k s)
  | none => whenUp s (fieldSlot 0x01 0 [] h id)

/-- The bytes that the module sends in CONFIG frames by offset (log entry 14): the local I/O configuration from
0, the safety set from 0x8000, the MSL set from 0x9000. -/
def configBytes (s : State) (off : Nat) : List Byte :=
  if off < 0x8000 then ((lioBytes s).drop off).take 32
  else if off < 0x9000 then ((safBytes s).drop (off - 0x8000)).take 32
  else ((mslBytes s).drop (off - 0x9000)).take 32

/-- Bytes held from an offset. -/
def holdBytes (off : Nat) (bs : List Byte) (s : State) : State :=
  { s with field := { s.field with
    held := ((List.range bs.length).zip bs).foldl (fun t e => Table.set 0 t (off + e.1) e.2) s.field.held } }

/-- CONFIG: one fragment of 32 bytes. The last fragment of a parameter set gives the set to the pair (R168, R174,
R209, R228). DESIGN CHOICE, log 30. -/
def execConfigFrame (h : FrameHdr) (off : Nat) (s : State) : Host.Outcome State Fault Refusal :=
  toField 0x02 (off / 32 % 256) (bytesLE 2 off ++ configBytes s off) h (fun s =>
    let s := holdBytes off (configBytes s off) s
    if off = 0x8080 then receiveSaf (heldBytes s 0x8000 156) s
    else if off = 0x9200 then receiveMsl (heldBytes s 0x9000 524) s
    else if off < 256 then leaveLoss s
    else s) s

/-- SAFREQ: the request bits reach the pair (R212). -/
def execSafreq (h : FrameHdr) (s : State) : Host.Outcome State Fault Refusal :=
  toField 0x03 0 (bytesLE 3 s.saf.reqTx.toNat) h (fun s => takeRequests s.saf.reqTx s) s

/-- A fragment of 34 bytes joins what has arrived of a telegram; the first one begins it (R244). -/
def joinFragment (have_ tg : List Byte) (sub : Nat) : List Byte :=
  if sub = 0 then tg.take 34
  else if have_.length = 34 * sub then have_ ++ (tg.drop (34 * sub)).take 34
  else have_

/-- The payload of a fragment (R244): slot, length of the telegram, and 34 bytes of it. -/
def fragment (slot sub : Nat) (tg : List Byte) : List Byte :=
  [BitVec.ofNat 8 slot, BitVec.ofNat 8 tg.length] ++ (tg.drop (34 * sub)).take 34

/-- MSL, to the pair: a fragment of a received telegram; a whole one is then the pair's to judge (R244). -/
def execBarrierMslToPair (h : FrameHdr) (slot sub : Nat) (s : State) : Host.Outcome State Fault Refusal :=
  toField 0x04 sub (fragment slot sub (Table.get [] s.msl.toPair slot)) h (fun s =>
    let tg := Table.get [] s.msl.toPair slot
    let got := joinFragment (Table.get [] s.msl.rxPair slot) tg sub
    if got.isEmpty || got.length != tg.length then { s with msl := { s.msl with rxPair := Table.set [] s.msl.rxPair slot got } }
    else { s with msl := { s.msl with
      rxPair := Table.set [] s.msl.rxPair slot [], toPair := Table.set [] s.msl.toPair slot []
      inbox := s.msl.inbox ++ [(slot, got)] } }) s

/-! ### Field to core: status, safety status, telegrams, events -/

/-- A change of a link is recorded: the link, and 0 BAD or 1 good. -/
def linkEvent (l : LinkId) (good : Bool) (s : State) : State :=
  let i := match l with
    | .a => 0
    | .b => 1
  logEv 0x14 4 0 (viewOf 0) 0 (packD [(1, i), (1, b2n good)]) s

def retrainOf (s : State) : LinkId → Option (Nat × Bool)
  | .a => s.bar.retrainA
  | .b => s.bar.retrainB
def setRetrain (l : LinkId) (r : Option (Nat × Bool)) (s : State) : State :=
  match l with
  | .a => { s with bar := { s.bar with retrainA := r } }
  | .b => { s with bar := { s.bar with retrainB := r } }

/-- The module treats a link as BAD from here, and will retrain it, unless it does so already (R171). -/
def linkLost (l : LinkId) (s : State) : State :=
  match retrainOf s l with
  | some _ => s
  | none => linkEvent l false (setRetrain l (some (s.now, false)) s)

/-- STATUS reports how the field side judges the links (R168, R171). -/
def hearLinks (s : State) : State :=
  let a := s.bar.field.a.bad
  let b := s.bar.field.b.bad
  let s := { s with bar := { s.bar with repA := a, repB := b } }
  let s := if a then linkLost .a s else s
  if b then linkLost .b s else s

/-- STATUS: the receive state of the links, supply and temperature, and whether the configuration held agrees (R168,
R174). -/
def execStatusFrame (h : FrameHdr) (supply temp : Word) (s : State) : Host.Outcome State Fault Refusal :=
  toCore 0x20 0 (bytesLE 1 (b2n s.bar.field.a.bad + b2n s.bar.field.b.bad * 2) ++
      wordBytes [crc32 (heldBytes s 0 256), supply, temp]) h (fun s =>
    let s := hearLinks s
    { s with
      power := { s.power with
        vin := supply, lowVin := if s.power.dip.isSome && decide (supply.toNat < s.power.lowVin.toNat) then supply else s.power.lowVin }
      field := { s.field with temp := temp }
      bar := { s.bar with cfgResend := !cfgMatch s } }) s

/-- A SEQ is that of one of the two slots in which an OUTCMD was last sent. -/
def sentWith (s : State) (k : Nat) (seq : Half) : Bool := match Table.get none s.bar.outSeq k with
  | some q => seq == q || seq == q + 1
  | none => false

/-- ACK: the field side has the command of the SEQ that it names, and reports the states that will apply (R168, R173). -/
def execAck (h : FrameHdr) (k : Nat) (s : State) : Host.Outcome State Fault Refusal :=
  let a := (Table.get none s.field.acked k).getD ⟨OutCmd.empty 0 0, 0, 0, []⟩
  toCore 0x22 0 (bytesLE 2 a.seq.toNat ++ bytesLE 2 a.dout.toNat ++ a.ao.flatMap (bytesLE 2)) h (fun s =>
    match Table.get none s.bar.outTx k, Table.get none s.field.acked k with
    | some (c, false), some a =>
      if c = a.cmd ∧ sentWith s k a.seq = true then
        let b := { s.bar with
          outTx := Table.set none s.bar.outTx k (some (c, true)), startFull := s.bar.startFull && !c.complete
          ackDo := a.dout, ackAo := a.ao }
        { s with bar := if c.complete && b.ret == .sendFull then { b with ret := .await, ackAt := s.now } else b }
      else s
    | _, _ => s) s

/-- EVENT: one field-side event enters the log (R168, R225); one of a channel's fault, which R361 does not list and which has
no code, leaves no record. DEDUCED, log 31. -/
def execEventFrame (h : FrameHdr) (s : State) : Host.Outcome State Fault Refusal :=
  whenUp s fun s =>
    let s := endPulses s
    let pay (e : FieldEv) : List Byte := [BitVec.ofNat 8 e.code, BitVec.ofNat 8 e.sev, BitVec.ofNat 8 e.owner,
      BitVec.ofNat 8 e.src] ++ wordBytes [e.view] ++ e.detail
    coreSlot 0x25 0 ((s.field.events.head?.map pay).getD []) h (fun s =>
      match s.field.events with
      | e :: t =>
        let s := { s with field := { s.field with events := t } }
        if e.code = 0 then s else logEv e.code e.sev e.owner e.view e.src e.detail s
      | [] => s) s

/-- The identifier on which the module sends a slot's telegrams on CAN (R242). -/
def mslTxId (slot : Nat) (e : MslEnt) : Word :=
  let i := e.addr.toNat % 2 ^ 29
  BitVec.ofNat 32 (b2n (e.addr.getLsbD 31) * 2 ^ 31 + 2 ^ 30 + (if isConsumer slot then i + 1 else i))

/-- The datagram of a telegram on the uplinks from its EtherType on (R243): IPv4 and UDP headers with the addresses, the
lengths and port 4871, then the telegram. `x` gives what the headers hold besides: TOS, identification, fragment word, TTL
and checksums. DESIGN CHOICE, log 32. -/
def mslDatagram (s : State) (peer : Word) (x tg : List Byte) : List Byte :=
  let be (n v : Nat) : List Byte := (bytesLE n v).reverse
  [0x08, 0x00, 0x45] ++ x.take 1 ++ be 2 (28 + tg.length) ++ (x.drop 1).take 5 ++ [17] ++ (x.drop 6).take 2 ++
    be 4 (s.eth.ipAddr.getD 0).toNat ++ be 4 peer.toNat ++ be 2 4871 ++ be 2 4871 ++ be 2 (8 + tg.length) ++
    (x.drop 8).take 2 ++ tg

/-- A telegram waits in the highest-priority queue of its slot's network, or is discarded and counted while that network
cannot send (R241 to R243, R250). On the uplinks the switch sends it where the peer's address is learned; the Ethernet
address of a peer that has not been heard is a free value. DESIGN CHOICE, log 32. -/
def mslSend (slot : Nat) (tg : List Byte) (s : State) : State :=
  let e := mslCfg s slot
  if !coresUp s then s
  else if !canSend s e.net then { s with msl := { s.msl with discards := s.msl.discards + 1 } }
  else
    let opened := if tgKind tg = 1 && !s.msl.opened.contains slot then slot :: s.msl.opened else s.msl.opened
    let s := { s with msl := { s.msl with opened := opened } }
    if e.net = 5 ∨ e.net = 6 then
      putCan (e.net - 5) ((canOf s (e.net - 5)).enterMsl
        { idw := mslTxId slot e, data := tg, kind := 3, take := 0, ent := slot, enteredAt := s.now, tried := false
          doomed := false, aborted := false }) s
    else if e.net ≤ 4 then
      let node := e.addr.toNat % 256
      let n := nextSeq e.net node s
      let da := (((segDevs s e.net).find? (fun d => d.2.node == node)).map (fun d => d.2.mac)).getD 0
      fxSend e.net 5 node 0 n.1 da tg n.2
    else
      let r := draw s
      let peer := Table.get none s.eth.nbr e.addr.toNat
      let x := draw r.2
      let da := peer.getD (r.1.setWidth 48)
      let bytes := mslDatagram s e.addr (bytesLE 8 r.1.toNat ++ bytesLE 8 x.1.toNat) tg
      foldS (routeUl s da) (fun u => queueMade u 3 6 da bytes) x.2

/-- MSL, from the pair: a whole telegram goes out on its network (R244, R250). -/
def execBarrierMslFromPair (h : FrameHdr) (slot sub : Nat) (s : State) : Host.Outcome State Fault Refusal :=
  toCore 0x24 sub (fragment slot sub (Table.get [] s.msl.fromPair slot)) h (fun s =>
    let tg := Table.get [] s.msl.fromPair slot
    let got := joinFragment (Table.get [] s.msl.rxCore slot) tg sub
    if !tg.isEmpty && got.length == tg.length then
      mslSend slot tg { s with msl := { s.msl with
        fromPair := Table.set [] s.msl.fromPair slot [], rxCore := Table.set [] s.msl.rxCore slot [] } }
    else { s with msl := { s.msl with rxCore := Table.set [] s.msl.rxCore slot got } }) s

/-! ### Local input points (R173, R178, R179) -/

/-- The class whose takes a local input point follows; 4 where it lies in no input object. -/
def localKey (s : State) (pt : Nat) : Nat := (objClass s pt).getD 4

/-- The keys whose input phase is at the start of this half-period. DESIGN CHOICE, log 30. -/
def keysNow (s : State) : List Nat := (classesOn s).filter (beginsTake s s.slate.halfcnt) ++ [4]

/-- The points that an INPUT burst brings, and all that a missing one makes stale. -/
def burstPts (s : State) : List Nat :=
  (List.range 32).map (fun n => 0x100 + n) ++ (List.range 8).map (fun n => 0x130 + n) ++
    (List.range 8).map (fun n => 0x160 + n) ++
    (let b := bitsOf s.field.cfg.gen0 31 22
     if b = 0 then [] else (List.range 32).map (fun i => b * 64 + i))
def localPts (s : State) : List Nat := burstPts s ++ (List.range 31).map (fun i => 0x140 + i)

/-- The status block's word (R179). -/
def statWord (s : State) (b : List (Nat × List Word)) (i : Nat) : Word :=
  if i < 8 then burstWord b 3 i
  else if i < 16 then burstWord b 4 (i - 8)
  else if i < 24 then burstWord b 2 (i - 16)
  else if i < 28 then burstWord b 5 (i - 24)
  else if i = 28 then burstWord b 0 4
  else if i = 29 then s.power.vin
  else if i = 30 then BitVec.ofNat 32 (s.bar.copiesA.toNat + s.bar.copiesB.toNat * 65536)
  else BitVec.ofNat 32 (s.bar.losses.toNat + s.bar.core.diffs.toNat * 256)

/-- An encoder point as a burst brings it (R193): POS carries FAULT without VALID from an error to the next Z, VEL carries
FAULT for the latch that follows an error. -/
def burstEnc (b : List (Nat × List Word)) (i : Nat) : Word × Byte :=
  let w (j : Nat) : Word := if i < 4 then burstWord b 5 (4 + j) else burstWord b 6 j
  (w (i % 4), if i % 4 = 0 && (w 4).getLsbD 0 then 0x80 else if i % 4 = 1 && (w 3).getLsbD 1 then 0x81 else 0x01)

/-- A point's value and quality from a burst; no value where the point keeps its own. -/
def burstPoint (s : State) (b : List (Nat × List Word)) (pt : Nat) : Option Word × Byte :=
  if isDI pt then
    let r := burstDI b (pt - 0x100)
    (some r.1, r.2)
  else if isAI pt then burstAI b (pt - 0x130)
  else if 0x160 ≤ pt ∧ pt < 0x168 then
    let r := burstEnc b (pt - 0x160)
    (some r.1, r.2)
  else (some (statWord s b (pt - bitsOf s.field.cfg.gen0 31 22 * 64)), 0x01)

/-- A point read at its input phase enters the image, and the takes that begin here (R38). -/
def localEnter (pt : Nat) (r : Option Word × Byte) (s : State) : State :=
  patchPt pt (enterPt pt (r.1.getD (rawPoint s pt).val) r.2 s)

/-- Whether the status of a local output in a burst leaves it undelivered (R187, R191). -/
def outBad (b : List (Nat × List Word)) (pt : Nat) : Bool :=
  if isDO pt then
    let n := pt - 0x120
    let c := bitsOf (burstWord b (3 + n / 8) (n % 8)) 7 4
    c == 1 || c == 3 || c == 6
  else
    let w := burstWord b 5 (pt - 0x138)
    w.getLsbD 16 || w.getLsbD 17

/-- The points that an OUTCMD commands. -/
def OutCmd.pts (c : OutCmd) : List Nat :=
  ((List.range 16).filter (fun n => c.doMask.getLsbD n)).map (fun n => 0x120 + n) ++
    ((List.range 4).filter (fun n => c.aoMask.getLsbD n)).map (fun n => 0x138 + n)

/-- All 16 DO and 4 AO points. -/
def localOuts : List Nat := (List.range 16).map (fun n => 0x120 + n) ++ (List.range 4).map (fun n => 0x138 + n)

/-- Outputs whose OUTCMD had no ACK by its output phase are undelivered (R173, R187). DEDUCED, log 35. -/
def undelivered (s : State) : State :=
  let un := s.bar.judged.foldl (fun l e => match e.2 with
    | some (c, ok) => l.filter (fun pt => !c.pts.contains pt) ++ (if ok then [] else c.pts)
    | none => l) s.bar.unacked
  foldS un (undelivPt true) { s with bar := { s.bar with unacked := un } }

/-- The local outputs judged at an input phase: those of the classes whose output phase came before it, those that a
command named, and every AO (R187, R191). DEDUCED, log 35. -/
def judgedNow (s : State) : List Nat := localOuts.filter (fun pt =>
  isAO pt || s.bar.phased.contains (localKey s pt) ||
    s.bar.judged.any (fun e => match e.2 with
      | some (c, _) => c.pts.contains pt
      | none => false))

/-- UNDELIV of the local outputs at an input phase that has its burst (R187, R191). -/
def judgeOutputs (b : List (Nat × List Word)) (s : State) : State :=
  let s := foldS (judgedNow s) (fun pt t => patchPt pt (undelivPt (t.bar.unacked.contains pt || outBad b pt) pt t)) s
  { s with bar := { s.bar with judged := [], phased := [] } }

/-- An input phase without an accepted burst: the points of the classes that begin here, and those of no class,
age (R173, R49). DEDUCED, log 35. -/
def missBurst (s : State) : State :=
  let s := { s with bar := { s.bar with burstDone := true, judged := [] } }
  foldS (keysNow s) (fun k t =>
    let x := Table.get Fresh.start t.bar.fresh k
    let n := x.held + 1
    let y : Fresh := { x with held := n, stale := true, subst := decide (holdH t < n) }
    let t := { t with bar := { t.bar with fresh := Table.set Fresh.start t.bar.fresh k y } }
    foldS ((localPts t).filter (fun pt => localKey t pt == k)) (fun pt u =>
      patchPt pt (if holdH u < n then substPt pt u else stalePt pt u)) t) s

/-- An accepted burst enters the points of the classes that begin here, and those of no class (R170, R173). -/
def acceptBurst (s : State) : State :=
  let b := s.bar.burst
  let keys := keysNow s
  let fresh := keys.foldl (fun t k => Table.set Fresh.start t k (Fresh.got s.now)) s.bar.fresh
  let s := { s with bar := { s.bar with burstDone := true, fresh := fresh } }
  let s := foldS ((burstPts s).filter (fun pt => keys.contains (localKey s pt))) (fun pt t =>
    localEnter pt (burstPoint t b pt) t) s
  judgeOutputs b s

/-- The return of segment 0 is complete (R173): UNDELIV is cleared on every local output. -/
def returnField (s : State) : State :=
  foldS localOuts (fun pt t => patchPt pt (undelivPt false pt t)) { s with bar := { s.bar with ret := .ok, unacked := [] } }

/-- The consecutive complete bursts with a matching configuration that prove a field image (R396). -/
def countBursts (ok : Bool) (s : State) : State :=
  { s with upd := { s.upd with upd := s.upd.upd.map (fun (u : Upd) => { u with bursts := if ok then u.bursts + 1 else 0 }) } }

/-- A complete burst within 48 microseconds of its latch (R173, R51). -/
def burstComplete (s : State) : State :=
  let s := countBursts (cfgMatch s) s
  match s.bar.ret with
  | .ok => acceptBurst s
  | .discard => missBurst { s with bar := { s.bar with ret := .sendFull } }
  | .sendFull => missBurst s
  | .await => if s.bar.ackAt ≤ s.field.latAt then acceptBurst (returnField s) else missBurst s

/-- A word of what a frame reports as measured. -/
def measWord (meas : List Word) (i : Nat) : Word := meas.getD i 0

/-- AI status as a frame carries it (R190): the raw code and the condition. -/
def aiStatus (s : State) (n : Nat) (w : Word) : Word :=
  (w &&& 0x0000_FFFF) ||| BitVec.ofNat 32 ((aiResult s n (w.getLsbD 16)).cond * 2 ^ 16)

/-- VALID of each AI, one bit each. -/
def aiValid (s : State) (meas : List Word) : Word :=
  BitVec.ofNat 32 ((List.range 8).foldl (fun a n => a + b2n (aiResult s n ((measWord meas n).getLsbD 16)).valid * 2 ^ n) 0)

/-- The words of one INPUT frame: what the latch holds, and what the frame reports as measured: SUB 0 the last negative crossing
and the raw word, 1 what the AI converters measured, 2 their raw codes and faults, 3 and 4 ILOAD and RB of the outputs, 5 the
readback and LIM of the AO. Behind the payload of SUB 0, 2, 5 and 6 stands what the core learns beside it: the
comparator faults, VALID of the AI and the position faults. DESIGN CHOICE, log 14. -/
def inputWords (s : State) (sub : Nat) (meas : List Word) : List Word :=
  let f := s.field
  if sub = 0 then [f.latHalf, f.latPos, measWord meas 0, f.latF, measWord meas 1, f.latW, f.latC]
  else if sub = 1 then (List.range 8).map (fun n => (aiResult s n false).val)
  else if sub = 2 then (List.range 8).map (fun n => aiStatus s n (measWord meas n)) ++ [aiValid s meas]
  else if sub = 3 ∨ sub = 4 then
    (List.range 8).map (fun i => f.latDo.getD ((sub - 3) * 8 + i) 0 ||| (measWord meas i &&& 0xFFFF_0001))
  else if sub = 5 then
    (List.range 4).map (fun i => f.latAo.getD i 0 ||| (measWord meas i &&& 0x0002_FFFF)) ++ f.latEnc.take 5
  else f.latEnc.drop 5

/-- The payload of an INPUT frame (R168): 22 bytes in SUB 0, where the crossings take 3 bytes each, 16 in SUB 6 and 32 in the
others. -/
def inputBytes (ws : List Word) (sub : Nat) : List Byte :=
  if sub = 0 then
    wordBytes (ws.take 1) ++ ((ws.drop 1).take 2).flatMap (fun w => bytesLE 3 w.toNat) ++ wordBytes ((ws.drop 3).take 3)
  else wordBytes (ws.take (if sub = 6 then 4 else 8))

/-- A frame joins the burst. A complete burst is the latest for the loop engine whatever becomes of it at its input phase
(R144), which it makes within 48 microseconds of the latch (R173, R52). -/
def takeInput (sub : Nat) (ws : List Word) (s : State) : State :=
  if 7 ≤ sub then s
  else
    let b := s.bar.burst.filter (fun e => e.1 != sub) ++ [(sub, ws)]
    let s := { s with bar := { s.bar with burst := b } }
    if !burstWhole b then s
    else
      let s := { s with bar := { s.bar with lastBurst := b, lastHalf := s.field.latHalf } }
      if s.bar.burstDone || decide (s.field.latAt + usT 48 ≤ s.now) then s else burstComplete s

/-- INPUT: one frame of the burst of a latch (R168, R170, R173). DESIGN CHOICE, log 60. -/
def execInputFrame (h : FrameHdr) (sub : Nat) (meas : List Word) (s : State) : Host.Outcome State Fault Refusal :=
  whenUp s fun s =>
    let s := if sub = 1 ∧ h.rep = false then { s with field := { s.field with latAi := meas } } else s
    coreSlot 0x21 sub (inputBytes (inputWords s sub meas) sub) h (fun s => takeInput sub (inputWords s sub meas) s) s

/-- BURST_DEADLINE: 48 microseconds after the latch the burst is not complete (R173). -/
def missedDeadline (s : State) : State :=
  missBurst (countBursts false { s with bar := { s.bar with ret := .discard } })
def execBurstDeadline (s : State) : Host.Outcome State Fault Refusal :=
  whenUpAnd s (s.slate.started && !s.bar.burstDone && decide (s.field.latAt + usT 48 ≤ s.now)) missedDeadline

/-- SAFSTAT: one frame of the safety status, eight points of P 0x0140 to 0x015F (R168, R224). They enter the image within
48 microseconds of the latch (R38, R170). -/
def execSafstat (h : FrameHdr) (sub : Nat) (s : State) : Host.Outcome State Fault Refusal :=
  toCore 0x23 sub (wordBytes ((List.range 8).map (fun i => safWord s (8 * sub + i)))) h (fun s =>
    if 4 ≤ sub then s
    else
      let b := s.bar.satBurst.filter (fun e => e.1 != sub) ++ [(sub, (List.range 8).map (fun i => safWord s (8 * sub + i)))]
      let s := { s with bar := { s.bar with satBurst := b } }
      if satWhole b && s.bar.ret == .ok && decide (s.now < s.field.latAt + usT 48) then
        let keys := keysNow s
        foldS ((List.range 31).filter (fun i => keys.contains (localKey s (0x140 + i)))) (fun i =>
          localEnter (0x140 + i) (some (burstWord b (i / 8) (i % 8)), 0x01)) s
      else s) s

/-- The MSL status points at an input phase (R249): a word not refreshed within 200 ms is STALE. -/
def mslStatPoints (s : State) : State :=
  let b := bitsOf s.msl.gen 31 22
  if b = 0 then s
  else
    let keys := keysNow s
    foldS ((List.range 33).filter (fun i => keys.contains (localKey s (b * 64 + i)))) (fun i t =>
      if i = 32 then enterPt (b * 64 + 32) t.msl.discards 0x01 t
      else
        let old := decide (Table.get 0 t.msl.statAt i + msT 200 ≤ t.now)
        enterPt (b * 64 + i) (Table.get 0 t.msl.statW i) (if old then 0x03 else 0x01) t) s

/-! ### Links (R169, R171, R172) -/

/-- BAD_COPY: a slot in which a copy fails SOF, EOF, CRC, KIND or SEQ, or whose two copies differ (R169). -/
def execBadCopy (toField badA badB : Bool) (x : SlotSeen) (s : State) : Host.Outcome State Fault Refusal :=
  let h : FrameHdr := ⟨!badA, !badB, x.rep, x.seq⟩
  whenUp s fun s => (if toField then slotField h x.differ s else slotCore h x.differ s).2

/-- A link at an end, and the module with it changed. -/
def BarEnd.link (e : BarEnd) : LinkId → LinkEnd
  | .a => e.a
  | .b => e.b
def BarEnd.setLink (e : BarEnd) (l : LinkId) (x : LinkEnd) : BarEnd :=
  match l with
  | .a => { e with a := x }
  | .b => { e with b := x }

/-- LINK_BAD: the fourth slot in a row without a good copy, or 16 bad copies within 1 ms, at one end (R171). The module
hears of the field side's judgement by STATUS. -/
def execLinkBad (l : LinkId) (atField : Bool) (s : State) : Host.Outcome State Fault Refusal :=
  let e := if atField then s.bar.field else s.bar.core
  let x := e.link l
  whenUpAnd s (!x.bad && (decide (4 ≤ x.noGood) || decide (16 ≤ (x.badAt.filter (fun t => s.now < t + msT 1)).length))) fun s =>
    let e' := e.setLink l { x with bad := true }
    if atField then { s with bar := { s.bar with field := e' } }
    else linkLost l { s with bar := { s.bar with core := e' } }

/-- LINK_RETRAIN: an attempt 1 ms after the judgement or after the last attempt (R171). -/
def execLinkRetrain (l : LinkId) (s : State) : Host.Outcome State Fault Refusal :=
  let due := match retrainOf s l with
    | some (t, _) => decide (t + msT 1 ≤ s.now)
    | none => false
  whenUpAnd s due fun s => setRetrain l (some (s.now, true)) s

/-- LINK_GOOD: 2,048 good copies in both directions (R171). -/
def execLinkGood (l : LinkId) (s : State) : Host.Outcome State Fault Refusal :=
  let ok := match retrainOf s l with
    | some (_, tried) => tried
    | none => false
  whenUpAnd s ok fun s =>
    let s := { s with bar := { s.bar with
      field := s.bar.field.setLink l LinkEnd.good, core := s.bar.core.setLink l LinkEnd.good
      repA := s.bar.repA && l != .a, repB := s.bar.repB && l != .b } }
    linkEvent l true (setRetrain l none s)

/-- BARRIER_LOSS: the 25th slot in a row without a good copy on either link, at one end (R172, R173). -/
def execBarrierLoss (atField : Bool) (s : State) : Host.Outcome State Fault Refusal :=
  let e := if atField then s.bar.field else s.bar.core
  whenUpAnd s (!e.loss && decide (25 ≤ e.noGood)) fun s =>
    let e' := { e with loss := true, lossAt := s.now }
    if atField then holdOutputs { s with bar := { s.bar with field := e' } }
    else
      logEv 0x15 6 0 viewAll 0 (packD [(1, 0)]) { s with bar := { s.bar with
        core := e', losses := if s.bar.losses = 0xFF then 0xFF else s.bar.losses + 1, ret := .discard } }

end Sys2Proof.Machine
end

