-- ==== Sys2Proof/Machine/Lanes.lean ====
section
/-! DEFINITION. Sections on lane pairs: how an instruction runs (R58, R69, R77, R78), how a fault halts a
section (R73 to R75), and how a scene's buffers merge (R57, R109). -/

namespace Sys2Proof.Machine
open Sys2Proof

/-- The section on a lane pair. -/
def runOf (s : State) (p : Nat) : Option SecRun := Table.get none s.eng.run p

def putRun (p : Nat) (r : SecRun) (s : State) : State :=
  { s with eng := { s.eng with run := Table.set none s.eng.run p (some r) } }

/-- The pair serves. -/
def inServicePair (s : State) (p : Nat) : Bool := decide (p < 9) && s.eng.inService.getLsbD p

/-- A pair becomes free; a restart point that waits resumes on it if it is in service (R410). -/
def freePair (p : Nat) (s : State) : State :=
  match s.eng.waiting with
  | r :: t =>
    if inServicePair s p then
      { s with eng := { s.eng with run := Table.set none s.eng.run p (some r), waiting := t } }
    else { s with eng := { s.eng with run := Table.set none s.eng.run p none } }
  | [] => { s with eng := { s.eng with run := Table.set none s.eng.run p none } }

/-! ### Fault records (R75, R110) -/

def fltKey (stage secno : Nat) : Nat := stage * 8192 + secno
def fltOf (s : State) (stage secno : Nat) : FaultRec :=
  Table.get ⟨0, 0⟩ s.eng.flt (fltKey stage secno)
def putFlt (stage secno : Nat) (f : FaultRec) (s : State) : State :=
  { s with eng := { s.eng with flt := Table.set ⟨0, 0⟩ s.eng.flt (fltKey stage secno) f } }

/-- One more completed execution since the last halt, saturating. While there has been no halt the count stays 0. DESIGN
CHOICE, log 65. -/
def FaultRec.tick (f : FaultRec) : FaultRec :=
  if f.code = 0 || f.execs == BitVec.allOnes 24 then f else { f with execs := f.execs + 1 }

/-! ### The merge at the end of a scene (R57) -/

/-- Loop commands: the later command of a kind stands (R108). -/
def LoopCmd.ovr (new old : LoopCmd) : LoopCmd :=
  { sp := new.sp.orElse (fun _ => old.sp), man := new.man.orElse (fun _ => old.man)
    trk := new.trk.orElse (fun _ => old.trk), mode := new.mode.orElse (fun _ => old.mode) }

/-- Every listed entry of `b` set over `a`. -/
def tableOver {α : Type} [DecidableEq α] (d : α) (a b : Table α) : Table α :=
  b.foldl (fun t e => Table.set d t e.1 e.2) a

/-- A completed section's buffer over what has merged. -/
def WBuf.mergeInto (b m : WBuf) : WBuf :=
  { pts := tableOver none m.pts b.pts
    tmr := tableOver none m.tmr b.tmr
    ctr := tableOver none m.ctr b.ctr
    cmds := b.cmds.foldl (fun t e =>
      Table.set LoopCmd.none t e.1 (e.2.ovr (Table.get LoopCmd.none t e.1))) m.cmds
    evs := [], dropped := [] }

/-- One completed section of class `k` merges; its events are recorded (R109). -/
def mergeSlot (k : Nat) (sl : SecSlot) (s : State) : State :=
  let t := takeOf s k
  let st := Table.get StageTake.fresh t.stage sl.stage
  if sl.st = .done && !st.ovr then
    let m := sl.buf.mergeInto (Table.get WBuf.empty t.merged sl.stage)
    let s := putTake k { t with merged := Table.set WBuf.empty t.merged sl.stage m } s
    foldS sl.buf.dropped logDropped (foldS sl.buf.evs logProg s)
  else s

/-- The scene ends: its completed sections merge as one step, in dispatch order (R39, R57). -/
def mergeScene (s : State) : State :=
  match s.eng.scene with
  | none => s
  | some (k, j) =>
    let s' := foldS s.eng.slots (mergeSlot k) s
    let t := takeOf s' k
    putTake k { t with doneScenes := t.doneScenes ++ [j] }
      { s' with eng := { s'.eng with scene := none, slots := [], waiting := [], recovered := 0 } }

/-- A section that can still run. -/
def SecSlot.isOpen (sl : SecSlot) : Bool := sl.st == .waiting || sl.st == .running

/-- The scene ends once no section of it is left to run. -/
def sceneCheck (s : State) : State :=
  if s.eng.scene.isSome && s.eng.slots.all (fun sl => !sl.isOpen) then mergeScene s else s

/-- A section's place in the scene takes a state and a buffer. -/
def markSlot (stage secno : Nat) (st : SecSt) (b : WBuf) (s : State) : State :=
  { s with eng := { s.eng with slots := s.eng.slots.map (fun sl =>
      if sl.stage = stage ∧ sl.secno = secno then { sl with st := st, buf := b } else sl) } }

/-! ### Faults (R73 to R75) -/

/-- The detail of a section fault's record (R359). -/
def faultDetail (r : SecRun) (e : SFault) (mt : Dword) : List Byte :=
  bytesLE 2 r.secno ++ bytesLE 1 e.code ++ bytesLE 1 e.kind ++ bytesLE 4 r.core.pc.toNat ++
    bytesLE 4 e.ref ++ bytesLE 8 mt.toNat

/-- R74, R75: the section halts, its buffer is discarded, the fault is recorded, and TAGW and TAGR count
in TAGVIOL. -/
def haltSection (p : Nat) (r : SecRun) (e : SFault) (s : State) : State :=
  let s := logEv 0x13 4 r.stage (viewOf r.stage) 5 (faultDetail r e (takeOf s r.cls).mt) s
  let rt := stgRt s r.stage
  let s := if e.code ≤ 2 then putStg r.stage { rt with tagViol := rt.tagViol + 1 } s else s
  let s := putFlt r.stage r.secno ⟨BitVec.ofNat 8 e.code, 0⟩ s
  let s := if 5 ≤ e.code && e.code ≤ 7 then spoilProof [5] s else s
  sceneCheck (freePair p (markSlot r.stage r.secno .halted WBuf.empty s))

/-! ### Running an instruction -/

/-- The block has ended by its count of instructions or cycles before an instruction of opcode `op` (R69): one that would pass
4,096 cycles begins the next block, so that no block costs more (R70). DEDUCED, log 65. -/
def SecRun.blockFull (op : Nat) (r : SecRun) : Bool := decide (2048 ≤ r.ckI) || decide (4096 < r.ckC + cyclesOf op)

/-- A checkpoint at which the lanes agree becomes the restart point (R69). -/
def SecRun.checkpoint (r : SecRun) : SecRun :=
  { r with ckI := 0, ckC := 0, rsCore := r.core, rsBuf := r.buf, rsCycles := r.cycles }

/-- A block that has ended is checkpointed before the next instruction. -/
def SecRun.atBlockEnd (op : Nat) (r : SecRun) : SecRun := if r.blockFull op then r.checkpoint else r

/-- The code at the section's PC has an uncorrectable error (R73). DESIGN CHOICE, log 56. -/
def codeBad (s : State) (r : SecRun) : Bool := s.eng.codeUecc.contains (r.stage, r.core.pc.toNat)

/-- The cycles of an executed instruction are counted (R77). DEDUCED, log 24. -/
def SecRun.count (r : SecRun) (c : Nat) : SecRun :=
  { r with cycles := r.cycles + c, ckI := r.ckI + 1, ckC := r.ckC + c }

/-- What an instruction does to its section: the fetch, the encoding and the budget are judged, then its
own meaning `f` runs and its cycles count. DEDUCED, log 24. -/
def runOp (op : Nat) (w : BitVec 24) (f : State → SecRun → Except SFault SecRun) (s : State) (r : SecRun) :
    Except SFault SecRun :=
  if codeBad s r then .error fUECC
  else if reservedOp op w then .error fOPC
  else if r.w ≤ r.cycles + cyclesOf op then .error fBUDGET
  else
    match f s r with
    | .error e => .error e
    | .ok r' => .ok (r'.count (cyclesOf op))

/-- An instruction executed on a lane pair. A pair without a section executes nothing. DESIGN CHOICE, log 56. -/
def ecm (op p : Nat) (w : BitVec 24) (f : State → SecRun → Except SFault SecRun) (s : State) :
    Host.Outcome State Fault Refusal :=
  match runOf s p with
  | none => .next s
  | some r =>
    match runOp op w f s (r.atBlockEnd op) with
    | .error e => .next (haltSection p r e s)
    | .ok r' => .next (putRun p r' s)

/-- The section with its PC moved on by one. -/
def SecRun.adv (r : SecRun) : SecRun := { r with core := { r.core with pc := r.core.pc + 1 } }
def SecRun.goto (r : SecRun) (t : Nat) : SecRun := { r with core := { r.core with pc := BitVec.ofNat 20 t } }

/-- A meaning on the machine state alone, after which the next instruction follows. -/
def onCore (g : Core → Core) : State → SecRun → Except SFault SecRun :=
  fun _ r => .ok ({ r with core := g r.core }).adv

/-- A meaning on the section, after which the next instruction follows. -/
def onSec (g : State → SecRun → Except SFault SecRun) : State → SecRun → Except SFault SecRun :=
  fun s r =>
    match g s r with
    | .error e => .error e
    | .ok r' => .ok r'.adv

end Sys2Proof.Machine
end

