-- ==== Sys2Proof/Machine/Engine.lean ====
section
/-! DEFINITION. Scenes and lane pairs: dispatch, checkpoints, recovery and retirement (R39, R69 to R71, R410
to R413), overruns (R45), and fallback (R46). -/

namespace Sys2Proof.Machine
open Sys2Proof

/-! ### Fallback (R46) -/

/-- The stage's program runs, under its own control or in fallback. -/
def stageRuns (s : State) (st : Nat) : Bool := (stgRt s st).state == 1 || (stgRt s st).state == 2

/-- A stage enters fallback (R46): STGSTATE 2, FALLBACK 1. Its loops take their FBMODE at the output phase at which its
outputs become those of fallback (R157). DEDUCED, log 21. -/
def enterFallback (k st : Nat) (s : State) : State :=
  if (stgRt s st).state = 1 then
    let s := putStg st { stgRt s st with state := 2, fallback := true, fbClear := false } s
    logEv 0x12 5 st (viewHouse st) 0 (packD [(1, k), (1, 1)]) s
  else s

/-- A stage leaves fallback (R47): FALLBACK reads 0, its loops return to what was in force. -/
def leaveFallback (k st : Nat) (s : State) : State :=
  if (stgRt s st).state = 2 then
    let s := putStg st { stgRt s st with state := 1, fallback := false, fbClear := false } s
    let s := foldS (stageLoops s st) loopLeaveFb s
    logEv 0x12 5 st (viewHouse st) 0 (packD [(1, k), (1, 0)]) s
  else s

/-! ### Retirement (R410 to R413, R425) -/

/-- The double: the highest-numbered pair while nine are in service (R410). -/
def doublePair (s : State) : Option Nat := if pairsIn s = 9 then some 8 else none

/-- The pairs that dispatch may use (R69, R410). -/
def workPairs (s : State) : List Nat :=
  (List.range 9).filter (fun p => inServicePair s p && doublePair s != some p)

/-- No pair in service: every stage is in fallback (R425). -/
def lanesGone (s : State) : State :=
  if pairsIn s = 0 then foldS (List.range 32) (enterFallback 0) s else s

/-- A pair is retired (R70, R413). Causes: 0 a disagreement, 1 a rotation test at the normal clock, 2 marginal
in three rotations, 3 the self test of a start. DEDUCED, log 25. -/
def retirePair (p cause : Nat) (s : State) : State :=
  if inServicePair s p then
    let e := s.eng
    let ins := e.inService &&& ~~~(1#9 <<< p)
    let ret := e.retired ||| (1#9 <<< p)
    let s := { s with eng := { e with inService := ins, retired := ret, run := Table.set none e.run p none } }
    let s := { s with integ := { s.integ with
      retCount := if cause = 3 then s.integ.retCount
        else Table.upd 0 s.integ.retCount p (fun n => min (n + 1) 2)
      placeCheck := s.integ.placeCheck || decide (pairsIn s < 8) } }
    let s := logEv 0x80 4 0 viewAll 0 (packD [(1, 0), (1, p), (1, cause), (4, ret.toNat * 2 ^ 16 + ins.toNat)]) s
    spoilProof [5] (refreshMod (lanesGone (predict 13 s)))
  else s

/-! ### Checkpoints (R69 to R71, R410) -/

/-- The section as its restart point has it. -/
def SecRun.restart (r : SecRun) : SecRun :=
  { r with core := r.rsCore, buf := r.rsBuf, cycles := r.rsCycles, ckI := 0, ckC := 0 }

/-- The block of the section has ended: by its counts, or at the section's END (R69). -/
def blockDue (s : State) (r : SecRun) : Bool :=
  let op := match progOf s r.stage with
    | some p => opOf (p.code.getD r.core.pc.toNat 0)
    | none => 0
  r.blockFull op || op == 0x9F

/-- A pair's lanes disagree (R70, R410): the pair is retired; the double re-executes the block at the first
disagreement of a scene, and otherwise the first free pair in service, or the next that becomes free. DEDUCED, log 25. -/
def disagree (p : Nat) (r : SecRun) (s : State) : State :=
  let r0 := r.restart
  let dbl := doublePair s
  let useDbl := s.eng.recovered == 0 && (match dbl with
    | some d => d != p && (runOf s d).isNone
    | none => false)
  let s := retirePair p 0 s
  let s := { s with eng := { s.eng with recovered := s.eng.recovered + 1 } }
  let target := if useDbl then dbl
    else (List.range 9).find? (fun q => inServicePair s q && (runOf s q).isNone)
  match target with
  | some q => putRun q r0 s
  | none => { s with eng := { s.eng with waiting := s.eng.waiting ++ [r0] } }

/-- BLOCK_CHECKPOINT: the lanes of a pair compare their state and buffer entries. A disagreement acts at any
instruction, since one lane may raise a fault that the other does not (R71). DEDUCED, log 25. -/
def execBlockCheckpoint (p : Nat) (agree : Bool) (s : State) : Host.Outcome State Fault Refusal :=
  match runOf s p with
  | none => .next s
  | some r =>
    if agree then (if blockDue s r then .next (putRun p r.checkpoint s) else .next s)
    else .next (disagree p r s)

/-! ### Scenes (R39, R58, R69) -/

/-- The half-period of a class's take in progress: 0 for its first. -/
def halfOf (s : State) (k : Nat) : Nat := (s.slate.halfcnt - (takeOf s k).startHalf).toNat

/-- The sections of a stage in a scene of a class. -/
def sceneSecs (s : State) (k j st : Nat) : List SecDef :=
  match progOf s st with
  | none => []
  | some p => p.secs.filter (fun d => d.cls == k && d.scene == j)

/-- A section definition in order of section number. -/
def insSec (d : SecDef) : List SecDef → List SecDef
  | [] => [d]
  | h :: t => if d.secno ≤ h.secno then d :: h :: t else h :: insSec d t

/-- The sections of a scene in dispatch order: ascending stage, then section (R39). -/
def sceneSlots (s : State) (k j : Nat) : List SecSlot :=
  (List.range 32).flatMap (fun st =>
    if stageOn s st && stageRuns s st && !(Table.get StageTake.fresh (takeOf s k).stage st).ovr then
      ((sceneSecs s k j st).foldr insSec []).map (fun d => ⟨st, d.secno, .waiting, WBuf.empty⟩)
    else [])

/-- Scene `j` of class `k` may start now: it is placed in this half-period and not done, the scenes before
it are done, no lower class has a scene of this half-period left (R39), and the image of a take that began in this
half-period is built (R37). -/
def sceneMayStart (s : State) (k j : Nat) : Bool :=
  let t := takeOf s k
  let left (k' : Nat) : List Nat :=
    ((takeOf s k').place.filter (fun e => e.2 == halfOf s k' && !(takeOf s k').doneScenes.contains e.1)).map (·.1)
  t.active && s.eng.scene.isNone && (t.startHalf != s.slate.halfcnt || imageBuilt s) && decide (0 < pairsIn s) && (left k).contains j &&
    (left k).all (fun i => decide (j ≤ i)) &&
    (List.range k).all (fun k' => !(takeOf s k').active || (left k').isEmpty)

/-- SCENE_START (R39): the sections of the scene wait for dispatch. A scene without any is done at once. -/
def execSceneStart (k j : Nat) (s : State) : Host.Outcome State Fault Refusal :=
  whenUpAnd s (sceneMayStart s k j) fun s =>
    sceneCheck { s with eng := { s.eng with scene := some (k, j), slots := sceneSlots s k j, recovered := 0 } }

/-- A section at its start (R58, R77). Its first block counts the 8 cycles of the start (R69). DESIGN CHOICE, log 65. -/
def secStart (stage k j : Nat) (d : SecDef) : SecRun :=
  let c := Core.start (BitVec.ofNat 20 d.first)
  { stage := stage, secno := d.secno, cls := k, scene := j, core := c, buf := WBuf.empty, cycles := 8, w := d.w
    ckI := 0, ckC := 8, rsCore := c, rsBuf := WBuf.empty, rsCycles := 8 }

/-- The first waiting section and the pair it goes to: the lowest-numbered free pair in service that is not
the double (R69, R410). -/
def nextDispatch (s : State) : Option (SecSlot × SecDef × Nat) :=
  match s.eng.slots.find? (fun sl => sl.st == .waiting),
      (workPairs s).find? (fun p => (runOf s p).isNone) with
  | some sl, some p =>
    match secDef s sl.stage sl.secno with
    | some d => some (sl, d, p)
    | none => none
  | _, _ => none

/-- SECTION_DISPATCH (R69). -/
def execSectionDispatch (s : State) : Host.Outcome State Fault Refusal :=
  match s.eng.scene, nextDispatch s with
  | some (k, j), some (sl, d, p) =>
    .next (putRun p (secStart sl.stage k j d) (markSlot sl.stage sl.secno .running WBuf.empty s))
  | _, _ => .next s

/-! ### Overrun (R45) -/

/-- A section of the stage that is placed at or before a half-period of the take and has not completed. -/
def sectionsLeft (s : State) (k st : Nat) : Bool :=
  let t := takeOf s k
  match progOf s st with
  | none => false
  | some p => p.secs.any (fun d =>
      d.cls == k && t.place.any (fun e => e.1 == d.scene && decide (e.2 ≤ halfOf s k)) &&
        !t.doneScenes.contains d.scene &&
        !(s.eng.scene == some (k, d.scene) &&
          s.eng.slots.any (fun sl => sl.stage == st && sl.secno == d.secno && !sl.isOpen)))

/-- Restart points that wait take pairs that have become free (R410). -/
def resumeWaiting (s : State) : State :=
  foldS (List.range 9) (fun p t => if inServicePair t p && (runOf t p).isNone then freePair p t else t) s

/-- A stage overruns its take of a class (R45): its running sections stop, its remaining ones do not start,
its writes are discarded, and the overrun is counted and recorded. DEDUCED, log 21. -/
def overrunStage (k st : Nat) (s : State) : State :=
  let t := takeOf s k
  let s := putTake k { t with
    merged := Table.set WBuf.empty t.merged st WBuf.empty
    stage := Table.set StageTake.fresh t.stage st
      { Table.get StageTake.fresh t.stage st with ovr := true } } s
  let mine (r : SecRun) : Bool := r.stage == st && r.cls == k
  let s := { s with eng := { s.eng with
    run := s.eng.run.filter (fun e => match e.2 with
      | some r => !mine r
      | none => true)
    waiting := s.eng.waiting.filter (fun r => !mine r)
    slots := if (s.eng.scene.map (·.1)) = some k then
        s.eng.slots.map (fun sl => if sl.stage = st then { sl with st := .stopped, buf := WBuf.empty } else sl)
      else s.eng.slots } }
  let r := stgRt s st
  let n := min (Table.get 0 r.ovc k + 1) 255
  let s := putStg st { r with
    ovc := Table.set 0 r.ovc k n
    ovTotal := if r.ovTotal = 0xFFFF then r.ovTotal else r.ovTotal + 1 } s
  sceneCheck (logEv 0x11 4 st (viewOf st) 0 (packD [(1, k), (1, n)]) (resumeWaiting s))

/-- The overruns of a class at a deadline (R45). -/
def deadline (k : Nat) (s : State) : State :=
  foldS ((List.range 32).filter (fun st => stageOn s st && stageRuns s st &&
      !(Table.get StageTake.fresh (takeOf s k).stage st).ovr && sectionsLeft s k st))
    (overrunStage k) s

/-- HALF_PERIOD_DEADLINE: offset 2,040 of a half-period that is not the last of a class's take (R39, R45). DESIGN CHOICE, log 10. DEDUCED, log 21. -/
def execHalfPeriodDeadline (s : State) : Host.Outcome State Fault Refusal :=
  whenUpAnd s (decide (2040 ≤ offsetNow s)) fun s =>
    foldS ((classesOn s).filter (fun k => (takeOf s k).active && !lastHalfOf s s.slate.halfcnt k)) deadline s

end Sys2Proof.Machine
end

