-- ==== Sys2Proof/Machine/Crypto.lean ====
section
/-! DEFINITION. The two named algorithms by which a transaction is countersigned (R328, R329): SHA-384 with its sister
SHA-512, and the verification of an Ed25519 signature, as their public standards define them. PRESUMED, log 3. -/

namespace Sys2Proof.Machine
open Sys2Proof

/-! ### SHA-384 and SHA-512 -/

/-- The round constants, in ten groups of eight. -/
def shaK0 : List Dword :=
  [0x428a2f98d728ae22, 0x7137449123ef65cd, 0xb5c0fbcfec4d3b2f, 0xe9b5dba58189dbbc,
   0x3956c25bf348b538, 0x59f111f1b605d019, 0x923f82a4af194f9b, 0xab1c5ed5da6d8118]
def shaK1 : List Dword :=
  [0xd807aa98a3030242, 0x12835b0145706fbe, 0x243185be4ee4b28c, 0x550c7dc3d5ffb4e2,
   0x72be5d74f27b896f, 0x80deb1fe3b1696b1, 0x9bdc06a725c71235, 0xc19bf174cf692694]
def shaK2 : List Dword :=
  [0xe49b69c19ef14ad2, 0xefbe4786384f25e3, 0x0fc19dc68b8cd5b5, 0x240ca1cc77ac9c65,
   0x2de92c6f592b0275, 0x4a7484aa6ea6e483, 0x5cb0a9dcbd41fbd4, 0x76f988da831153b5]
def shaK3 : List Dword :=
  [0x983e5152ee66dfab, 0xa831c66d2db43210, 0xb00327c898fb213f, 0xbf597fc7beef0ee4,
   0xc6e00bf33da88fc2, 0xd5a79147930aa725, 0x06ca6351e003826f, 0x142929670a0e6e70]
def shaK4 : List Dword :=
  [0x27b70a8546d22ffc, 0x2e1b21385c26c926, 0x4d2c6dfc5ac42aed, 0x53380d139d95b3df,
   0x650a73548baf63de, 0x766a0abb3c77b2a8, 0x81c2c92e47edaee6, 0x92722c851482353b]
def shaK5 : List Dword :=
  [0xa2bfe8a14cf10364, 0xa81a664bbc423001, 0xc24b8b70d0f89791, 0xc76c51a30654be30,
   0xd192e819d6ef5218, 0xd69906245565a910, 0xf40e35855771202a, 0x106aa07032bbd1b8]
def shaK6 : List Dword :=
  [0x19a4c116b8d2d0c8, 0x1e376c085141ab53, 0x2748774cdf8eeb99, 0x34b0bcb5e19b48a8,
   0x391c0cb3c5c95a63, 0x4ed8aa4ae3418acb, 0x5b9cca4f7763e373, 0x682e6ff3d6b2b8a3]
def shaK7 : List Dword :=
  [0x748f82ee5defb2fc, 0x78a5636f43172f60, 0x84c87814a1f0ab72, 0x8cc702081a6439ec,
   0x90befffa23631e28, 0xa4506cebde82bde9, 0xbef9a3f7b2c67915, 0xc67178f2e372532b]
def shaK8 : List Dword :=
  [0xca273eceea26619c, 0xd186b8c721c0c207, 0xeada7dd6cde0eb1e, 0xf57d4f7fee6ed178,
   0x06f067aa72176fba, 0x0a637dc5a2c898a6, 0x113f9804bef90dae, 0x1b710b35131c471b]
def shaK9 : List Dword :=
  [0x28db77f523047d84, 0x32caab7b40c72493, 0x3c9ebe0a15c9bebc, 0x431d67c49c100d4c,
   0x4cc5d4becb3e42b6, 0x597f299cfc657e2a, 0x5fcb6fab3ad6faec, 0x6c44198c4a475817]
def shaK : List Dword := shaK0 ++ shaK1 ++ shaK2 ++ shaK3 ++ shaK4 ++ shaK5 ++ shaK6 ++ shaK7 ++ shaK8 ++ shaK9

/-- The chaining values from which each digest starts. -/
def sha512Init : List Dword :=
  [0x6a09e667f3bcc908, 0xbb67ae8584caa73b, 0x3c6ef372fe94f82b, 0xa54ff53a5f1d36f1,
   0x510e527fade682d1, 0x9b05688c2b3e6c1f, 0x1f83d9abfb41bd6b, 0x5be0cd19137e2179]
def sha384Init : List Dword :=
  [0xcbbb9d5dc1059ed8, 0x629a292a367cd507, 0x9159015a3070dd17, 0x152fecd8f70e5939,
   0x67332667ffc00b31, 0x8eb44a8768581511, 0xdb0c2e0d64f98fa7, 0x47b5481dbefa4fa4]

/-- A number's low `n` bytes, the most significant first, and the number of such bytes. -/
def bytesBE : Nat → Nat → List Byte
  | 0, _ => []
  | n + 1, v => BitVec.ofNat 8 (v >>> (8 * n)) :: bytesBE n v
def natBE (bs : List Byte) : Nat := bs.foldl (fun a b => a * 256 + b.toNat) 0

/-- A message with its padding and its length in bits. -/
def shaPad (m : List Byte) : List Byte :=
  m ++ [0x80] ++ List.replicate ((239 - m.length % 128) % 128) 0 ++ bytesBE 16 (8 * m.length)

/-- The message schedule of a block, the newest word first. -/
def shaSchedule (blk : List Byte) : List Dword :=
  let w := (List.range 16).map (fun i => BitVec.ofNat 64 (natBE ((blk.drop (8 * i)).take 8)))
  (List.range 64).foldl (fun l _ =>
    let x := l.getD 14 0
    let y := l.getD 1 0
    let a := x.rotateRight 1 ^^^ x.rotateRight 8 ^^^ (x >>> 7)
    let b := y.rotateRight 19 ^^^ y.rotateRight 61 ^^^ (y >>> 6)
    (b + l.getD 6 0 + a + l.getD 15 0) :: l) w.reverse

/-- One round over the eight working values. -/
def shaRound (v : List Dword) (kw : Dword) : List Dword :=
  let g (i : Nat) : Dword := v.getD i 0
  let e := g 4
  let a := g 0
  let t1 := g 7 + (e.rotateRight 14 ^^^ e.rotateRight 18 ^^^ e.rotateRight 41) + ((e &&& g 5) ^^^ (~~~e &&& g 6)) + kw
  let t2 := (a.rotateRight 28 ^^^ a.rotateRight 34 ^^^ a.rotateRight 39) + ((a &&& g 1) ^^^ (a &&& g 2) ^^^ (g 1 &&& g 2))
  [t1 + t2, a, g 1, g 2, g 3 + t1, e, g 5, g 6]

/-- One block of 128 bytes. -/
def shaBlock (h : List Dword) (blk : List Byte) : List Dword :=
  let v := (shaK.zip (shaSchedule blk).reverse).foldl (fun v x => shaRound v (x.1 + x.2)) h
  (h.zip v).map (fun x => x.1 + x.2)

/-- The chaining values after a whole message. -/
def shaWords (init : List Dword) (m : List Byte) : List Dword :=
  let p := shaPad m
  (List.range (p.length / 128)).foldl (fun h i => shaBlock h ((p.drop (128 * i)).take 128)) init

/-- The digests as bytes. -/
def sha512Bytes (m : List Byte) : List Byte := (shaWords sha512Init m).flatMap (fun w => bytesBE 8 w.toNat)
def sha384Bytes (m : List Byte) : List Byte := ((shaWords sha384Init m).take 6).flatMap (fun w => bytesBE 8 w.toNat)

/-- Bytes as a little-endian number. -/
def numLE (bs : List Byte) : Nat := bs.foldr (fun b a => b.toNat + 256 * a) 0

/-- The SHA-384 of a message (R328), its first byte in bits 7 to 0. -/
@[irreducible] def sha384 (m : List Byte) : BitVec 384 := BitVec.ofNat 384 (numLE (sha384Bytes m))

/-! ### Ed25519 -/

/-- The field, the group's order and the curve's constant. -/
def edP : Nat := 2 ^ 255 - 19
def edL : Nat := 7237005577332262213973186563042994240857116359379907606001950938285454250989
def edD : Nat := 37095705934669439343138083508754565189542113879843219016388785533085940283555

def edSub (a b : Nat) : Nat := (a + edP - b % edP) % edP

/-- A power in the field, bit by bit from the top. -/
def edPow (b : Nat) : Nat → Nat → Nat
  | 0, _ => 1
  | n + 1, e =>
    let r := edPow b n (e / 2)
    let r2 := r * r % edP
    if e % 2 = 1 then r2 * b % edP else r2

/-- A point in extended coordinates. -/
structure EdPt where
  x : Nat
  y : Nat
  z : Nat
  t : Nat
  deriving DecidableEq, Repr

def EdPt.zero : EdPt := ⟨0, 1, 1, 0⟩

/-- The group's base point. -/
def EdPt.base : EdPt := ⟨15112221349535400772501151409588531511454012693041857206046113283949847762202,
  46316835694926478169428394003475163141307993866256225615783033603165251855960, 1,
  46827403850823179245072216630277197565144205554125654976674165829533817101731⟩

/-- The complete addition of the curve. -/
def EdPt.add (p q : EdPt) : EdPt :=
  let a := edSub p.y p.x * edSub q.y q.x % edP
  let b := (p.y + p.x) * (q.y + q.x) % edP
  let c := p.t * 2 * edD * q.t % edP
  let d := p.z * 2 * q.z % edP
  let e := edSub b a
  let f := edSub d c
  let g := d + c
  let h := b + a
  ⟨e * f % edP, g * h % edP, f * g % edP, e * h % edP⟩

/-- A multiple of a point; `n` bits of the factor. -/
def EdPt.mul (p : EdPt) : Nat → Nat → EdPt
  | 0, _ => EdPt.zero
  | n + 1, k =>
    let r := EdPt.mul p n (k / 2)
    let r2 := EdPt.add r r
    if k % 2 = 1 then EdPt.add r2 p else r2

/-- Two points are equal. -/
def EdPt.same (p q : EdPt) : Bool := edSub (p.x * q.z) (q.x * p.z) == 0 && edSub (p.y * q.z) (q.y * p.z) == 0

/-- A point from its 32 bytes; none: they name no point. -/
def edDecode (v : Nat) : Option EdPt :=
  let y := v % 2 ^ 255
  let sign := v / 2 ^ 255 % 2
  let u := edSub (y * y) 1
  let w := (edD * (y * y) + 1) % edP
  let w3 := w * w % edP * w % edP
  let x0 := u * w3 % edP * edPow (u * (w3 * w3 % edP * w % edP) % edP) 256 ((edP - 5) / 8) % edP
  let x1 := if w * (x0 * x0) % edP = edSub 0 u then x0 * edPow 2 256 ((edP - 1) / 4) % edP else x0
  if edP ≤ y ∨ w * (x1 * x1) % edP ≠ u ∨ (x1 = 0 ∧ sign = 1) then none
  else
    let x := if x1 % 2 = sign then x1 else edP - x1
    some ⟨x, y, 1, x * y % edP⟩

/-- A signature of 64 bytes over a message verifies under a key (R329), by the equation without the cofactor. DESIGN CHOICE,
log 3. -/
@[irreducible] def ed25519Ok (key : BitVec 256) (m : List Byte) (sig : BitVec 512) : Bool :=
  let r := sig.toNat % 2 ^ 256
  let k := sig.toNat / 2 ^ 256
  let le (v : Nat) : List Byte := (bytesBE 32 v).reverse
  match edDecode key.toNat, edDecode r with
  | some a, some p =>
    let h := numLE (sha512Bytes (le r ++ le key.toNat ++ m)) % edL
    decide (k < edL) && EdPt.same (EdPt.mul EdPt.base 256 k) (EdPt.add p (EdPt.mul a 256 h))
  | _, _ => false

end Sys2Proof.Machine
end

