-- ==== Sys2Proof/Machine/Cipher.lean ====
section
/-! DEFINITION. The named algorithms of the key store (R372 to R375): HKDF over HMAC with SHA-384, AES-256 with its key
wrap, and the public key of an Ed25519 private key, as their public standards define them. PRESUMED, log 3. -/

namespace Sys2Proof.Machine
open Sys2Proof

/-! ### HMAC and HKDF (RFC 2104, RFC 5869) -/

def hmac384 (key m : List Byte) : List Byte :=
  let k := key ++ List.replicate (128 - key.length) 0
  sha384Bytes (k.map (· ^^^ 0x5C) ++ sha384Bytes (k.map (· ^^^ 0x36) ++ m))

/-- Extract, and the one expansion that up to 48 bytes need. -/
def hkdf384 (salt ikm info : List Byte) (n : Nat) : List Byte := (hmac384 (hmac384 salt ikm) (info ++ [1])).take n

/-- A value of 32 bytes, the first in bits 7 to 0. -/
def key256 (bs : List Byte) : BitVec 256 := BitVec.ofNat 256 (numLE bs)

/-- The salt "QFM-7640" of R372. -/
def hkdfSalt : List Byte := [0x51, 0x46, 0x4D, 0x2D, 0x37, 0x36, 0x34, 0x30]

/-- The key-encryption key of a root: the info is "key store" (R372). -/
@[irreducible] def kekOf (root : BitVec 256) : BitVec 256 :=
  key256 (hkdf384 hkdfSalt (bytesLE 32 root.toNat) [0x6B, 0x65, 0x79, 0x20, 0x73, 0x74, 0x6F, 0x72, 0x65] 32)

/-- The check value of a root: the info is "root check" (R373). DEDUCED, log 47. -/
@[irreducible] def rootCheck (root : BitVec 256) : BitVec 256 :=
  key256 (hkdf384 hkdfSalt (bytesLE 32 root.toNat) [0x72, 0x6F, 0x6F, 0x74, 0x20, 0x63, 0x68, 0x65, 0x63, 0x6B] 32)

/-! ### AES-256 (FIPS 197) -/

/-- Twice a byte, and the product of two, in the field of AES. -/
def gfTwice (a : Byte) : Byte := if a.getLsbD 7 then (a <<< 1) ^^^ 0x1B else a <<< 1
def gfMul (a b : Byte) : Byte :=
  (List.range 8).foldl (fun r i => let t := gfTwice r; if b.getLsbD (7 - i) then t ^^^ a else t) 0

/-- The inverse of a byte, its power 254; of 0, 0. -/
def gfInv (a : Byte) : Byte := (List.range 7).foldl (fun r i => let t := gfMul r r; if i < 6 then gfMul t a else t) a

/-- The substitution of a byte and its inverse. -/
def aesSub (a : Byte) : Byte :=
  let b := gfInv a
  b ^^^ b.rotateLeft 1 ^^^ b.rotateLeft 2 ^^^ b.rotateLeft 3 ^^^ b.rotateLeft 4 ^^^ 0x63
def aesUnsub (a : Byte) : Byte := gfInv (a.rotateLeft 1 ^^^ a.rotateLeft 3 ^^^ a.rotateLeft 6 ^^^ 0x05)

/-- Bytes added to others, place by place. -/
def xorBytes (a b : List Byte) : List Byte := (a.zip b).map (fun x => x.1 ^^^ x.2)

/-- The 60 words of the key schedule, the newest first, as bytes. -/
def aesWords (key : List Byte) : List (List Byte) :=
  (List.range 52).foldl (fun (l : List (List Byte)) i =>
    let t := l.getD 0 []
    let t := if i % 8 = 0 then
        xorBytes ((t.drop 1 ++ t.take 1).map aesSub) [(List.range (i / 8)).foldl (fun r _ => gfTwice r) 1, 0, 0, 0]
      else if i % 8 = 4 then t.map aesSub else t
    xorBytes (l.getD 7 []) t :: l) ((List.range 8).map (fun i => (key.drop (4 * i)).take 4)).reverse

/-- The 15 round keys. -/
def aesKeys (key : List Byte) : List (List Byte) :=
  (List.range 15).map (fun r => (((aesWords key).reverse.drop (4 * r)).take 4).flatten)

/-- The rows of a block turned by `k` columns each row more than the one above. -/
def aesShift (k : Nat) (x : List Byte) : List Byte :=
  (List.range 16).map (fun i => x.getD ((i + 4 * k * (i % 4)) % 16) 0)

/-- The columns of a block multiplied by the circulant matrix of four bytes. -/
def aesMix (m : List Byte) (x : List Byte) : List Byte :=
  (List.range 16).map (fun i => (List.range 4).foldl (fun a j =>
    a ^^^ gfMul (m.getD ((j + 4 - i % 4) % 4) 0) (x.getD (i / 4 * 4 + j) 0)) 0)

/-- A block enciphered and deciphered. -/
def aesEnc (key x : List Byte) : List Byte :=
  let ks := aesKeys key
  let k (r : Nat) : List Byte := ks.getD r []
  let mid := (List.range 13).foldl (fun x r => xorBytes (aesMix [2, 3, 1, 1] (aesShift 1 (x.map aesSub))) (k (r + 1))) (xorBytes x (k 0))
  xorBytes (aesShift 1 (mid.map aesSub)) (k 14)
def aesDec (key x : List Byte) : List Byte :=
  let ks := aesKeys key
  let k (r : Nat) : List Byte := ks.getD r []
  let mid := (List.range 13).foldl (fun x r =>
    aesMix [14, 11, 13, 9] (xorBytes ((aesShift 3 x).map aesUnsub) (k (13 - r)))) (xorBytes x (k 14))
  xorBytes ((aesShift 3 mid).map aesUnsub) (k 0)

/-! ### Key wrap (RFC 3394) of a key of 32 bytes -/

/-- One step: the integrity register and the four blocks. -/
def wrapStep (kek : List Byte) (x : List Byte × List (List Byte)) (t : Nat) : List Byte × List (List Byte) :=
  let b := aesEnc kek (x.1 ++ x.2.getD (t % 4) [])
  (xorBytes (b.take 8) (bytesBE 8 (t + 1)), x.2.set (t % 4) (b.drop 8))
def unwrapStep (kek : List Byte) (x : List Byte × List (List Byte)) (t : Nat) : List Byte × List (List Byte) :=
  let b := aesDec kek (xorBytes x.1 (bytesBE 8 (t + 1)) ++ x.2.getD (t % 4) [])
  (b.take 8, x.2.set (t % 4) (b.drop 8))

/-- The initial value of the integrity register. -/
def wrapIv : List Byte := List.replicate 8 0xA6

def blocks8 (bs : List Byte) : List (List Byte) := (List.range 4).map (fun i => (bs.drop (8 * i)).take 8)

/-- A key wrapped under another (R375), and its unwrapping, which fails unless the integrity register ends at its initial
value. -/
@[irreducible] def wrapKey (kek key : BitVec 256) : BitVec 320 :=
  let r := (List.range 24).foldl (wrapStep (bytesLE 32 kek.toNat)) (wrapIv, blocks8 (bytesLE 32 key.toNat))
  BitVec.ofNat 320 (numLE (r.1 ++ r.2.flatten))
@[irreducible] def unwrapKey (kek : BitVec 256) (w : BitVec 320) : Option (BitVec 256) :=
  let bs := bytesLE 40 w.toNat
  let r := (List.range 24).reverse.foldl (unwrapStep (bytesLE 32 kek.toNat)) (bs.take 8, blocks8 (bs.drop 8))
  if r.1 = wrapIv then some (key256 r.2.flatten) else none

/-! ### What is shown of a key -/

/-- The public key of an Ed25519 private key (RFC 8032). -/
@[irreducible] def edPublic (key : BitVec 256) : BitVec 256 :=
  let h := numLE ((sha512Bytes (bytesLE 32 key.toNat)).take 32)
  let p := EdPt.mul EdPt.base 256 (h % 2 ^ 254 / 8 * 8 + 2 ^ 254)
  let zi := edPow p.z 256 (edP - 2)
  BitVec.ofNat 256 (p.y * zi % edP + p.x * zi % edP % 2 * 2 ^ 255)

/-- The first four bytes of a zero block enciphered under an AES key (R375). -/
@[irreducible] def aesCheck (key : BitVec 256) : Word := BitVec.ofNat 32 (numLE ((aesEnc (bytesLE 32 key.toNat) (List.replicate 16 0)).take 4))

end Sys2Proof.Machine
end

