-- ==== Sys2Proof/Machine/Sessions.lean ====
section
/-! DEFINITION. Connections and sessions as they begin and end (R308 to R311), and the admission of requests:
token buckets, operations in flight, the count window (R20, R331, R332). -/

namespace Sys2Proof.Machine
open Sys2Proof

/-- Status codes (R315). -/
def stOk : Nat := 0x00
def stBusy : Nat := 0x01
def stShed : Nat := 0x02
def stStarting : Nat := 0x03
def stNopoint : Nat := 0x04
def stReadonly : Nat := 0x05
def stDenied : Nat := 0x06
def stInputpt : Nat := 0x07
def stUnsupported : Nat := 0x08
def stBadmsg : Nat := 0x09
def stBadarg : Nat := 0x0A
def stLoginfail : Nat := 0x0B
def stSessfull : Nat := 0x0C
def stNotx : Nat := 0x0D
def stTxexists : Nat := 0x0E
def stRejected : Nat := 0x0F
def stRushfull : Nat := 0x10
def stUnsigned : Nat := 0x11
def stBadsign : Nat := 0x12
def stTxended : Nat := 0x13
def stState : Nat := 0x14
def stDevfail : Nat := 0x15
def stDevtimeout : Nat := 0x16
def stLimit : Nat := 0x17

/-- The roles of R304 by bit. -/
def roView : Nat := 0
def roOperate : Nat := 1
def roEngineer : Nat := 2
def roTime : Nat := 3
def roUpdate : Nat := 4

/-- The connection number of what no connection waits for. -/
def noCn : Nat := 2 ^ 64

/-! ### The end of a connection (R311) -/

/-- A pending operation whose connection has ended: its answer is dropped. -/
def HostOp.orphan (cn : Nat) : HostOp → HostOp
  | .freeze c rq st sess pt v => .freeze (if c = cn then noCn else c) rq st sess pt v
  | .release c rq st sess pt => .release (if c = cn then noCn else c) rq st sess pt
  | .write c rq st ws => .write (if c = cn then noCn else c) rq st ws

/-- A connection ends: its subscriptions and queued requests go, and what is in progress goes on unanswered. -/
def closeConn (cn : Nat) (s : State) : State :=
  match connOf s cn with
  | none => s
  | some c =>
    let a := admitOf s c.stage
    let mine := a.queue.filter (fun e => e.cn == cn && e.rq != noCn)
    let s := if c.sess.isSome then
        putAdmit c.stage { a with queue := a.queue.filter (fun e => e.cn != cn), inFlight := a.inFlight - mine.length } s
      else s
    let s := { s with
      progs := { s.progs with ops := s.progs.ops.map (HostOp.orphan cn) }
      host := { s.host with
        devReq := s.host.devReq.map (fun e => (e.1, e.2.map (fun (r : DevReq) => if r.cn = cn then { r with cn := noCn } else r)))
        commits := s.host.commits.map (fun (x : Commit) => if x.cn = cn then { x with cn := noCn } else x)
        swapWait := s.host.swapWait.map (fun e => if e.1 = cn then (noCn, e.2) else e) } }
    emit (.closed cn) (putConn cn none s)

/-- Every connection with a property ends. -/
def closeWhere (p : Conn → Bool) (s : State) : State :=
  foldS (s.host.conns.filter (fun e => match e.2 with
    | some c => p c
    | none => false)) (fun e => closeConn e.1) s

/-- Every session ends. -/
def closeSessions (s : State) : State := closeWhere (fun c => c.sess.isSome) s

/-! ### Tokens (R331) -/

/-- A token on the scale on which a bucket fills by TOKRATE in each tick. -/
def tokUnit : Nat := 25_000_000

/-- A stage's bucket as it stands now. -/
def filled (s : State) (st : Nat) : Admit :=
  let a := admitOf s st
  { a with tok := min (tokburst s st * tokUnit) (a.tok + tokrate s st * (s.now - a.at_)), at_ := s.now }

/-- A full bucket (at a start and at a change of STGCFG4). -/
def fullBucket (st : Nat) (s : State) : State :=
  putAdmit st { admitOf s st with tok := tokburst s st * tokUnit, at_ := s.now } s

/-- Milliseconds until a bucket holds `need` more, rounded up; RETRY has 16 bits. -/
def waitMs (s : State) (st need : Nat) : Nat :=
  if tokrate s st = 0 then 65_535 else min 65_535 ((need + tokrate s st * 25_000 - 1) / (tokrate s st * 25_000))

/-! ### BUSY and SHED (R20, R332) -/

/-- The record of a count window. -/
def shedRecord (st : Nat) (s : State) : State :=
  let a := admitOf s st
  logEv 0x44 2 st (viewOf st) 0 (packD [(4, a.busy), (4, a.shedN)]) (putAdmit st { a with win := none, busy := 0, shedN := 0 } s)

/-- A BUSY or SHED of a stage is counted, in the window that it opens or finds open. -/
def countRefusal (st : Nat) (shed : Bool) (s : State) : State :=
  let s := putStg st { stgRt s st with shed := (stgRt s st).shed + 1 } s
  let s := match (admitOf s st).win with
    | some t => if t + secT 1 ≤ s.now then shedRecord st s else s
    | none => s
  let a := admitOf s st
  putAdmit st { a with win := some (a.win.getD s.now), busy := a.busy + b2n (!shed), shedN := a.shedN + b2n shed } s

/-- SHED_WINDOW_END: one record with both counts (R332). -/
def execShedWindowEnd (stage : Nat) (s : State) : Host.Outcome State Fault Refusal :=
  let due := match (admitOf s stage).win with
    | some t => decide (t + secT 1 ≤ s.now)
    | none => false
  whenUpAnd s due (shedRecord stage)

/-- A request is answered with BUSY and a RETRY. -/
def answerBusy (cn rq st op retry : Nat) (s : State) : State :=
  answer cn rq op stBusy retry [] (countRefusal st false s)

/-- A retry-after that the manual leaves to the module: a free value of 16 bits. DESIGN CHOICE, log 2. -/
def freeRetry (s : State) : Nat × State := drawIn 0 65_536 s

/-! ### Rounds of a request -/

/-- A message of a connection: its record is deciphered, and the idle time starts again. -/
def touch (cn : Nat) (s : State) : State :=
  match connOf s cn with
  | some c => putConn cn (some { c with lastMsg := s.now }) (record cn s)
  | none => s

/-- A request of a session: of a connection with its handshake done. Before LOGIN it ends the connection. DEDUCED, log 38. -/
def request (cn : Nat) (s : State) (f : Conn → State → State) : Host.Outcome State Fault Refusal :=
  whenUp s fun s =>
    match connOf s cn with
    | none => s
    | some c => if !c.tls then s else if c.sess.isNone then closeConn cn s else f c (touch cn s)

/-- R312 and R20: 64 requests outstanding in the session, or OPMAX operations of the stage in flight. -/
def noRoom (s : State) (c : Conn) : Bool :=
  decide (64 ≤ c.outstanding) || decide (opmax s c.stage ≤ (admitOf s c.stage).inFlight)

/-- A request of category C without cost: it is answered at once, unless R20 or R312 refuses it. -/
def requestFree (cn rq op : Nat) (s : State) (run : State → State) : Host.Outcome State Fault Refusal :=
  request cn s fun c s =>
    if noRoom s c then
      let r := freeRetry s
      answerBusy cn rq c.stage op r.1 r.2
    else run s

/-- A request of category W or T (R331): it runs at once if the bucket holds its cost. -/
def requestNow (cn rq op cost : Nat) (s : State) (run : Conn → State → State) : Host.Outcome State Fault Refusal :=
  request cn s fun c s =>
    if noRoom s c then
      let r := freeRetry s
      answerBusy cn rq c.stage op r.1 r.2
    else
      let a := filled s c.stage
      if a.tok < cost * tokUnit then answerBusy cn rq c.stage op (waitMs s c.stage (cost * tokUnit - a.tok)) (putAdmit c.stage a s)
      else run c (beginOp cn c.stage (putAdmit c.stage { a with tok := a.tok - cost * tokUnit } s))

/-- The answer of a request that ends at once. -/
def done (cn rq op status : Nat) (pay : List Word) (c : Conn) (s : State) : State := endOp cn rq c.stage op status 0 pay s

/-- A role that the session's principal holds (R304). -/
def hasRole (c : Conn) (i : Nat) : Bool := c.roles.getLsbD i

end Sys2Proof.Machine
end

