-- ==== Sys2Proof/Machine/Keys.lean ====
section
/-! DEFINITION. Keys and the security alarm (15_keys_and_security.md): the key store, replacement, the job
queues, sources and actions. -/

namespace Sys2Proof.Machine
open Sys2Proof

/-! ### The key store (R375) -/

def keySlot (s : State) (i : Nat) : KeySlot := Table.get KeySlot.empty s.keys.slots i
def putKey (i : Nat) (k : KeySlot) (s : State) : State :=
  { s with keys := { s.keys with slots := Table.set KeySlot.empty s.keys.slots i k } }

/-- The slot of a key of a kind and owner in a STATE; slot numbers are storage positions only. -/
def keyIn (s : State) (kind owner st : Nat) : Option Nat :=
  (List.range 34).find? (fun i => keySlot s i |> fun k => k.kind == kind && k.owner == owner && k.st == st)

/-- The slot of the key in force, and that of the key as it stands, be it a failed one. -/
def keyFor (s : State) (kind owner : Nat) : Option Nat := keyIn s kind owner 0
def keyOf (s : State) (kind owner : Nat) : Option Nat := (keyFor s kind owner).orElse (fun _ => keyIn s kind owner 2)

/-- The storage key of a stage and the device key can be used. -/
def storageKeyOk (s : State) (st : Nat) : Bool := s.keys.kek.isSome && (keyFor s 2 st).isSome
def deviceKeyOk (s : State) : Bool := s.keys.kek.isSome && (keyFor s 1 0).isSome

/-- The storage key in force of a stage, as it is wrapped: what a copy is known by to be encrypted under it. -/
def keyWrapped (s : State) (st : Nat) : Option (BitVec 320) := (keyFor s 2 st).map (fun i => (keySlot s i).wrapped)

/-- A copy decrypts and verifies: its stage's key in force can be used and is the one that it was encrypted under (R376). DESIGN
CHOICE, log 67. -/
def copyOk (s : State) (l : LibImage) : Bool := storageKeyOk s l.stage && l.under.isSome && keyWrapped s l.stage == l.under

/-- Copies are written in place under their stage's key in force, each with its next write count. -/
def recopy (p : LibImage → Bool) (s : State) : State :=
  { s with progs := { s.progs with lib := s.progs.lib.map (fun (l : LibImage) =>
      if p l then { l with under := keyWrapped s l.stage, writes := l.writes + 1 } else l) } }

/-- The lowest-numbered empty slot, and the staging slot: the lowest that is empty or staged. -/
def emptySlot (s : State) : Option Nat := (List.range 34).find? (fun i => (keySlot s i).kind == 0)
def stagingSlot (s : State) : Option Nat := (List.range 34).find? (fun i => (keySlot s i).kind == 0 || (keySlot s i).st == 1)

/-- The first 60 bytes of a slot, and the slot with the CRC over them. -/
def slotBytes (k : KeySlot) : List Byte :=
  bytesLE 1 k.slot ++ bytesLE 1 k.kind ++ bytesLE 1 k.owner ++ bytesLE 1 k.st ++ bytesLE 4 k.gen.toNat ++
    bytesLE 40 k.wrapped.toNat ++ bytesLE 4 k.kcv.toNat ++ bytesLE 8 k.created.toNat
def sealSlot (k : KeySlot) : KeySlot := { k with crc := crc32c (slotBytes k) }

/-- A slot whose CRC fails, or whose key does not unwrap, is treated as STATE 2. -/
def judgeSlot (kek : BitVec 256) (k : KeySlot) : KeySlot :=
  if k.kind = 0 || (k.crc == crc32c (slotBytes k) && (unwrapKey kek k.wrapped).isSome) then k else { k with st := 2 }

/-- A fresh value of 256 bits. -/
def draw256 (s : State) : BitVec 256 × State :=
  let a := draw s
  let b := draw a.2
  let c := draw b.2
  let d := draw c.2
  (a.1 ++ b.1 ++ c.1 ++ d.1, d.2)

/-- A fresh key goes into a slot, wrapped under the KEK. -/
def newKey (i kind owner st : Nat) (gen : Word) (s : State) : State :=
  let r := draw256 s
  putKey i (sealSlot
    { slot := i, kind := kind, owner := owner, st := st, gen := gen, wrapped := wrapKey (s.keys.kek.getD 0) r.1
      kcv := if kind = 1 then (edPublic r.1).setWidth 32 else aesCheck r.1, created := houseTime s, crc := 0 }) r.2

/-- The certificate of the device key in force (R376); none without one. -/
def certify (selfSigned : Bool) (s : State) : State :=
  { s with keys := { s.keys with cert := (keyFor s 1 0).bind (fun i => s.keys.kek.bind (fun kek =>
      (unwrapKey kek (keySlot s i).wrapped).map (fun key => ⟨edPublic key, s.eth.baseMac, selfSigned⟩))) } }

/-- A storage key for a newly enabled stage, in the place of a failed one. -/
def makeStorageKey (st : Nat) (s : State) : State :=
  match keyFor s 2 st, s.keys.kek, emptySlot s with
  | none, some _, some i => newKey i 2 st 0 0 (match keyOf s 2 st with
    | some j => putKey j KeySlot.empty s
    | none => s)
  | _, _, _ => s

/-- Enrolment (R374, R375, R387): a fresh root with its helper data and check value, a new device key with its certificate,
which the factory has signed at the first start of all, and a storage key for every enabled stage. -/
def enrol (s : State) : State :=
  let r := draw256 s
  let s := r.2
  let s := { s with keys := { s.keys with
    helper := some ⟨r.1, rootCheck r.1⟩, root := some r.1, kek := some (kekOf r.1), slots := [], erased := false, keyloss := false } }
  let s := newKey 33 2 0 0 0 (newKey 0 1 0 0 0 s)
  certify (!s.power.firstPower) (foldS ((List.range 32).filter (fun i => i != 0 && stageOn s i)) (fun i => newKey i 2 i 0 0) s)

/-- A copy of the stage's is re-encrypted in place under the key written over the old one (R380). -/
def reencrypted (stage loc : Nat) (s : State) : State :=
  match s.keys.repl with
  | some r =>
    if r.staging = r.slot ∧ r.kind = 2 ∧ r.owner = stage then recopy (fun l => l.stage == stage && l.loc == loc) s else s
  | none => s

/-- CRYPTO_JOB_DONE: the register is cleared, and the next job begins (R377, R378). -/
def execCryptoJobDone (s : State) : Host.Outcome State Fault Refusal :=
  whenUpAnd s s.keys.job.isSome fun s =>
    let copy := s.keys.job.bind KeyJob.copy
    let s := { s with keys := { s.keys with job := none, working := none } }
    startJob (match copy with
      | some c => reencrypted c.1 c.2 s
      | none => s)

/-! ### Replacement (R380, R381) -/

/-- KWMODE: true is clear write. -/
def clearWrite (s : State) : Bool := s.keys.pol0.getLsbD 31

/-- The work of a replacement: the known-answer operation on the new key, and then each copy that the old key can read, once
deciphered and once enciphered. -/
def replJobs (s : State) (stg kind owner : Nat) (old : Option (BitVec 320)) : List KeyJob :=
  if kind = 1 then [⟨.sign, .store stg, none⟩, ⟨.verify, .unkeyed, none⟩]
  else
    let copies := s.progs.lib.filter (fun l => l.stage == owner && l.under == old && old.isSome)
    List.replicate 2 ⟨.gcm, .store stg, none⟩ ++ copies.flatMap (fun l =>
      List.replicate (2 * ceilDiv l.bytes.length 65_536 - 1) ⟨.gcm, .store stg, none⟩ ++ [⟨.gcm, .store stg, some (owner, l.loc)⟩])

/-- The next key to replace, in slot order, one at a time. -/
def startRepl (s : State) : State :=
  match s.keys.repl, s.keys.kek, sortBy id s.keys.todo with
  | none, some _, i :: rest =>
    let k := keySlot s i
    let s := { s with keys := { s.keys with todo := rest } }
    match if clearWrite s then some i else stagingSlot s with
    | none => s
    | some stg =>
      let old := if k.st = 0 then some k.wrapped else none
      let s := newKey stg k.kind k.owner (if clearWrite s then 0 else 1) (k.gen + 1) s
      addJobs true (replJobs s stg k.kind k.owner old)
        { s with keys := { s.keys with repl := some ⟨i, stg, k.kind, k.owner, old⟩ } }
  | _, _, _ => s

/-- The new key is in force: a staged one takes its place and the old slot is empty; a new device key has its certificate, and
the copies of a storage key are all under it. -/
def swapKey (r : KeyRepl) (s : State) : State :=
  let k := sealSlot { keySlot s r.staging with st := 0 }
  let s := if r.staging = r.slot then s else putKey r.staging k (putKey r.slot KeySlot.empty s)
  if r.kind = 1 then certify true s else recopy (fun l => l.stage == r.owner && l.under == r.old && r.old.isSome) s

/-- The known-answer check failed: a staged key is discarded, a key written over the old one is marked. -/
def failKey (r : KeyRepl) (s : State) : State :=
  putKey r.staging (if r.staging = r.slot then sealSlot { keySlot s r.slot with st := 2 } else KeySlot.empty) s

/-- A replacement is over: what it has queued goes with it. -/
def dropRepl (r : KeyRepl) (s : State) : State :=
  let left (l : List KeyJob) : List KeyJob := l.filter (fun j => j.key != .store r.staging)
  { s with keys := { s.keys with repl := none, qb := left s.keys.qb, waitB := left s.keys.waitB } }

/-- A replacement or a failed check is recorded (R381): the stage, the kind of key, and 1 for done. -/
def keyEvent (owner kind : Nat) (ok : Bool) (s : State) : State :=
  logEv 0x61 (if ok then 3 else 5) 0 (viewOf 0 ||| viewOf owner) 0 (packD [(1, owner), (1, kind), (1, b2n ok)]) s

/-- KEY_ROTATION_DUE: ROTDAYS after a storage key's CREATED (R381). -/
def execKeyRotationDue (slot : Nat) (s : State) : Host.Outcome State Fault Refusal :=
  let k := keySlot s slot
  let days := bitsOf s.keys.pol0 29 16
  let due := days != 0 && k.kind == 2 && k.st != 1 && decide (k.created.toNat + days * 86_400 * 2 ^ 24 ≤ (houseTime s).toNat)
  whenUpAnd s due fun s =>
    startRepl (if s.keys.todo.contains slot then s else { s with keys := { s.keys with todo := slot :: s.keys.todo } })

/-- A KEYPOL entry at its boundary (R381): the keys named are replaced, a failed one too. -/
def applyKeypol (w0 w1 : Word) (s : State) : State :=
  let s := { s with keys := { s.keys with pol0 := w0 &&& 0xBFFF_0000 } }
  let dev := if w0.getLsbD 30 then (keyOf s 1 0).toList else []
  let sto := ((List.range 32).filter (fun st => w1.getLsbD st)).filterMap (fun st => keyOf s 2 st)
  startRepl { s with keys := { s.keys with todo := (dev ++ sto ++ s.keys.todo).eraseDups } }

/-! ### The security alarm (R382 to R388) -/

/-- The action of a source: 0 log only, 1 lock, 2 erase (R384). -/
def alarmAction (s : State) (i : Nat) : Nat := bitsOf s.keys.sec0 (31 - 2 * i) (30 - 2 * i)

/-- TAMPEN, LOGINN and LOGINWIN. -/
def tampen (s : State) : Bool := s.keys.sec0.getLsbD 19
def loginN (s : State) : Nat := bitsOf s.keys.sec0 7 0
def loginWin (s : State) : Nat := secT (bitsOf s.keys.sec1 31 16)

/-- Lock sessions (R385). -/
def lockSessions (s : State) : State := closeSessions { s with keys := { s.keys with locked := true } }

/-- The CLEAR record (R370): UPTO, records removed, principal and session. -/
def clearRecord (st : Nat) (upto : Word) (removed principal sess : Nat) (s : State) : State :=
  let d := bytesLE 4 upto.toNat ++ bytesLE 4 removed ++ bytesLE 2 principal ++ bytesLE 1 sess
  storeRec { mkRec s 0x02 7 st (viewOf st) 0 d with noclr := true } s

/-- The keys are erased (R386 steps 1 and 2): the root and the device key are not available, and no library copy can be read
again. -/
def eraseStore (s : State) : State :=
  { s with keys := { s.keys with
      root := none, kek := none, working := none, helper := none, slots := [], erased := true, locked := true, keyloss := true
      repl := none, todo := [] } }

/-- The SECALARM records of sources whose action the present one overtakes: those of the last 10 ms, which a lock takes (R385,
R388). DEDUCED, log 53. -/
def alarmRecs (s : State) : List Rec :=
  (allRecs s).filter (fun r => r.code == 0x60 && decide ((houseTime s).toNat ≤ r.time.toNat + 167_772))

/-- Erase keys (R386); the SECALARM record follows the CLEAR record, behind those of sources whose action it overtakes (R388). -/
def eraseKeys (s : State) : State :=
  let s := closeSessions (eraseStore s)
  let n := (allRecs s).length
  let upto := s.log.next - 1
  let overtaken := alarmRecs s
  let s := clearRecord 0 upto n 0 0 { s with log := { s.log with ring := [], archive := [] } }
  let s := foldS overtaken (fun r => storeRec r) s
  { s with progs := { s.progs with
      ops := s.progs.ops ++ (s.points.frz.filter (fun e => e.2.isSome)).map (fun e => HostOp.release noCn noCn (ownerOf s e.1) 255 e.1) } }

/-- A source fires: it is latched at its onset, acts, and is recorded with its action (R382, R388). -/
def fireSource (i : Nat) (s : State) : State :=
  if s.keys.latched.getLsbD i then s
  else
    let s := { s with keys := { s.keys with latched := s.keys.latched ||| (1#6 <<< i) } }
    let a := alarmAction s i
    let s := if a = 1 then lockSessions s else if a = 2 then eraseKeys s else s
    logEv 0x60 7 0 (viewOf 0) 0 (packD [(1, i), (1, a)]) s

/-- TAMPER: TAMP2 has not followed the pattern for 10 ms (R382). -/
def execTamper (s : State) : Host.Outcome State Fault Refusal :=
  whenUpAnd s (tampen s) fun s => fireSource 0 { s with keys := { s.keys with loopOpen := true } }

/-- TAMPER_LOOP_TEST: on VBAT alone an open loop is latched for the next start (R382); LOOPOPEN is the loop as it
is now (R383). -/
def execTamperLoopTest (isOpen : Bool) (s : State) : Host.Outcome State Fault Refusal :=
  let k := { s.keys with loopOpen := isOpen }
  if s.power.mode = .down then
    .next { s with keys := { k with vbatTamper := k.vbatTamper || (isOpen && tampen s) } }
  else .next { s with keys := k }

/-- VGLITCH, CGLITCH and TGLITCH: a rail, the clock, the core die (R382). -/
def execVglitch (s : State) : Host.Outcome State Fault Refusal := whenUp s (fireSource 1)
def execCglitch (s : State) : Host.Outcome State Fault Refusal := whenUp s (fireSource 2)
def execTglitch (s : State) : Host.Outcome State Fault Refusal := whenUp s (fireSource 3)

/-- A failure of R310 counts toward LOGINRUN (R382). -/
def loginFailed (s : State) : State :=
  let l := s.now :: s.host.loginFails.filter (fun t => decide (s.now < t + loginWin s))
  let s := { s with host := { s.host with loginFails := l } }
  if loginN s ≤ l.length then fireSource 4 s else s

/-- The sources that are present now: an open loop while it is monitored, and a core die outside its limits. The others are
momentary. DEDUCED, log 53. -/
def sourcesNow (s : State) : BitVec 6 :=
  let t := (Config.coreTemp s.now).toInt
  BitVec.ofNat 6 (b2n (tampen s && s.keys.loopOpen) + b2n (decide (t < -50 * 65_536) || decide (150 * 65_536 < t)) * 8)

/-- A SECPOL entry at its boundary (R384): CLRLATCH clears each source that is not present. DEDUCED, log 53. -/
def applySecpol (w0 w1 : Word) (s : State) : State :=
  let s := { s with keys := { s.keys with
    sec0 := w0 &&& 0xFFF8_00FF, sec1 := w1 &&& 0xFFFF_0000, locked := s.keys.locked && !w0.getLsbD 17 } }
  if w0.getLsbD 18 then { s with keys := { s.keys with latched := s.keys.latched &&& sourcesNow s } } else s

end Sys2Proof.Machine
end

