-- ==== Sys2Proof/Machine/Connect.lean ====
section
/-! DEFINITION. Reaching the module (R306 to R311, R333, R334): discovery, addresses, connections, handshakes,
logins, and the opening of service. -/

namespace Sys2Proof.Machine
open Sys2Proof

/-- A port by number. -/
def portNo : Port → Nat
  | .ul1 => 0
  | .ul2 => 1
  | .svc => 2

/-- The station holds an address on the port; SVC always does (R306). -/
def portAddr (s : State) : Port → Option Word
  | .svc => some 0xA9FE_4601
  | _ => s.eth.ipAddr

/-- IPCFG0 to IPCFG2 (R306). -/
def ipcfg (s : State) (i : Nat) : Word := Table.get (if i = 2 then 97 else 0) s.eth.ip i
def dhcpMode (s : State) : Bool := bitsOf (ipcfg s 2) 1 0 == 1

/-- The state byte of a greeting (R308); discovery reports 2 for house only (R307). -/
def greetState (s : State) : Nat := if !s.host.svcOpen then 1 else if !s.host.tenants then 3 else 0
def discState (s : State) : Nat := if !s.host.svcOpen then 1 else if !s.host.tenants then 2 else 0

/-- Session numbers in use. -/
def sessUsed (s : State) : List Nat := s.host.conns.filterMap (fun e => match e.2 with
  | some c => c.sess
  | none => none)

/-- Discovery answers of a port within its second of at most 20 (R307). -/
def discRoom (s : State) (port : Port) : Nat × Nat :=
  let w := Table.get (0, 0) s.host.discN (portNo port)
  if w.2 = 0 ∨ w.1 + secT 1 ≤ s.now then (s.now, 0) else w

/-- DISCOVERY: a datagram that begins "QHPD" is answered in every state (R307). -/
def execDiscovery (port : Port) (magic : Word) (s : State) : Host.Outcome State Fault Refusal :=
  whenUpAnd s (coresUp s && magic == 0x4450_4851 && (portAddr s port).isSome && decide ((discRoom s port).2 < 20)) fun s =>
    let w := discRoom s port
    let station := s.eth.baseMac
    let pay : List Word :=
      [s.variant.setWidth 32, (bankInService s 6).provides.setWidth 32, station.setWidth 32,
        (station >>> 32).setWidth 32, BitVec.ofNat 32 (numSessions s - (sessUsed s).length),
        (portAddr s port).getD 0] ++ (List.range 8).map (fun i => BitVec.ofNat 32 (getLE s.eth.name (4 * i) 4))
    emit (.discovery port (discState s) pay)
      { s with host := { s.host with discN := Table.set (0, 0) s.host.discN (portNo port) (w.1, w.2 + 1) } }

/-- DHCP_RETRY: every 10 s while the client has no lease (R306). -/
def execDhcpRetry (s : State) : Host.Outcome State Fault Refusal :=
  let due := match s.eth.dhcpAt with
    | some t => decide (t + secT 10 ≤ s.now)
    | none => true
  whenUpAnd s (dhcpMode s && s.eth.ipAddr.isNone && due) fun s =>
    { s with eth := { s.eth with dhcpAt := some s.now } }

/-- The station's address changes: every session on the uplinks closes (R306). -/
def setAddr (a : Option Word) (s : State) : State :=
  if s.eth.ipAddr = a then s
  else closeWhere (fun c => c.port != .svc) { s with eth := { s.eth with ipAddr := a } }

/-- DHCP_LEASE: the client holds an address (R306). DESIGN CHOICE, log 58. -/
def execDhcpLease (addr : Word) (s : State) : Host.Outcome State Fault Refusal :=
  whenUpAnd s (dhcpMode s) fun s => setAddr (some addr) { s with eth := { s.eth with dhcpAt := none } }

/-! ### Connections (R308 to R311) -/

/-- A connection as TCP accepts it. -/
def Conn.fresh (port : Port) (now : Nat) : Conn :=
  { port := port, tls := false, key := 0, at_ := now, sess := none, stage := 0, principal := 0, roles := 0
    lastMsg := now, bad := 0, outstanding := 0, subs := [], nextSub := 0 }

/-- TLS handshakes in progress. -/
def handshakes (s : State) : Nat := (s.host.conns.filter (fun e => match e.2 with
  | some c => !c.tls
  | none => false)).length

/-- TCP_CONNECT: the greeting, and TLS or the end of the connection (R308). -/
def execTcpConnect (cn : Nat) (port : Port) (s : State) : Host.Outcome State Fault Refusal :=
  whenUpAnd s (coresUp s && (connOf s cn).isNone && (portAddr s port).isSome) fun s =>
    if greetState s = 1 then
      let r := drawIn 50 350 s
      emit (.closed cn) (emit (.greeting cn 1 r.1) r.2)
    else if 8 ≤ handshakes s then
      let r := drawIn 20 180 s
      emit (.closed cn) (emit (.greeting cn 2 r.1) r.2)
    else emit (.greeting cn (greetState s) 0) (putConn cn (some (Conn.fresh port s.now)) s)

/-- TLS_HANDSHAKE_DONE: the client's key is known (R309). Without a usable device key no handshake completes
(R386), and the connection ends. Each handshake's cryptographic work is 20 jobs of the session queue (R378). DEDUCED, log 47. DESIGN CHOICE, log 58. -/
def execTlsHandshakeDone (cn : Nat) (key : BitVec 256) (s : State) : Host.Outcome State Fault Refusal :=
  whenUp s fun s =>
    match connOf s cn with
    | some c =>
      if c.tls then s
      else if deviceKeyOk s then
        addJobs false (handshakeJobs s cn) (putConn cn (some { c with tls := true, key := key, at_ := s.now, lastMsg := s.now }) s)
      else closeConn cn s
    | none => s

/-- LOGIN_TIMEOUT: no LOGIN within 10 s of the end of the handshake (R310). -/
def execLoginTimeout (cn : Nat) (s : State) : Host.Outcome State Fault Refusal :=
  let due := match connOf s cn with
    | some c => c.tls && c.sess.isNone && decide (c.at_ + secT 10 ≤ s.now)
    | none => false
  whenUpAnd s due (closeConn cn)

/-- SESSION_IDLE_TIMEOUT: 30 s without any message (R311). -/
def execSessionIdleTimeout (cn : Nat) (s : State) : Host.Outcome State Fault Refusal :=
  let due := match connOf s cn with
    | some c => c.sess.isSome && decide (c.lastMsg + secT 30 ≤ s.now)
    | none => false
  whenUpAnd s due (closeConn cn)

/-- SESSION_CLOSE: TCP or TLS closure (R311). -/
def execSessionClose (cn : Nat) (s : State) : Host.Outcome State Fault Refusal := whenUp s (closeConn cn)

/-! ### LOGIN (R305, R310, R331, R334, R385) -/

/-- A role mask holds a custodian role. -/
def custodian (roles : Half) : Bool := roles.getLsbD 5 || roles.getLsbD 6 || roles.getLsbD 7

/-- What a client key may be in a stage: its principal number and roles. In the commissioning state SVC takes any
key for stage 0 (R305). -/
def principalFor (s : State) (c : Conn) (stage : Nat) : Option (Nat × Half) :=
  if s.host.commissioning && c.port == .svc && stage == 0 then some (0, 0x1F)
  else (s.host.principals.find? (fun p => p.key == c.key && p.stage == stage)).map (fun p => (p.num, p.roles))

/-- A login that fails: its answer, and the end of the connection. DEDUCED, log 38. -/
def refuseLogin (cn rq status : Nat) (s : State) : State := closeConn cn (answer cn rq 0x0001 status 0 [] s)

/-- A login with its tokens taken. -/
def loginAs (cn rq stage : Nat) (c : Conn) (s : State) : State :=
  let p := principalFor s c stage
  let locked := s.keys.locked
  match p with
  | none =>
    let s := refuseLogin cn rq stLoginfail s
    if locked then s else loginFailed s
  | some (num, roles) =>
    if locked && !(stage == 0 && custodian roles) then refuseLogin cn rq stLoginfail s
    else
      match (List.range (numSessions s)).find? (fun i => !(sessUsed s).contains i) with
      | none => refuseLogin cn rq stSessfull s
      | some i =>
        if sesmax s stage ≤ sessionsOf s stage then refuseLogin cn rq stSessfull s
        else
          let new : Conn := { c with sess := some i, stage := stage, principal := num, roles := roles, lastMsg := s.now }
          answer cn rq 0x0001 stOk 0 [BitVec.ofNat 32 i] (putConn cn (some new) s)

/-- LOGIN (R310). A stage that is off fails first; a tenant before its admission is answered STARTING; then the
tokens of the named stage are taken. DEDUCED, log 38. -/
def execLogin (cn rq stage : Nat) (s : State) : Host.Outcome State Fault Refusal :=
  whenUp s fun s =>
    match connOf s cn with
    | none => s
    | some c =>
      if !c.tls then s
      else if c.sess.isSome then answer cn rq 0x0001 stState 0 [] (touch cn s)
      else if !stageOn s stage then
        let s' := refuseLogin cn rq stLoginfail s
        if s.keys.locked then s' else loginFailed s'
      else if stage != 0 && !s.host.tenants then
        let r := drawIn 500 3500 s
        answer cn rq 0x0001 stStarting r.1 [] r.2
      else
        let a := filled s stage
        if a.tok < 32 * tokUnit then
          answerBusy cn rq stage 0x0001 (waitMs s stage (32 * tokUnit - a.tok)) (putAdmit stage a s)
        else loginAs cn rq stage c (putAdmit stage { a with tok := a.tok - 32 * tokUnit } s)

/-- LOGOUT (R311). -/
def execLogout (cn rq : Nat) (s : State) : Host.Outcome State Fault Refusal :=
  requestFree cn rq 0x0002 s fun s => closeConn cn (answer cn rq 0x0002 stOk 0 [] s)

/-- PING (R314). -/
def execPing (cn rq : Nat) (s : State) : Host.Outcome State Fault Refusal :=
  requestFree cn rq 0x0003 s (answer cn rq 0x0003 stOk 0 [])

/-- UNPARSABLE_MESSAGE: BADMSG, which echoes the request number, and the end of the session at the third (R312). A reserved OP
is such a message (R314). -/
def execUnparsableMessage (m : BadMsg) (s : State) : Host.Outcome State Fault Refusal :=
  whenUp s fun s =>
    match connOf s m.cn with
    | none => s
    | some c =>
      if !c.tls then s
      else if c.sess.isNone then closeConn m.cn s
      else
        let s := answer m.cn m.rq m.op stBadmsg 0 [] (putConn m.cn (some { c with bad := c.bad + 1, lastMsg := s.now }) (record m.cn s))
        if 3 ≤ c.bad + 1 then closeConn m.cn s else s

/-! ### The opening of service (R333, R334) -/

/-- Every used MSL slot whose network can send has sent its first OPEN, or has entered LISTEN. -/
def mslReady (s : State) : Bool :=
  (List.range 32).all (fun i => !mslUsed s i || !canSend s (mslCfg s i).net ||
    (if isConsumer i then s.msl.opened.contains i else (mslOf s i).st != .unused))

/-- Service may open now: 5.0 s after power-good at the latest, and not before the latest of R333. -/
def serviceDue (s : State) : Bool :=
  decide (s.power.goodAt + secT 5 ≤ s.now) ||
    (decide (s.power.goodAt + secT 1 ≤ s.now) && decide ((takeOf s 0).takecnt ≠ 0) && mslReady s)

/-- What is recorded once service opens: the result of the self test (R419), and the cause of a recovery (R403). -/
def openRecords (s : State) : State :=
  let s := match s.integ.bist with
    | some (n, rows) =>
      logEv 0x83 3 0 (viewOf 0) 0 (packD [(1, n), (2, rows), (2, s.integ.rowSpare), (1, b2n s.loops.inService),
        (1, s.integ.cores.toNat)]) { s with integ := { s.integ with bist := none } }
    | none => s
  match s.upd.cause with
  | some c => logEv 0x73 6 0 (viewOf 0) 0 (packD [(1, c)]) { s with upd := { s.upd with cause := none } }
  | none => s

/-- SERVICE_OPEN: buckets are full at t_open (R333, R334). The boot has then succeeded, and BOOTFAIL
reports the failed boots before it (R401). -/
def execServiceOpen (s : State) : Host.Outcome State Fault Refusal :=
  whenUpAnd s (coresUp s && !s.host.svcOpen && serviceDue s) fun s =>
    let s := foldS (List.range 32) fullBucket
      { s with host := { s.host with svcOpen := true, tenants := false, openAt := s.now } }
    openRecords { s with upd := { s.upd with bootCnt := 0, bootFail := if s.upd.bootCnt = 0 then s.upd.bootFail else s.upd.bootPrev } }

/-- TENANT_ADMISSION: 1.0 s after t_open every stage is admitted (R334). -/
def execTenantAdmission (s : State) : Host.Outcome State Fault Refusal :=
  whenUpAnd s (s.host.svcOpen && !s.host.tenants && decide (s.host.openAt + secT 1 ≤ s.now)) fun s =>
    { s with host := { s.host with tenants := true } }

end Sys2Proof.Machine
end

