-- ==== Sys2Proof/Machine/Requests.lean ====
section
/-! DEFINITION. Requests of sessions (R312 to R319, R330 to R332, R369, R370): the stage's queue, and the
operations that read, write, subscribe, and act on devices and functions. -/

namespace Sys2Proof.Machine
open Sys2Proof

/-! ### Whole checks (R313) -/

/-- The first failing status in the order NOPOINT, DENIED, READONLY, INPUTPT, BADARG; 0: none. -/
def firstStatus (nopoint denied readonly inputpt badarg : Bool) : Nat :=
  if nopoint then stNopoint else if denied then stDenied else if readonly then stReadonly
  else if inputpt then stInputpt else if badarg then stBadarg else stOk

/-- A point that a device or CAN input mapping fills (R317). -/
def isMapped (s : State) (pt : Nat) : Bool :=
  s.eth.dev.any (fun e => match e.2 with
    | some d => decide (d.inFirst ≤ pt) && decide (pt < d.inFirst + d.inCnt)
    | none => false) ||
  (List.range 2).any (fun c => (canOf s c).rxEntries.any (fun e =>
    decide (e.2.first ≤ pt) && decide (pt < e.2.first + (e.2.len + 3) / 4)))

/-- A point that R317 refuses with INPUTPT. -/
def isInputPt (s : State) (pt : Nat) : Bool :=
  isLocalInput s pt || isLoopOut s pt || isMapped s pt || (match objOf s pt with
    | some o => o.kind == 1
    | none => false)

/-- The status of a write of points by a session (R313, R317); `role`: it has the role. -/
def writeStatus (s : State) (stage : Nat) (role : Bool) (pts : List Nat) : Nat :=
  let own (pt : Nat) : Bool := isRelRW pt || ownerOf s pt == stage
  let ro (pt : Nat) : Bool := isReadOnly pt && !isLocalInput s pt
  firstStatus (pts.any (fun pt => !pointExists s pt)) (!role || pts.any (fun pt => !own pt)) (pts.any ro)
    (pts.any (isInputPt s)) false

/-- The status of a freeze or release (R129, R249). -/
def freezeStatus (s : State) (stage : Nat) (role : Bool) (pt : Nat) : Nat :=
  firstStatus (!pointExists s pt) (!role || ownerOf s pt != stage) (isReadOnly pt || decide (blockOf pt < 4) || inMslBlock s pt)
    false false

/-! ### Queued requests as they are served (R316, R318, R365, R369) -/

/-- The operation code of a queued request (R314). -/
def Req.op : Req → Nat
  | .read _ => 0x0010
  | .subscribe _ _ => 0x0012
  | .unsubscribe _ => 0x0013
  | .notify _ => 0x0014
  | .loopread _ => 0x0018
  | .evread _ _ _ _ => 0x0040
  | .statread => 0x0050

/-- READ (R316): index by index, the value and the quality word. DESIGN CHOICE, log 37. -/
def readPay (s : State) (stage : Nat) (pts : List Nat) : List Word :=
  pts.flatMap (fun pt =>
    let v := readNow s stage pt
    [v.val, v.q.setWidth 32])

/-- Subscribed points of a session and of the module. -/
def subPts (c : Conn) : Nat := (c.subs.map (fun x => x.pts.length)).sum
def allSubPts (s : State) : Nat := (s.host.conns.map (fun e => match e.2 with
  | some c => subPts c
  | none => 0)).sum

/-- The status of a request that names points to read (R313, R316). More than 4,096 points are LIMIT before any of them is
looked at. DESIGN CHOICE, log 38. -/
def readStatus (s : State) (c : Conn) (pts : List Nat) (bad : Bool) : Nat :=
  if 4096 < pts.length then stLimit
  else firstStatus (pts.any (fun pt => !pointExists s pt)) (!hasRole c roView || pts.any (fun pt => !mayRead s c.stage pt))
    false false bad

/-- A new subscription (R318). -/
def Sub.fresh (num : Nat) (pts : List Nat) (minint : Nat) : Sub :=
  { num := num, pts := pts, minint := minint, last := [], lastAt := none, queued := none, gap := false, owed := []
    queuedAt := 0 }

/-- A subscription of a session changed. -/
def mapSub (cn num : Nat) (f : Sub → Sub) (s : State) : State :=
  match connOf s cn with
  | some c => putConn cn (some { c with subs := c.subs.map (fun x => if x.num = num then f x else x) }) s
  | none => s

/-- SUBSCRIBE: its number is the answer (R318). -/
def serveSubscribe (cn rq : Nat) (c : Conn) (pts : List Nat) (minint : Nat) (s : State) : State :=
  let st := readStatus s c pts (decide (60_000 < minint))
  if st != stOk then endOp cn rq c.stage 0x0012 st 0 [] s
  else if 16 ≤ c.subs.length ∨ 8_192 < subPts c + pts.length ∨ 32_768 < allSubPts s + pts.length then
    endOp cn rq c.stage 0x0012 stLimit 0 [] s
  else
    let s := putConn cn (some { c with subs := c.subs ++ [Sub.fresh c.nextSub pts minint], nextSub := c.nextSub + 1 }) s
    endOp cn rq c.stage 0x0012 stOk 0 [BitVec.ofNat 32 c.nextSub] s

/-- UNSUBSCRIBE: one subscription and its queued NOTIFY go (R314). -/
def serveUnsubscribe (cn rq : Nat) (c : Conn) (sub : Nat) (s : State) : State :=
  let st := firstStatus false (!hasRole c roView) false false (!c.subs.any (fun x => x.num == sub))
  if st != stOk then endOp cn rq c.stage 0x0013 st 0 [] s
  else
    let a := admitOf s c.stage
    let q := a.queue.filter (fun e => !(e.cn == cn && e.req == .notify sub))
    let s := putAdmit c.stage { a with queue := q } s
    endOp cn rq c.stage 0x0013 stOk 0 [] (putConn cn (some { c with subs := c.subs.filter (fun x => x.num != sub) }) s)

/-- The words of a NOTIFY: index, value and quality of every differing point. -/
def notePay (l : List (Nat × PV)) : List Word :=
  l.flatMap (fun e => [BitVec.ofNat 32 e.1, e.2.val, e.2.q.setWidth 32])

/-- NOTIFY is sent (R318): what it carries is what was last sent. -/
def serveNotify (cn : Nat) (c : Conn) (sub : Nat) (s : State) : State :=
  match c.subs.find? (fun x => x.num == sub) with
  | none => s
  | some x =>
    match x.queued with
    | none => s
    | some l =>
      let s := notify cn 0x0014 sub stOk x.gap (notePay l) s
      mapSub cn sub (fun y => { y with
        last := l.foldl (fun t e => Table.set none t e.1 (some e.2)) y.last, lastAt := some s.now, queued := none
        gap := false, owed := [] }) s

/-- LOOPREAD: status word, output, set-point and process value (R314). -/
def serveLoopread (cn rq : Nat) (c : Conn) (loops : List Nat) (s : State) : State :=
  let st := firstStatus false (!hasRole c roView || loops.any (fun n => decide (n < numLoops s) && !ownsLoop s c.stage n))
    false false (loops.any (fun n => decide (numLoops s ≤ n) || (loopDesc s n).kind == 2))
  endOp cn rq c.stage 0x0018 st 0 (if st = stOk then loops.flatMap (fun n =>
    let l := loopRt s n
    [l.status, l.lastOut.1, l.lastSp.1, l.lastPv.1]) else []) s

/-- The records of a stage's view, oldest first (R368). -/
def viewRecs (s : State) (st : Nat) : List Rec := (allRecs s).filter (fun r => r.view.getLsbD st)

/-- The oldest and the newest RSEQ of a view. -/
def oldestRec (l : List Rec) : Word := ((l.head?).map (fun r => r.rseq)).getD 0
def newestRec (l : List Rec) : Word := ((l.getLast?).map (fun r => r.rseq)).getD 0

/-- Distance from the oldest RSEQ, signed (RSEQ order modulo 2^32). -/
def rseqPos (oldest r : Word) : Int := (r - oldest).toInt

/-- The records that an EVREAD returns (R369). DESIGN CHOICE, log 37. -/
def evRecs (l : List Rec) (start : Option Word) (back : Bool) (n minsev : Nat) : List Rec :=
  let o := oldestRec l
  let at_ := rseqPos o (start.getD (newestRec l))
  let m := l.filter (fun r => decide (minsev ≤ r.sev) &&
    (if back then decide (rseqPos o r.rseq ≤ at_) else decide (at_ ≤ rseqPos o r.rseq)))
  if back then m.drop (m.length - n) else m.take n

/-- EVREAD (R369): each record with the reader's own bit alone in VIEW, and its CRC over what is returned. -/
def serveEvread (cn rq : Nat) (c : Conn) (start : Option Word) (back : Bool) (n minsev : Nat) (s : State) : State :=
  let st := firstStatus false (!hasRole c roView) false false (n == 0 || decide (256 < n) || decide (7 < minsev))
  let l := viewRecs s c.stage
  let recs := (evRecs l start back n minsev).flatMap (fun r => ({ r with view := viewOf c.stage } : Rec).bytes)
  let pay := [oldestRec l, newestRec l, s.log.dropped, s.log.overwr, s.log.overwr7, s.log.archlost] ++
    (List.range (recs.length / 4)).map (fun i => BitVec.ofNat 32 (getLE recs (4 * i) 4))
  endOp cn rq c.stage 0x0040 st 0 (if st = stOk then pay else []) s

/-- STATREAD: the 64-bit MAC counters (R268), CAN status and counters, and the MSL status words. DESIGN CHOICE, log 37. -/
def statPay (s : State) : List Word :=
  (List.range 7).flatMap (fun m => (List.range 64).flatMap (fun i =>
    [Table.get 0 (macOf s m).cnt i, Table.get 0 (macOf s m).hi i])) ++
  (List.range 2).flatMap (fun c => canStat (canOf s c) :: (List.range 15).map (fun i => Table.get 0 (canOf s c).cnt (i + 1))) ++
  (List.range 32).map (mslStatus s) ++ [s.msl.discards]

def serveStatread (cn rq : Nat) (c : Conn) (s : State) : State :=
  let st := firstStatus false (!hasRole c roView || c.stage != 0) false false false
  endOp cn rq c.stage 0x0050 st 0 (if st = stOk then statPay s else []) s

/-- A queued request runs. -/
def serveReq (e : QEnt) (s : State) : State :=
  match connOf s e.cn with
  | none => s
  | some c =>
    match e.req with
    | .read pts =>
      let st := readStatus s c pts false
      endOp e.cn e.rq c.stage 0x0010 st 0 (if st = stOk then readPay s c.stage pts else []) s
    | .subscribe pts minint => serveSubscribe e.cn e.rq c pts minint s
    | .unsubscribe sub => serveUnsubscribe e.cn e.rq c sub s
    | .notify sub => serveNotify e.cn c sub s
    | .loopread loops => serveLoopread e.cn e.rq c loops s
    | .evread start back n minsev => serveEvread e.cn e.rq c start back n minsev s
    | .statread => serveStatread e.cn e.rq c s

/-! ### The queue (R331, R332) -/

/-- The next request to serve: the order R, S, E, X, and arrival order within one category. -/
def nextEnt (q : List QEnt) : Option QEnt :=
  q.foldl (fun a e => match a with
    | none => some e
    | some b => if e.cat < b.cat then some e else some b) none

/-- The request to shed from a full queue: the youngest of the lowest category present. -/
def shedEnt (q : List QEnt) : Option QEnt :=
  q.foldl (fun a e => match a with
    | none => some e
    | some b => if b.cat ≤ e.cat then some e else some b) none

/-- A request may be served: the reserve of TOKBURST / 8 stays. -/
def affordable (s : State) (st : Nat) (e : QEnt) : Bool :=
  decide ((8 * e.cost + tokburst s st) * tokUnit ≤ 8 * (admitOf s st).tok)

/-- The first entry equal to one is removed from a queue. -/
def dropEnt (e : QEnt) (q : List QEnt) : List QEnt := q.erase e

/-- The queue is served while the bucket allows; `n` bounds the requests served. -/
def pumpQueue (st : Nat) : Nat → State → State
  | 0, s => s
  | n + 1, s =>
    match nextEnt (admitOf s st).queue with
    | none => s
    | some e =>
      if affordable s st e then
        let a := admitOf s st
        pumpQueue st n (serveReq e (putAdmit st { a with queue := dropEnt e a.queue, tok := a.tok - e.cost * tokUnit } s))
      else s

/-- The stage's queue is served as the bucket stands now. -/
def pump (st : Nat) (s : State) : State :=
  let s := putAdmit st (filled s st) s
  pumpQueue st (admitOf s st).queue.length s

/-- The queue's present wait in milliseconds (R332). -/
def queueWait (s : State) (st : Nat) : Nat :=
  let a := filled s st
  let need := (8 * (a.queue.map (fun e => e.cost)).sum + tokburst s st) * tokUnit - 8 * a.tok
  max 1 (waitMs s st ((need + 7) / 8))

/-- A NOTIFY is shed: the next one carries its points and sets GAP (R318). -/
def Sub.shed (x : Sub) : Sub :=
  { x with queued := none, gap := true, owed := ((x.queued.getD []).map (fun e => e.1) ++ x.owed).eraseDups }

/-- A request is shed. -/
def shed (st : Nat) (e : QEnt) (s : State) : State :=
  let a := admitOf s st
  let s := putAdmit st { a with queue := dropEnt e a.queue } s
  match e.req with
  | .notify sub => mapSub e.cn sub Sub.shed s
  | _ => endOp e.cn e.rq st e.req.op stShed (queueWait s st) [] (countRefusal st true s)

/-- An entry joins the stage's queue, which sheds one if it was full. -/
def enqueue (st : Nat) (e : QEnt) (s : State) : State :=
  let a := filled s st
  let s := putAdmit st { a with queue := a.queue ++ [e] } s
  if (admitOf s st).queue.length ≤ qlen s st then s
  else
    match shedEnt (admitOf s st).queue with
    | some x => shed st x s
    | none => s

/-- A request of category R, S, E or X arrives (R331). -/
def requestQueued (cn rq cat cost : Nat) (r : Req) (s : State) : Host.Outcome State Fault Refusal :=
  request cn s fun c s =>
    if noRoom s c then
      let x := freeRetry s
      answerBusy cn rq c.stage r.op x.1 x.2
    else
      let e : QEnt := { cn := cn, rq := rq, cat := cat, cost := cost, at_ := s.now, req := r }
      pump c.stage (enqueue c.stage e (beginOp cn c.stage s))

def execRead (cn rq : Nat) (pts : List Nat) (s : State) : Host.Outcome State Fault Refusal :=
  requestQueued cn rq 0 (1 + ceilDiv pts.length 64) (.read pts) s

def execSubscribe (cn rq : Nat) (pts : List Nat) (minint : Nat) (s : State) : Host.Outcome State Fault Refusal :=
  requestQueued cn rq 1 (1 + ceilDiv pts.length 64) (.subscribe pts minint) s

def execUnsubscribe (cn rq sub : Nat) (s : State) : Host.Outcome State Fault Refusal :=
  requestQueued cn rq 1 1 (.unsubscribe sub) s

def execLoopread (cn rq : Nat) (loops : List Nat) (s : State) : Host.Outcome State Fault Refusal :=
  requestQueued cn rq 0 (1 + ceilDiv loops.length 16) (.loopread loops) s

def execEvread (cn rq : Nat) (start : Option Word) (back : Bool) (n minsev : Nat) (s : State) :
    Host.Outcome State Fault Refusal :=
  requestQueued cn rq 2 (1 + ceilDiv n 16) (.evread start back n minsev) s

def execStatread (cn rq : Nat) (s : State) : Host.Outcome State Fault Refusal := requestQueued cn rq 3 4 .statread s

/-- NOTIFY: the queued notification of a subscription is served as the bucket allows (R318, R331). -/
def execNotify (cn sub : Nat) (s : State) : Host.Outcome State Fault Refusal :=
  whenUp s fun s =>
    match connOf s cn with
    | some c => if c.sess.isSome && c.subs.any (fun x => x.num == sub && x.queued.isSome) then pump c.stage s else s
    | none => s

/-- REQUEST_DEQUEUE: the bucket has filled enough for the next queued request (R331). -/
def execRequestDequeue (stage : Nat) (s : State) : Host.Outcome State Fault Refusal :=
  whenUp s (pump stage)

/-- REQUEST_AGE_SHED: requests that have waited 10 s are shed (R332). -/
def execRequestAgeShed (stage : Nat) (s : State) : Host.Outcome State Fault Refusal :=
  whenUp s fun s =>
    foldS ((admitOf s stage).queue.filter (fun e => decide (e.at_ + secT 10 ≤ s.now))) (shed stage) s

/-! ### Subscriptions at a half-period start (R318) -/

/-- The points of a subscription that differ from what was last sent. -/
def differing (s : State) (stage : Nat) (x : Sub) : List (Nat × PV) :=
  (x.pts.map (fun pt => (pt, readNow s stage pt))).filter (fun e => Table.get none x.last e.1 != some e.2)

/-- The cost of a NOTIFY by the points that it carries (R314). -/
def notifyCost (l : List (Nat × PV)) : Nat := 1 + ceilDiv l.length 64

/-- The queued NOTIFY of a subscription costs by what it carries now. -/
def repriceNotify (cn st num : Nat) (l : List (Nat × PV)) (s : State) : State :=
  let a := admitOf s st
  putAdmit st { a with queue := a.queue.map (fun (e : QEnt) =>
    if e.cn = cn ∧ e.req = .notify num then { e with cost := notifyCost l } else e) } s

/-- One subscription is compared: at most one NOTIFY is queued, and a queued one is brought up to date. A new one carries the
differing points and those of NOTIFYs that were shed. -/
def compareSub (cn : Nat) (x : Sub) (s : State) : State :=
  match connOf s cn with
  | none => s
  | some c =>
    let d := differing s c.stage x
    if x.queued.isSome then
      let queued := x.queued.getD []
      -- a point that no longer differs keeps the newest state in the queued NOTIFY
      let l := x.pts.filterMap (fun pt =>
        if d.any (fun e => e.1 == pt) || queued.any (fun e => e.1 == pt) then some (pt, readNow s c.stage pt) else none)
      repriceNotify cn c.stage x.num l (mapSub cn x.num (fun y => { y with queued := some l }) s)
    else
      let ready := match x.lastAt with
        | some t => decide (t + msT x.minint ≤ s.now)
        | none => true
      if d.isEmpty || !ready then s
      else
        let owed := x.pts.filter (fun pt => x.owed.contains pt && !d.any (fun e => e.1 == pt))
        let l := d ++ owed.map (fun pt => (pt, readNow s c.stage pt))
        let s := mapSub cn x.num (fun y => { y with queued := some l, owed := [], queuedAt := s.now }) s
        enqueue c.stage { cn := cn, rq := noCn, cat := 1, cost := notifyCost l, at_ := s.now, req := .notify x.num } s

/-- Every subscription of every session, at offset 0 of a half-period. -/
def compareSubs (s : State) : State :=
  let s := foldS s.host.conns (fun e t => match e.2 with
    | some c => foldS c.subs (compareSub e.1) t
    | none => t) s
  foldS ((List.range 32).filter (fun st => !(admitOf s st).queue.isEmpty)) pump s

/-! ### Writes and freezes (R317, R129, R130) -/

/-- A single operation waits for its input phase. -/
def postOp (o : HostOp) (s : State) : State := { s with progs := { s.progs with ops := s.progs.ops ++ [o] } }

def execWrite (cn rq : Nat) (ws : List (Nat × Word)) (s : State) : Host.Outcome State Fault Refusal :=
  requestNow cn rq 0x0011 (1 + ceilDiv ws.length 64) s fun c s =>
    let st := if 4096 < ws.length then stLimit else writeStatus s c.stage (hasRole c roOperate) (ws.map (fun e => e.1))
    if st != stOk then done cn rq 0x0011 st [] c s
    else if ws.isEmpty then done cn rq 0x0011 stOk [] c s
    else postOp (.write cn rq c.stage ws) s

def execFreeze (cn rq pt : Nat) (v : Word) (s : State) : Host.Outcome State Fault Refusal :=
  requestNow cn rq 0x0020 2 s fun c s =>
    let st := freezeStatus s c.stage (hasRole c roOperate) pt
    if st != stOk then done cn rq 0x0020 st [] c s else postOp (.freeze cn rq c.stage (sessNo s cn) pt v) s

def execRelease (cn rq pt : Nat) (s : State) : Host.Outcome State Fault Refusal :=
  requestNow cn rq 0x0021 2 s fun c s =>
    let st := freezeStatus s c.stage (hasRole c roOperate) pt
    if st != stOk then done cn rq 0x0021 st [] c s else postOp (.release cn rq c.stage (sessNo s cn) pt) s

/-! ### EVCLEAR (R370) -/

/-- A clear: the records removed, and the CLEAR record that follows them. -/
def clearLog (st : Nat) (upto : Word) (principal sess : Nat) (s : State) : State :=
  let o := oldestRec (viewRecs s st)
  let goes (r : Rec) : Bool := r.owner == st && !r.noclr && decide (rseqPos o r.rseq ≤ rseqPos o upto)
  let n := ((allRecs s).filter goes).length
  clearRecord st upto n principal sess { s with log := { s.log with
    ring := s.log.ring.filter (fun e => !goes e.1), archive := s.log.archive.filter (fun r => !goes r) } }

def execEvclear (cn rq : Nat) (upto : Word) (s : State) : Host.Outcome State Fault Refusal :=
  requestNow cn rq 0x0041 4 s fun c s =>
    let l := viewRecs s c.stage
    let pos := rseqPos (oldestRec l) upto
    let inside := !l.isEmpty && decide (0 ≤ pos) && decide (pos ≤ rseqPos (oldestRec l) (newestRec l))
    let st := firstStatus false (!hasRole c (if c.stage = 0 then 5 else roEngineer)) false false (!inside)
    if st != stOk then done cn rq 0x0041 st [] c s
    else
      let seq := s.log.next
      done cn rq 0x0041 stOk [seq] c (clearLog c.stage upto c.principal (c.sess.getD 0) s)

/-! ### Functions, slots, controllers (R212, R239, R289, R297) -/

/-- A request of 200 ms on a bit of a function's request point (R212). -/
def safetyRequest (cn rq op f bit : Nat) (s : State) : Host.Outcome State Fault Refusal :=
  requestNow cn rq op 2 s fun c s =>
    if !hasRole c roOperate then done cn rq op stDenied [] c s
    else if 8 ≤ f then done cn rq op stBadarg [] c s
    else if (fnCfg s f).reqpt = 0 then done cn rq op stState [] c s
    else if ownerOf s (fnCfg s f).reqpt ≠ c.stage then done cn rq op stDenied [] c s
    else
      done cn rq op stOk [] c { s with saf := { s.saf with hostReq := s.saf.hostReq ++ [(f, bit, s.now + msT 200)] } }

def execSafreset (cn rq f : Nat) (s : State) : Host.Outcome State Fault Refusal := safetyRequest cn rq 0x0060 f 0 s
def execSafack (cn rq f : Nat) (s : State) : Host.Outcome State Fault Refusal := safetyRequest cn rq 0x0061 f 1 s

/-- MSLACK: HALT of a slot ends (R239). -/
def execMslack (cn rq slot : Nat) (s : State) : Host.Outcome State Fault Refusal :=
  requestNow cn rq 0x0062 2 s fun c s =>
    if !hasRole c roOperate || c.stage != 0 then done cn rq 0x0062 stDenied [] c s
    else if 32 ≤ slot then done cn rq 0x0062 stBadarg [] c s
    else if (mslOf s slot).st != .halt then done cn rq 0x0062 stState [] c s
    else done cn rq 0x0062 stOk [] c (ackHalt slot s)

/-- A CAN operation is of a session of stage 0 or of the stage that owns REQPT's block (R289). -/
def canRight (s : State) (c : Conn) (n : Nat) : Bool :=
  hasRole c roOperate && (c.stage == 0 || ((canOf s n).reqpt != 0 && ownerOf s (canOf s n).reqpt == c.stage))

/-- CANABORT acts at the next output phase (R289). -/
def execCanabort (cn rq n : Nat) (s : State) : Host.Outcome State Fault Refusal :=
  requestNow cn rq 0x0063 2 s fun c s =>
    if 2 ≤ n then done cn rq 0x0063 (if hasRole c roOperate then stBadarg else stDenied) [] c s
    else if !canRight s c n then done cn rq 0x0063 stDenied [] c s
    else done cn rq 0x0063 stOk [] c (putCan n { canOf s n with abortReq := true } s)

/-- CANRECOVER (R297). -/
def execCanrecover (cn rq n : Nat) (s : State) : Host.Outcome State Fault Refusal :=
  requestNow cn rq 0x0064 2 s fun c s =>
    if 2 ≤ n then done cn rq 0x0064 (if hasRole c roOperate then stBadarg else stDenied) [] c s
    else if !canRight s c n then done cn rq 0x0064 stDenied [] c s
    else done cn rq 0x0064 stOk [] c (canRecover n s)

/-! ### DEVREQ (R319, R20) -/

/-- The stage of a device of a segment; none: not in the table. -/
def deviceStage (s : State) (g node : Nat) : Option Nat :=
  if g ≤ 4 then ((segDevs s g).find? (fun e => e.2.node == node)).map (fun e => e.2.stage)
  else (canOf s (g - 5)).dev.findSome? (fun e => match e.2 with
    | some d => if d.node = node then some d.stage else none
    | none => none)

/-- A request of segments 1 to 4 that has started goes out as soon as no window keeps it (R43). -/
def sendDev (key : Nat) (s : State) : State :=
  match devQueue s key with
  | [] => s
  | r :: t =>
    let g := key / 256
    if g ≤ 4 && r.startAt.isSome && !r.sent && outsideWindow s g then
      let n := nextSeq g (key % 256) s
      let new : DevReq := { r with sent := true, seq := n.1 }
      sendAcyc g (key % 256) new (putDevQueue key (new :: t) n.2)
    else s

/-- The lowest of buffers 56 to 63 that no request on a controller holds (R292, R319). -/
def freeBuffer (s : State) (c : Nat) : Option Nat :=
  ((List.range 8).map (fun i => 56 + i)).find? (fun b => !(canReqs s c).any (fun e => e.2.buf == b))

/-- The head of a device's queue starts if a reserved operation is free (R20), on CAN with a free buffer for the reply. A
controller that is not on the bus, or no longer sends its format, fails it. DEDUCED, log 39. -/
def startDev (key : Nat) (s : State) : State :=
  match devQueue s key with
  | [] => s
  | r :: t =>
    let g := key / 256
    let used (s : State) : State := markOps { s with host := { s.host with devUsed := s.host.devUsed + 1 } }
    if r.startAt.isSome || decide (128 ≤ s.host.devUsed) then s
    else if g ≤ 4 then sendDev key (putDevQueue key ({ r with startAt := some s.now } :: t) (used s))
    else if !(canOf s (g - 5)).active || canRefuses s (g - 5) r then endDev key stDevfail [] s
    else
      match freeBuffer s (g - 5) with
      | none => s
      | some b =>
        let new : DevReq := { r with startAt := some s.now, sent := true, buf := b }
        canStartReq (g - 5) (key % 256) new (putDevQueue key (new :: t) (used s))

/-- Every device's queue, at the start of a take (R20). DEDUCED, log 39. -/
def startDevs (s : State) : State := foldS s.host.devReq (fun e => startDev e.1) s

/-- What waits for a window to end, once it has (R43). -/
def sendDevs (s : State) : State := foldS s.host.devReq (fun e => sendDev e.1) s

/-- DEVREQ: with nothing ahead of it the request starts at once; what waits starts at a take (R20, R319). The time-out counts
from the start of the device exchange, and is 500 ms where the request names none. DEDUCED, log 39. -/
def execDevreq (cn rq g node : Nat) (toMs : Option Nat) (txid rxid : Nat) (data : List Byte) (s : State) :
    Host.Outcome State Fault Refusal :=
  requestNow cn rq 0x0070 4 s fun c s =>
    let can := decide (5 ≤ g)
    let ms := toMs.getD 500
    let limit := if !can then 256 else if natBit txid 30 then 64 else 8
    -- a controller with FDEN = 0 sends no FD frame (R279)
    let badarg := (can && natBit txid 30 && !(canOf s (g - 5)).fden) || g == 0 || decide (6 < g) ||
      decide (256 ≤ node) || decide (ms < 10) || decide (5_000 < ms)
    let denied := !hasRole c roOperate || (c.stage != 0 && (deviceStage s g node).any (fun st => st != c.stage))
    let status := firstStatus false denied false false badarg
    if status != stOk then done cn rq 0x0070 status [] c s
    else if limit < data.length then done cn rq 0x0070 stLimit [] c s
    else
      match deviceStage s g node with
      | none => done cn rq 0x0070 stDevfail [] c s
      | some _ =>
        let key := devKey g node
        let q := devQueue s key
        if 9 ≤ q.length then
          let x := freeRetry s
          endOp cn rq c.stage 0x0070 stBusy x.1 [] (countRefusal c.stage false x.2)
        else
          let new : DevReq := { cn := cn, rq := rq, stage := c.stage, toMs := ms, txid := txid, rxid := rxid
                                data := data, seq := 0, startAt := none, sent := false, buf := 0 }
          let s := putDevQueue key (q ++ [new]) s
          if q.isEmpty then startDev key s else s

/-- DEVREQ_TIMEOUT: no reply within the time-out (R319). -/
def execDevreqTimeout (g node : Nat) (s : State) : Host.Outcome State Fault Refusal :=
  let due := match devQueue s (devKey g node) with
    | r :: _ => match r.startAt with
      | some t => decide (t + msT r.toMs ≤ s.now)
      | none => false
    | [] => false
  whenUpAnd s due (endDev (devKey g node) stDevtimeout [])

end Sys2Proof.Machine
end

