-- ==== Sys2Proof/Machine/Changes.lean ====
section
/-! DEFINITION. What the entries of a transaction change when they take effect (R123 to R137, R164, R252, R282,
R300 to R305, R321, R443): configuration, program starts and recuts, loop descriptors, writes and freezes. -/

namespace Sys2Proof.Machine
open Sys2Proof

/-! ### Loop descriptors (R140 to R142, R159, R164) -/

/-- Five coefficients at an offset. -/
def readSecWords (bs : List Byte) (off : Nat) : List Word := (List.range 5).map (fun i => wordAt bs (off + 4 * i))

/-- A descriptor as its 128 bytes lay it out. The sections of an extension are its own (R142); an unused one keeps the
fields of its control word (R141). -/
def parseDesc (bs : List Byte) : LoopDesc :=
  let c := wordAt bs 0
  let kind := bitsOf c 31 30
  if kind = 1 then
    { kind := 1, np := bitsOf c 29 27, nsec := bitsOf c 26 23, dir := c.getLsbD 22, fbmode := bitsOf c 21 19
      initmode := bitsOf c 18 16, grole := bitsOf c 15 14, gpos := bitsOf c 13 12, glead := bitsOf c 9 0
      pvpt := getLE bs 4 2, sppt := getLE bs 6 2, outpt := getLE bs 8 2, extloop := getLE bs 10 2
      sample := getLE bs 12 2, lat := getLE bs 14 2, g := wordAt bs 0x10, ki := wordAt bs 0x14
      ilo := wordAt bs 0x18, ihi := wordAt bs 0x1C, olo := wordAt bs 0x20, ohi := wordAt bs 0x24
      rate := wordAt bs 0x28, fbval := wordAt bs 0x2C, offval := wordAt bs 0x30, pvto := getLE bs 0x34 2
      safeval := wordAt bs 0x38, secs := (List.range 3).map (fun i => readSecWords bs (0x40 + 20 * i)) }
  else if kind = 2 then
    { LoopDesc.unused with kind := 2, initmode := 0, secs := (List.range 5).map (fun i => readSecWords bs (8 + 20 * i)) }
  else
    { LoopDesc.unused with
      np := bitsOf c 29 27, nsec := bitsOf c 26 23, dir := c.getLsbD 22, fbmode := bitsOf c 21 19
      initmode := bitsOf c 18 16, grole := bitsOf c 15 14, gpos := bitsOf c 13 12, glead := bitsOf c 9 0 }

def putDesc (n : Nat) (d : LoopDesc) (s : State) : State :=
  { s with loops := { s.loops with desc := Table.set LoopDesc.unused s.loops.desc n d } }

/-- Sections 3 to 7 of a long loop are those of its extension (R139). -/
def relinkLoops (s : State) : State :=
  foldS (loopNums s) (fun n t =>
    let d := loopDesc t n
    if d.kind = 1 ∧ 3 < d.nsec then putDesc n { d with secs := d.secs.take 3 ++ (loopDesc t d.extloop).secs } t else t) s

/-- States of a loop for a new number of sections: those beyond it are 0 (R164). -/
def fitStates (n : Nat) (l : List (BitVec 48)) : List (BitVec 48) := l.take n ++ List.replicate (n - l.length) 0

/-- The next sample of every loop of a group is a transition (R154). -/
def groupTransition (n : Nat) (s : State) : State :=
  let d := loopDesc s n
  let lead := if d.grole = 2 then d.glead else n
  foldS (groupOf s lead) (fun m t => putLoop m { loopRt t m with trans := true } t) s

/-- The loops whose sections a descriptor change touches (R139, R164): the loop itself, or those that name it as their
extension. -/
def touchedLoops (s : State) (n : Nat) : List Nat :=
  n :: (loopNums s).filter (fun m => (loopDesc s m).kind == 1 && decide (3 < (loopDesc s m).nsec) && (loopDesc s m).extloop == n)

/-- A LOOPDESC entry takes effect (R159, R164). -/
def applyDesc (n : Nat) (bs : List Byte) (s : State) : State :=
  let old := loopDesc s n
  let new := parseDesc bs
  let s := foldS (touchedLoops s n) groupTransition s
  let s := putDesc n new s
  let s := if old.kind = 1 && new.kind != 1 then dropDue n s else s
  let s := if new.kind = 1 then
      let l := loopRt s n
      if old.kind = 1 then putLoop n { l with s1 := fitStates new.nsec l.s1, s2 := fitStates new.nsec l.s2, trans := true } s
      else
        let s := coldLoop n s
        if (stgRt s (loopOwner s n)).state = 2 then loopEnterFb n s else s
    else s
  let s := relinkLoops s
  foldS (touchedLoops s n) groupTransition s

/-! ### Starting a program (R123, R441, R443) -/

/-- The three situations in which a program starts. -/
inductive StartKind where
  | first | warm | cold (forced : Bool)
  deriving DecidableEq, Repr

def StartKind.isWarm : StartKind → Bool
  | .warm => true
  | _ => false

/-- A point takes its initial value with quality 0x01 (R123). -/
def initPt (pt : Nat) (v : Word) (s : State) : State := putPoint pt ⟨v, qVALID⟩ s

/-- A program's object takes its initial values. -/
def initObj (o : ObjDef) (s : State) : State :=
  foldS (List.range o.count) (fun i => initPt (o.first + i) (o.init.getD i 0)) s

/-- Whether a start initialises an object, by its retention (R118, R123). -/
def startInits (k : StartKind) (o : ObjDef) : Bool :=
  o.kind != 1 && (match k with
    | .first => true
    | .warm => o.retention == 1
    | .cold forced => o.retention != 2 || forced)

/-- A slot as at a first load. -/
def initSlot (st : Nat) (d : SlotDef) (s : State) : State :=
  if d.counter then
    let c := ({ Counter.fresh with cv := d.cv, pv := d.preset }).judge
    { s with eng := { s.eng with counters := Table.set Counter.fresh s.eng.counters (ctrFirst s st + d.num) c } }
  else
    { s with eng := { s.eng with timers := Table.set Timer.zero s.eng.timers (tmrFirst s st + d.num) { Timer.zero with pt := d.preset } } }

/-- The fault records of a stage are cleared. -/
def clearFaults (st : Nat) (s : State) : State :=
  { s with eng := { s.eng with flt := s.eng.flt.filter (fun e => e.1 / 8192 != st) } }

/-- A loop starts warm: one still held in its FBMODE resumes what fallback replaced (R157), and its first sample is a
transition (R159). -/
def warmLoop (n : Nat) (s : State) : State :=
  let s := loopLeaveFb n s
  putLoop n { loopRt s n with trans := true } s

/-- The program of a stage starts (R123); its loops follow R441 except at a first load. -/
def startProgram (k : StartKind) (st : Nat) (s : State) : State :=
  match progOf s st with
  | none => s
  | some p =>
    let s := foldS (p.objs.filter (startInits k)) initObj s
    let s := if k.isWarm then s else clearFaults st (foldS p.slots (initSlot st) s)
    let s := leaveFallback 0 st s
    let s := putStg st { stgRt s st with state := 1, lastCold := !k.isWarm, ovc := [], fallback := false, fbClear := false } s
    let ns := (stageLoops s st).filter (fun n => (loopDesc s n).kind == 1)
    match k with
    | .first => s
    | .warm => foldS ns warmLoop s
    | .cold _ => foldS ns coldLoop s

/-! ### Recuts (R124 to R128) -/

/-- The input source of a point has delivered it since the start (R125). -/
def delivered (s : State) (pt : Nat) : Bool :=
  (isLocalInput s pt && !s.bar.lastBurst.isEmpty) ||
  s.eth.dev.any (fun e => match e.2 with
    | some d => decide (d.inFirst ≤ pt) && decide (pt < d.inFirst + d.inCnt) && (devRt s e.1).fresh.tr != 0
    | none => false) ||
  (List.range 2).any (fun c => (canOf s c).rxEntries.any (fun e =>
    decide (e.2.first ≤ pt) && decide (pt < e.2.first + (e.2.len + 3) / 4) &&
      (Table.get Fresh.start (canOf s c).fresh e.1).tr != 0))

/-- A newly declared point (R125, R128). -/
def declareNew (o : ObjDef) (pt : Nat) (s : State) : State :=
  if o.kind = 1 then (if delivered s pt then s else mapQual pt (fun q => (q ||| qSTALE) &&& 0x1FE) s)
  else initPt pt (o.init.getD (pt - o.first) 0) s

/-- The points that the new image declares in another way than the old one (R125). -/
def recutPoints (old new : Prog) (s : State) : State :=
  foldS new.objs (fun o t => foldS ((List.range o.count).map (fun i => o.first + i)) (fun pt u =>
    if sameDecl old new pt then u else declareNew o pt u) t) s

/-- A slot at a recut (R126): where only the preset changes, status and all else stay until the next evaluation. -/
def recutSlot (old : Prog) (st : Nat) (d : SlotDef) (s : State) : State :=
  match old.slots.find? (fun e => e.counter == d.counter && e.num == d.num && e.secno == d.secno) with
  | none => initSlot st d s
  | some e =>
    if e.preset = d.preset then s
    else if d.counter then
      let i := ctrFirst s st + d.num
      let c := Table.get Counter.fresh s.eng.counters i
      { s with eng := { s.eng with counters := Table.set Counter.fresh s.eng.counters i { c with pv := d.preset } } }
    else
      let i := tmrFirst s st + d.num
      let t := Table.get Timer.zero s.eng.timers i
      { s with eng := { s.eng with timers := Table.set Timer.zero s.eng.timers i { t with pt := d.preset } } }

/-- A program in force for a stage, with the marks of its bad code gone. -/
def putProg (st : Nat) (p : Option Prog) (s : State) : State :=
  { s with
    progs := { s.progs with prog := Table.set none s.progs.prog st p }
    eng := { s.eng with codeUecc := s.eng.codeUecc.filter (fun e => e.1 != st) } }

/-- The library image of a stage that holds these bytes is the one in force; an image that another of its IMAGEID has
replaced goes (R112, R128). -/
def markInForce (st : Nat) (bs : List Byte) (s : State) : State :=
  let l := s.progs.lib.map (fun (l : LibImage) => if l.stage = st then { l with inForce := decide (l.bytes = bs) } else l)
  { s with progs := { s.progs with lib := l.filter (fun x => x.inForce ||
      !l.any (fun y => y.stage == x.stage && y.imageId == x.imageId && y != x && (y.inForce || y.active))) } }

/-- A PROG or PROGLIB entry takes effect: a first load into a stopped stage, or a recut. -/
def applyProg (st : Nat) (bs : List Byte) (s : State) : State :=
  let new := loadProg bs
  let old := progOf s st
  let s := markInForce st bs (putProg st (some new) s)
  match old, stageRuns s st with
  | some o, true =>
    let s := recutPoints o new s
    let s := clearFaults st (foldS new.slots (recutSlot o st) s)
    let s := leaveFallback 0 st s
    putStg st { stgRt s st with ovc := [], recutNow := true, fallback := false, fbClear := false } s
  | _, _ => startProgram .first st s

/-- The bytes that a PROGLIB entry names: of two images of one IMAGEID the one that is to replace the other. -/
def libPick (l : List LibImage) (st : Nat) (imageId : Word) : List Byte :=
  let mine := l.filter (fun l => l.stage == st && l.imageId == imageId)
  (((mine.find? (fun l => !l.inForce)).orElse (fun _ => mine.head?)).map (fun l => l.bytes)).getD []

/-- Those of the copies that can be read (R376). -/
def libBytes (s : State) (st : Nat) (imageId : Word) : List Byte := libPick (s.progs.lib.filter (copyOk s)) st imageId

/-- A RESTART entry (R443). -/
def applyRestart (st : Nat) (b : Byte) (s : State) : State :=
  if b.getLsbD 1 then
    { s with progs := { s.progs with override := Table.set none s.progs.override st (some (b.getLsbD 0)) } }
  else if stageRuns s st then startProgram (if b.getLsbD 0 then .cold false else .warm) st s
  else s

/-! ### Freezes (R129 to R135) -/

/-- A freeze or release is recorded with the point, the forced value and the session; 1 is a freeze. -/
def freezeEvent (st pt : Nat) (v : Word) (sess kind : Nat) (s : State) : State :=
  logEv 0x40 3 st (viewOf st) 0 (packD [(2, pt), (4, v.toNat), (1, sess), (1, kind)]) s

def setFreeze (pt : Nat) (v : Option Word) (s : State) : State :=
  { s with points := { s.points with frz := Table.set none s.points.frz pt v } }

def freezePt (st pt : Nat) (v : Word) (sess : Nat) (s : State) : State := freezeEvent st pt v sess 1 (setFreeze pt (some v) s)

/-- A release. One of a point that is not frozen, which the spec does not speak of, leaves no record. DESIGN CHOICE, log 23.
`ended`: the freezes that a change of owner at this boundary has ended. -/
def releasePt (ended : Table (Option Word)) (st pt : Nat) (sess : Nat) (s : State) : State :=
  match (frozen s pt).orElse (fun _ => Table.get none ended pt) with
  | some v => freezeEvent st pt v sess 0 (setFreeze pt none s)
  | none => s

/-! ### Writes of hosts (R317, R18) -/

/-- P 0x0030: FALLBACK and CLROVR of the writer's stage (R17, R47). -/
def writeStageReq (st : Nat) (v : Word) (s : State) : State :=
  let r := stgRt s st
  putStg st { r with
    fallback := v.getLsbD 0 || (r.fallback && r.state == 2)
    fbClear := !v.getLsbD 0
    clrovr := r.clrovr || v.getLsbD 1 } s

/-- One point written by a host of a stage: quality bits [7:0] 0x01 but FROZEN, UNDELIV as it was. -/
def hostWrite (st : Nat) (e : Nat × Word) (s : State) : State :=
  if isRelRW e.1 then writeStageReq st e.2 s else putPoint e.1 ⟨e.2, storeQual (rawPoint s e.1).q 0x01⟩ s

/-! ### Stage configuration (R300 to R305) -/

/-- A TAG entry: OWNER and PUB (R12). A freeze ends when its block changes owner (R135). -/
def applyTag (blk : Nat) (t : Half) (s : State) : State :=
  let old := tagOf s blk
  let new : Tag := { old with pub := t.getLsbD 5, owner := bitsOf t 4 0 }
  { s with points := { s.points with
      tags := Table.set (Tag.factory blk) s.points.tags blk new
      frz := if new.owner = old.owner then s.points.frz else s.points.frz.filter (fun e => blockOf e.1 != blk) } }

/-- STGCFG words of a stage. -/
def putStgCfg (st : Nat) (c : StgCfg) (s : State) : State :=
  { s with host := { s.host with stg := Table.set (StgCfg.factory (numLoops s) st) s.host.stg st c } }

/-- Words as STGCFG0 to STGCFG5, reserved bits zero; EN of stage 0 is always 1. -/
def stgOfWords (st : Nat) (ws : List Word) : StgCfg :=
  let c0 := ws.getD 0 0 &&& 0xFFFF_FF00
  { c0 := if st = 0 then c0 ||| 0x8000_0000 else c0
    c1 := ws.getD 1 0 &&& 0xFFFF_F800, c2 := ws.getD 2 0 &&& 0xFFFF_FFE0, c3 := ws.getD 3 0 &&& 0xFFFF_FF80
    c4 := ws.getD 4 0, c5 := ws.getD 5 0 &&& 0xFFFF_F000 }

/-- The stage is disabled: its sessions close (R302). -/
def closeStage (st : Nat) (s : State) : State := closeWhere (fun c => c.sess.isSome && c.stage == st) s

/-- An STGCFG entry. A new STGCFG4 fills the bucket (R331), and an enabled stage has a storage key (R375). -/
def applyStgcfg (st : Nat) (ws : List Word) (logpub : List (Nat × Word)) (s : State) : State :=
  let old := stgCfg s st
  let new := stgOfWords st ws
  let s := putStgCfg st new s
  let s := if new.c4 = old.c4 then s else fullBucket st s
  let s := if logpub.isEmpty then s else { s with host := { s.host with logpub := logpub } }
  if stageOn s st then makeStorageKey st s else closeStage st s

/-- A subscription without points. -/
def Sub.without (gone : List Nat) (x : Sub) : Sub :=
  { x with pts := x.pts.filter (fun pt => !gone.contains pt)
           queued := x.queued.map (fun l => l.filter (fun e => !gone.contains e.1))
           owed := x.owed.filter (fun pt => !gone.contains pt) }

/-- A session's subscriptions lose the points that it may no longer read, and it hears in one notification with DENIED which
they are (R302). -/
def trimSession (cn : Nat) (c : Conn) (s : State) : State :=
  let gone := ((c.subs.flatMap (fun x => x.pts)).filter (fun pt => !mayRead s c.stage pt)).eraseDups
  if gone.isEmpty then s
  else
    notify cn 0x0014 0 stDenied false (gone.map (fun pt => BitVec.ofNat 32 pt))
      (putConn cn (some { c with subs := c.subs.map (Sub.without gone) }) s)

def trimSubs (s : State) : State :=
  foldS s.host.conns (fun e t => match e.2 with
    | some c => if c.sess.isSome then trimSession e.1 c t else t
    | none => t) s

/-- A PRINCIPAL entry (R303): roles 0 removes. -/
def applyPrincipal (num : Nat) (key : BitVec 256) (stage : Nat) (roles : Half) (s : State) : State :=
  let l := s.host.principals
  let new : Principal := ⟨num, key, stage, roles⟩
  let l := if roles = 0 then l.filter (fun p => p.num != num)
    else if l.any (fun p => p.num == num) then l.map (fun p => if p.num = num then new else p) else l ++ [new]
  { s with host := { s.host with principals := l } }

/-- The commissioning state is entered and ended with the last and the first custodian role (R305). -/
def judgeCommissioning (s : State) : State :=
  let c := !s.host.principals.any (fun p => custodian p.roles)
  if c = s.host.commissioning then s
  else logEv 0x43 6 0 (viewOf 0) 0 (packD [(1, b2n c)]) { s with host := { s.host with commissioning := c } }

/-! ### Class, local I/O, network and CAN configuration -/

/-- A SLATE entry: CLASSCFG0 to 3 now, SLATECFG at the next start (R32, R34). -/
def applySlate (scfg : Word) (cls : List Word) (s : State) : State :=
  let tb := (List.range 4).foldl (fun t k =>
    let w := cls.getD k 0
    Table.set (ClassCfg.factory k) t k { outph := bitsOf w 26 16, en := w.getLsbD 3, n := bitsOf w 2 0 }) s.slate.cls
  { s with slate := { s.slate with cls := tb, nom60C := scfg.getLsbD 1, freeC := scfg.getLsbD 0 } }

/-- One local I/O register (R177, R181, R184, R189, R191, R192). -/
def setLioReg (r : RegId) (w : Word) (c : LioCfg) : LioCfg :=
  match r with
  | .liogen0 => { c with gen0 := w &&& 0xFFFF_FFC0 }
  | .liogen1 => { c with gen1 := w &&& 0x0000_00FF }
  | .dicfg n => { c with di := Table.set 0x0000_011E c.di n (w &&& 0x0000_03FF) }
  | .docfg n => { c with dout := Table.set 0 c.dout n (w &&& 0xFFFF_FFF8) }
  | .aicfg n => { c with ai := Table.set 0x0F6E_0008 c.ai n (w &&& 0xFFFF_000F) }
  | .aocfg n => { c with ao := Table.set 0 c.ao n (w &&& 0xFFFF_0001) }
  | .enccfg n => { c with enc := Table.set 0x0000_1408 c.enc n (w &&& 0x0000_FF1F) }
  | _ => c

/-- Local I/O registers take effect; a wire break ends on an input without WBEN (R175, R183). -/
def applyLio (regs : List (RegId × Word)) (s : State) : State :=
  let cfg : LioCfg := regs.foldl (fun c e => setLioReg e.1 e.2 c) s.field.cfg
  foldS ((List.range 32).filter (fun n => !(Table.get 0x0000_011E cfg.di n).getLsbD 9)) (fun n t =>
    putDi n { diOf t n with wbrk := false } t) { s with field := { s.field with cfg := cfg } }

/-- A device entry of a segment as its 24 bytes lay it out (R274). -/
def parseDev (bs : List Byte) : Option DevEnt :=
  if getLE bs 0 1 = 0 then none
  else some
    { node := getLE bs 0 1, cls := getLE bs 1 1, stage := getLE bs 2 1, mac := BitVec.ofNat 48 (getLE bs 4 6)
      respto := getLE bs 10 2, outFirst := getLE bs 12 2, inFirst := getLE bs 14 2, outCnt := getLE bs 16 1
      inCnt := getLE bs 17 1, h := getLE bs 18 1, f := getLE bs 20 4 }

/-- An entry of a segment's table changes: a new device returns with its complete image (R51). -/
def setDev (g i : Nat) (bs : List Byte) (s : State) : State :=
  let key := g * 16 + i
  let new := parseDev bs
  if devOf s key = new then s
  else
    putDevRt key DevRt.zero { s with eth := { s.eth with dev := Table.set none s.eth.dev key new } }

/-- One network register (R252, R255, R264, R265, R271, R306). -/
def setNetReg (r : RegId) (w : Dword) (s : State) : State :=
  let w32 : Word := w.setWidth 32
  match r with
  | .maccfg m => putMac m { macOf s m with cfg := w32 &&& 0xFFC0_0003 } s
  | .filt m i =>
    if i = 0 then s else putMac m { macOf s m with filt := Table.set 0 (macOf s m).filt i (w &&& 0x8000_FFFF_FFFF_FFFF) } s
  | .dscfg u => { s with eth := { s.eth with dscfg := Table.set 0x003C_3C02 s.eth.dscfg u (w32 &&& 0x00FF_FF03) } }
  | .ptpcfg => { s with eth := { s.eth with ptpcfg := w32 &&& 0x0000_7F07 }, rtc := { s.rtc with master := none } }
  | .ipcfg i =>
    { s with eth := { s.eth with ip := Table.set (if i = 2 then 97 else 0) s.eth.ip i (if i = 2 then w32 &&& 0xFF else w32) } }
  | _ => s

/-- The address after a change of IPCFG: the static one, or none until a lease (R306). -/
def staticAddr (s : State) : Option Word := if ipcfg s 0 = 0 then none else some (ipcfg s 0)

def applyNet (regs : List (RegId × Dword)) (devs : List (Nat × Nat × List Byte)) (name : List Byte) (s : State) : State :=
  let was := (dhcpMode s, ipcfg s 0)
  let s := foldS regs (fun e => setNetReg e.1 e.2) s
  let s := foldS devs (fun e => setDev e.1 e.2.1 e.2.2) s
  let s := if name.isEmpty then s else { s with eth := { s.eth with name := name } }
  if dhcpMode s then (if was.1 then s else setAddr none { s with eth := { s.eth with dhcpAt := none } })
  else if was = (false, ipcfg s 0) then s
  else setAddr (staticAddr s) s

/-- A CAN device entry and a frame entry as their 8 bytes lay them out (R283). -/
def parseCanDev (bs : List Byte) : Option CanDev :=
  if getLE bs 0 1 = 0 then none else some ⟨getLE bs 0 1, getLE bs 1 1, getLE bs 2 1, getLE bs 4 4⟩
def parseCanEnt (bs : List Byte) : Option CanEnt :=
  if getLE bs 0 4 = 0xFFFF_FFFF then none
  else some
    { idw := wordAt bs 0, tx := natBit (getLE bs 4 1) 7, req := natBit (getLE bs 4 1) 6, dev := getLE bs 4 1 % 16
      len := getLE bs 5 1, first := getLE bs 6 2 }

/-- One CAN register (R280, R282). -/
def setCanReg (r : RegId) (w : Word) (x : Can) : Can :=
  match r with
  | .cannbt _ => { x with nbt := w &&& 0xFFFF_FFFC }
  | .candbt _ => { x with dbt := w &&& 0xFFFF_FFC0 }
  | .cancfg0 _ => { x with cfg0 := w &&& 0xFF3F_FFFF }
  | .cancfg1 _ => { x with cfg1 := w &&& 0xFFC0_0000 }
  | .cansync _ => { x with sync := w &&& 0x9FFF_FFFF }
  | _ => x

/-- The controller's configuration as a CANCFG entry leaves it. -/
def cancfgOf (x : Can) (regs : List (RegId × Word)) (devs frames : List (Nat × List Byte)) : Can :=
  let x := regs.foldl (fun y e => setCanReg e.1 e.2 y) x
  { x with
    dev := devs.foldl (fun t e => Table.set none t e.1 (parseCanDev e.2)) x.dev
    frame := frames.foldl (fun t e => Table.set none t e.1 (parseCanEnt e.2)) x.frame }

/-- A CANCFG entry: a change of the bit times, CLASS, EN or FDEN leaves the bus (R282). -/
def applyCan (c : Nat) (regs : List (RegId × Word)) (devs frames : List (Nat × List Byte)) (s : State) : State :=
  let x := canOf s c
  let y := cancfgOf x regs devs frames
  let s := if y.frame = x.frame then s else remapFrames c y.frame s
  let z := canOf s c
  let s := putCan c { z with nbt := y.nbt, dbt := y.dbt, cfg0 := y.cfg0, cfg1 := y.cfg1, sync := y.sync, dev := y.dev } s
  if x.nbt = y.nbt ∧ x.dbt = y.dbt ∧ x.cls = y.cls ∧ x.en = y.en ∧ x.fden = y.fden then s else canOff c s

/-! ### Entries (R321) -/

/-- The stage whose transactions write a local I/O register (R175). -/
def lioStage (s : State) (r : RegId) : Nat := match r with
  | .enccfg _ => 0
  | _ => lioOwner s

/-- The first step of R137: tags and configuration. A stage that no longer owns block 4 writes no local I/O register of it
(R175). -/
def applyConfig (st : Nat) (e : Entry) (s : State) : State :=
  match e with
  | .tag blk t => applyTag blk t s
  | .stgcfg st ws pub => applyStgcfg st ws pub s
  | .principal num key st roles => applyPrincipal num key st roles s
  | .slate scfg cls => applySlate scfg cls s
  | .liocfg regs => applyLio (regs.filter (fun r => lioStage s r.1 == st)) s
  | .netcfg regs devs name => applyNet regs devs name s
  | .cancfg c regs devs frames => applyCan c regs devs frames s
  | .safepar set => commitSaf set s
  | .mslpar set => mslSetUp (commitMsl set s)
  | .mslgen w => { s with msl := { s.msl with gen := w &&& 0xFFC0_0000 } }
  | .keypol w0 w1 => applyKeypol w0 w1 s
  | .secpol w0 w1 => applySecpol w0 w1 s
  | _ => s

/-- The second step: recuts and loop descriptors of a stage's transaction. A commit has read its library image; what has become of
the copy since does not matter (R388). -/
def applyRecut (st : Nat) (e : Entry) (s : State) : State :=
  match e with
  | .prog bs => applyProg st bs s
  | .progLib id => applyProg st (libPick s.progs.lib st id) s
  | .loopDesc n d => applyDesc n d s
  | _ => s

/-- A RESTART follows the recut step (R443). -/
def applyRestarts (st : Nat) (e : Entry) (s : State) : State :=
  match e with
  | .restart b => applyRestart st b s
  | _ => s

/-- PWRITE entries (R324). -/
def applyWrites (st : Nat) (e : Entry) (s : State) : State :=
  match e with
  | .pwrite ws => foldS ws (hostWrite st) s
  | _ => s

/-- FREEZE and RELEASE entries. -/
def applyFreezes (ended : Table (Option Word)) (st sess : Nat) (e : Entry) (s : State) : State :=
  match e with
  | .freeze pt v => freezePt st pt v sess s
  | .release pt => releasePt ended st pt sess s
  | _ => s

/-- The transactions of a boundary, step by step, each step in commit order (R137, R324). -/
def applyCommits (l : List Commit) (s : State) : State :=
  let frz := s.points.frz
  let s := foldS l (fun c t => judgeCommissioning (foldS c.entries (applyConfig c.stage) t)) s
  let ended := frz.filter (fun e => (frozen s e.1).isNone)
  let s := if l.any (fun c => c.entries.any (fun e => match e with
      | .tag _ _ => true
      | .stgcfg _ _ _ => true
      | _ => false)) then trimSubs s else s
  let s := foldS l (fun c t => foldS c.entries (applyRecut c.stage) t) s
  let s := foldS l (fun c t => foldS c.entries (applyRestarts c.stage) t) s
  let s := foldS l (fun c t => foldS c.entries (applyWrites c.stage) t) s
  foldS l (fun c t => foldS c.entries (applyFreezes ended c.stage c.sess) t) s

/-- The boundary has passed: the committing session hears of it (R323). -/
def notifyCommit (c : Commit) (s : State) : State := notify c.cn 0x0032 0 stOk false [c.num] s

/-! ### Boundaries (R36, R124) -/

/-- A commit may take effect at a half-period start: the full boundary it needs, or every class it touches, and
some class, begins a take. -/
def commitFits (s : State) (half : Word) (c : Commit) : Bool :=
  if c.full then fullBoundary s half else beginsTake s half 0 && c.classes.all (beginsTake s half)

/-- A transaction loads a program. -/
def Commit.loads (c : Commit) : Bool := c.entries.any (fun e => match e with
  | .prog _ => true
  | .progLib _ => true
  | _ => false)

/-- The commits due at a boundary, in commit order: of the loads of one stage only the first that waits (R124). -/
def dueCommits (s : State) (half : Word) : List Nat → List Commit → List Commit
  | _, [] => []
  | seen, c :: t =>
    let hold := c.loads && seen.contains c.stage
    let seen' := if c.loads then c.stage :: seen else seen
    if commitFits s half c && !hold then c :: dueCommits s half seen' t else dueCommits s half seen' t

/-- The commits of a boundary take effect. -/
def boundary (s : State) : State :=
  let due := dueCommits s s.slate.halfcnt [] s.host.commits
  if due.isEmpty then s
  else
    let s := { s with host := { s.host with commits := s.host.commits.filter (fun c => !due.contains c) } }
    foldS due notifyCommit (applyCommits due s)

end Sys2Proof.Machine
end

