-- ==== Sys2Proof/Machine/Checks.lean ====
section
/-! DEFINITION. The entry checks of a commit (R13, R35, R163, R175, R210, R230, R277, R284, R301, R303, R381,
R384, R461). `f` is the module as it will stand after the boundary; entries carry raw words, whose reserved bits
are judged here. -/

namespace Sys2Proof.Machine
open Sys2Proof

/-- An error of an entry, with the point, loop, slot, stage or field concerned. -/
def fieldErr (code ref : Nat) : LoadErr := ⟨code, 0xFFFF, 0xFFFF_FFFF, ref⟩

/-- The error, if the condition holds. -/
def errIf (c : Bool) (code ref : Nat) : List LoadErr := if c then [fieldErr code ref] else []

/-- A field of a word lies in a range. -/
def fieldIn (w : Word) (hi lo a b : Nat) : Bool := decide (a ≤ bitsOf w hi lo) && decide (bitsOf w hi lo ≤ b)

/-- Bits of a word that must be zero. -/
def zeroIn (w mask : Word) : Bool := w &&& mask == 0

/-- The bytes at an offset are zero. -/
def zeroBytes (bs : List Byte) (off n : Nat) : Bool := getLE bs off n == 0

/-- A list holds a value twice. -/
def dups {α : Type} [DecidableEq α] : List α → List α
  | [] => []
  | a :: t => if t.contains a then a :: dups t else dups t

/-! ### Loop descriptors (R163) -/

/-- LFORMAT: what a descriptor's own bytes show (R140 to R143). -/
def descFormatOk (bs : List Byte) : Bool :=
  let c := wordAt bs 0
  let kind := bitsOf c 31 30
  let d := parseDesc bs
  if kind = 3 then false
  else if kind = 2 then zeroIn c 0x3FFF_FFFF && zeroBytes bs 4 4 && zeroBytes bs 0x6C 20
  else
    decide (d.nsec ≤ 8) && decide (d.fbmode ≤ 2) && decide (d.initmode ≤ 4) && decide (d.grole ≤ 2) &&
      zeroIn c 0x0C00 && (d.grole != 0 || d.gpos == 0) && (kind == 0 || zeroBytes bs 0x36 2 && zeroBytes bs 0x3C 4 &&
      zeroBytes bs 0x7C 4 && decide (d.sample ≤ 2_047) && decide (1 ≤ d.lat) && decide (d.lat ≤ 4_095) &&
      decide (d.lat < 2 ^ d.np * 2_048) && decide (d.pvto ≤ 255) && d.olo.sle d.ohi && d.ilo.sle d.ihi)

/-- The leader of a loop's group. -/
def leadOf (f : State) (n : Nat) : Nat := if (loopDesc f n).grole = 2 then (loopDesc f n).glead else n

/-- The points that the programs in force write or declare as outputs, and their input objects. -/
def programWrites (f : State) (pt : Nat) : Bool :=
  (progsNow f).any (fun p => match p with
    | some p => p.secs.any (fun d => inRanges d.wr pt) || p.objs.any (fun o => o.kind == 2 && decide (o.first ≤ pt) && decide (pt < o.first + o.count))
    | none => false)
def programInput (f : State) (pt : Nat) : Bool :=
  (progsNow f).any (fun p => match p with
    | some p => inRanges (inputPts p) pt
    | none => false)

/-- LOUT: the output point of a loop serves (R163). -/
def loopOutOk (f : State) (stage n : Nat) : Bool :=
  let pt := (loopDesc f n).outpt
  mayWrite f stage pt && !isRelRW pt && !isLocalInput f pt && !programInput f pt && !programWrites f pt &&
    (loopNums f).all (fun m => m == n || (loopDesc f m).kind != 1 || (loopDesc f m).outpt != pt || leadOf f m == leadOf f n)

/-- LEXT: extensions are named by one loop each (R139). -/
def loopExtOk (f : State) (n : Nat) : Bool :=
  let d := loopDesc f n
  let namers (x : Nat) : Nat := ((loopNums f).filter (fun m =>
    (loopDesc f m).kind == 1 && decide (3 < (loopDesc f m).nsec) && (loopDesc f m).extloop == x)).length
  if d.kind = 1 then
    if d.nsec ≤ 3 then d.extloop == 0xFFFF && namers n == 0
    else d.extloop != 0xFFFF && (loopDesc f d.extloop).kind == 2 && namers d.extloop == 1 && namers n == 0
  else d.kind == 2 || namers n == 0

/-- A loaded program commands the loop with LMODE, LMAN or LTRK (R155). -/
def commanded (f : State) (n : Nat) : Bool :=
  (progsNow f).any (fun p => match p with
    | some p => p.code.any (fun w => match refOf w with
      | .loop m op => m == n && (op == 0xB1 || op == 0xB2 || op == 0xB3)
      | _ => false)
    | none => false)

/-- LGROUP: the group of a loop is sound (R160, R155, R141). -/
def groupOk (f : State) (n : Nat) : Bool :=
  let d := loopDesc f n
  let l := leadOf f n
  let ld := loopDesc f l
  let mem := (loopNums f).filter (fun m => (loopDesc f m).kind == 1 && (loopDesc f m).grole == 2 && (loopDesc f m).glead == l)
  if d.kind != 1 then true
  else if d.grole = 0 then d.glead == n && mem.isEmpty
  else
    ld.kind == 1 && ld.grole == 1 && ld.glead == l && decide (1 ≤ mem.length) && decide (mem.length ≤ 3) &&
      mem.all (fun m =>
        let e := loopDesc f m
        decide (m < l) && loopOwner f m == loopOwner f l && e.np == ld.np && e.sample == ld.sample && e.lat == ld.lat &&
          e.outpt == ld.outpt && !commanded f m) &&
      (dups ((l :: mem).map (fun m => (loopDesc f m).gpos))).isEmpty

/-- LGROUP at the stage step: nothing that the transaction has staged of a loop's group breaks R160 or R155. What is still
missing of the group may follow in a later entry. DEDUCED, log 29. -/
def groupMayStand (f : State) (staged : List Nat) (n : Nat) : Bool :=
  let d := loopDesc f n
  let l := leadOf f n
  let peers := staged.filter (fun m => (loopDesc f m).kind == 1 && (loopDesc f m).grole != 0 && leadOf f m == l)
  if d.kind != 1 then true
  else if d.grole = 0 then d.glead == n
  else
    (d.grole != 1 || d.glead == n) && (d.grole != 2 || (decide (n < l) && !commanded f n)) &&
      decide ((peers.filter (fun m => (loopDesc f m).grole == 2)).length ≤ 3) &&
      (dups (peers.map (fun m => (loopDesc f m).gpos))).isEmpty &&
      peers.all (fun m =>
        let e := loopDesc f m
        loopOwner f m == loopOwner f n && e.np == d.np && e.sample == d.sample && e.lat == d.lat && e.outpt == d.outpt)

/-- LSCHED: the limits of R148 over every loop. -/
def schedOk (f : State) (n : Nat) : Bool :=
  let ls := ((loopNums f).map (loopDesc f)).filter (fun d => d.kind == 1)
  let d := loopDesc f n
  d.kind != 1 ||
    (decide ((ls.filter (fun e => e.sample == d.sample)).length ≤ 14) &&
      decide ((ls.filter (fun e => (e.sample + e.lat) % 2_048 == (d.sample + d.lat) % 2_048)).length ≤ 64))

/-- The first failing code of R163 for a descriptor: at the stage step with the loops that the transaction has staged, at
commit (none) with whole groups. -/
def descErrs (f : State) (stage n : Nat) (bs : List Byte) (staged : Option (List Nat)) : List LoadErr :=
  let d := loopDesc f n
  let isLoop := d.kind == 1
  let e (c : Nat) : List LoadErr := [fieldErr c n]
  let beyond (m : Nat) : Bool := decide (numLoops f ≤ m)
  if !descFormatOk bs then e 0x0701
  else if isLoop && (beyond d.glead || (d.extloop != 0xFFFF && beyond d.extloop)) then e 0x0702
  else if !ownsLoop f stage n || (isLoop && decide (3 < d.nsec) && d.extloop != 0xFFFF && !ownsLoop f stage d.extloop) then e 0x0702
  else if isLoop && (!mayRead f stage d.pvpt || (d.sppt != 0xFFFF && !mayRead f stage d.sppt)) then e 0x0703
  else if isLoop && !loopOutOk f stage n then e 0x0704
  else if !loopExtOk f n then e 0x0705
  else if !(match staged with
    | none => (stageLoops f stage).all (groupOk f)
    | some ns => groupMayStand f ns n) then e 0x0706
  else if !schedOk f n then e 0x0707
  else []

/-! ### Local I/O (R175) -/

/-- A local I/O register holds a value that R177 to R192 allow. -/
def lioRegOk (r : RegId) (w : Word) : Bool :=
  match r with
  | .liogen0 => zeroIn w 0x3F && fieldIn w 21 12 0 1_000 && fieldIn w 11 6 1 60
  | .liogen1 => zeroIn w 0xFFFF_FF00
  | .dicfg _ => zeroIn w 0xFFFF_FC00 && fieldIn w 7 0 1 255 && (!w.getLsbD 9 || w.getLsbD 8)
  | .docfg _ => zeroIn w 0x7 && fieldIn w 4 3 0 1
  | .aicfg _ => zeroIn w 0xFFF0 && fieldIn w 2 0 0 4 && fieldIn w 31 16 2_000 6_000
  | .aocfg _ => zeroIn w 0xFFFE && fieldIn w 31 16 0 10_000
  | .enccfg _ => zeroIn w 0xFFFF_00E0 && fieldIn w 2 0 0 3
  | _ => false

def lioErrs (regs : List (RegId × Word)) : List LoadErr := errIf (regs.any (fun e => !lioRegOk e.1 e.2)) 0x0801 0

/-- IOOWN: the status block. -/
def lioOwnErrs (f : State) : List LoadErr :=
  let b := bitsOf f.field.cfg.gen0 31 22
  errIf (b != 0 && (decide (b < 8) || decide (numBlocks f ≤ b) || (tagOf f b).owner != lioOwner f)) 0x0802 b

/-! ### The safety parameter set (R210) -/

def sinWordOk (w : Word) : Bool :=
  zeroIn w 0xFF00_0308 && fieldIn w 23 16 1 255 && fieldIn w 15 10 2 24 && sinKind w != 3 && !(sinKind w == 2 && sinAnti w)

def sqWordOk (w : Word) : Bool :=
  zeroIn w 0xFFF8 && decide (sqMode w ≤ 3) && (sqMode w != 1 || (decide (20 ≤ sqFbtime w) && decide (sqFbtime w ≤ 1_000)))

def sfWordsOk (c : SfCfg) : Bool :=
  decide (c.type ≤ 5) && zeroIn c.w0 0x0080_0FFF && zeroIn c.w1 0x0001_FF00 && zeroIn c.w2 0xFF00_0000 &&
    (!c.noloc || c.in1 == 0) && (c.type == 3 || c.type == 4 || c.in2 == 0) &&
    (c.type == 3 || (c.lout == 0 && !c.ptl && c.lockdly == 0)) && decide (c.standin ≤ 28_800) &&
    (decide (c.mslin < 16) || c.mslin == 0xFF)

/-- SFFORMAT. -/
def safFormatOk (bs : List Byte) : Bool :=
  let p := parseSaf bs
  bs.length == 156 && getLE bs 4 2 == 0x0100 && zeroBytes bs 6 2 && p.sin.all sinWordOk && p.sq.all sqWordOk && p.sf.all sfWordsOk

/-- SFUSE for one function; NOLOC and RSTAUTO need a type that allows them, which an unused one is not. -/
def sfUseOk (p : SafSet) (c : SfCfg) : Bool :=
  let kind (n : Nat) : Nat := sinKind (p.sinOf n)
  (!c.used && !c.noloc && !c.rstauto) ||
    (c.used && c.inputs.all (fun n => kind n != 0) &&
      (c.type != 4 || (c.in1 != c.in2 && [c.in1, c.in2].all (fun n => kind n == 1 && sinAnti (p.sinOf n)))) &&
      (c.type != 5 || ((c.noloc || kind c.in1 == 2) && !c.rstauto)) &&
      (c.type != 3 || (kind c.in2 == 1 && sqMode (p.sqOf c.lout) == 3 && !natBit c.outs c.lout)) &&
      c.outs != 0 && c.outList.all (fun m => sqMode (p.sqOf m) == 1 || sqMode (p.sqOf m) == 2) &&
      (!c.noloc || (c.mslin != 0xFF && (c.type == 1 || c.type == 5))) && (!c.rstauto || c.type == 2 || c.type == 3))

/-- SFUSE. -/
def safUseOk (bs : List Byte) : Bool :=
  let p := parseSaf bs
  let fs := p.sf.filter SfCfg.used
  p.sf.all (sfUseOk p) && (dups (fs.flatMap (fun c => c.inputs.eraseDups))).isEmpty &&
    p.sin.all (fun w => sinKind w != 1 || sinTsa w != sinTsb w) &&
    (dups ((fs.filter (fun c => c.type == 3)).map SfCfg.lout)).isEmpty

/-- SFREQPT. -/
def reqptBad (f : State) (pt : Nat) : Bool :=
  pt != 0 && (!pointExists f pt || decide (blockOf pt < 8) || programInput f pt)

def safErrs (f : State) (bs : List Byte) : List LoadErr :=
  errIf (!safFormatOk bs) 0x0901 0 ++ errIf (!safUseOk bs) 0x0902 0 ++
    ((parseSaf bs).sf.filter (fun c => reqptBad f c.reqpt)).map (fun c => fieldErr 0x0903 c.reqpt)

/-! ### The MSL parameter set (R230) -/

/-- A used entry's fields (R229, R241, R242). -/
def mslEntOk (slot : Nat) (e : MslEnt) : Bool :=
  e.connid == 0 ||
    (e.connid != 0xFFFF_FFFF && decide (10 ≤ e.texp) && decide (e.texp ≤ 1_000) && decide (1 ≤ e.net) && decide (e.net ≤ 7) &&
      [4, 8, 16, 32, 48].contains e.len && (if isConsumer slot then decide (e.pbit ≤ 31) else e.pbit == 0) &&
      (if e.net ≤ 4 then zeroIn e.addr 0xFFFF_FF00
       else if e.net ≤ 6 then (if e.addr.getLsbD 31 then zeroIn e.addr 0x6000_0000 else zeroIn e.addr 0x7FFF_F800)
       else true))

/-- The used entries of the set that will be in force, by slot. -/
def usedEnts (f : State) : List (Nat × MslEnt) :=
  (((parseMsl (mslBytes f)).ents.zip (List.range 32)).map (fun e => (e.2, e.1))).filter (fun e => e.2.connid != 0)

/-- MSLFORMAT. -/
def mslFormatOk (bs : List Byte) : Bool :=
  bs.length == 524 && getLE bs 4 2 == 0x0100 && zeroBytes bs 6 2 &&
    (((parseMsl bs).ents.zip (List.range 32)).all (fun e =>
      mslEntOk e.2 e.1 && (e.1.connid == 0 || zeroBytes bs (8 + 16 * e.2 + 9) 3)))

/-- The identifiers of an entry on CAN, without regard to the frame format: XTD and the identifier. -/
def canKey (w : Nat) : Nat := w % 2 ^ 29 + w / 2 ^ 31 * 2 ^ 31
def mslKeys (e : Nat × MslEnt) : List Nat := [canKey (mslTxId e.1 e.2).toNat, canKey (mslRxId e.1 e.2)]

/-- The identifiers that a controller's configuration uses: the sync frame's and the frame table's. DEDUCED, log 36. -/
def canKeys (x : Can) : List Nat := canKey x.sync.toNat :: x.entries.map (fun e => canKey e.2.idw.toNat)

/-- MSLUSE. -/
def mslUseErrs (f : State) : List LoadErr :=
  let es := usedEnts f
  let saf := parseSaf (safBytes f)
  (dups (es.map (fun e => e.2.connid))).map (fun c => fieldErr 0x0A02 c.toNat) ++
  (dups (es.map (fun e => (e.2.net, e.2.addr)))).map (fun c => fieldErr 0x0A02 c.2.toNat) ++
  (saf.sf.filter (fun c => decide (c.mslin < 16) && !es.any (fun e => e.1 == c.mslin))).map (fun c => fieldErr 0x0A02 c.mslin) ++
  (es.filter (fun e => (e.2.net == 5 || e.2.net == 6) &&
    (mslKeys e).any (fun k => (canKeys (canOf f (e.2.net - 5))).contains k))).map (fun e => fieldErr 0x0A02 e.1)

/-- MSLSTAT. -/
def mslStatErrs (f : State) : List LoadErr :=
  let b := bitsOf f.msl.gen 31 22
  errIf (b != 0 && (decide (b < 8) || decide (numBlocks f ≤ b) || (tagOf f b).owner != 0)) 0x0A03 b

/-- The checks of R230; `gen`: the raw MSLGEN words of the transaction. -/
def mslErrs (f : State) (gen : List Word) : List LoadErr :=
  errIf (!mslFormatOk (mslBytes f) || gen.any (fun w => !zeroIn w 0x003F_FFFF)) 0x0A01 0 ++ mslUseErrs f ++ mslStatErrs f

/-! ### Network configuration (R277) -/

def netRegOk (r : RegId) (v : Dword) : Bool :=
  let w : Word := v.setWidth 32
  match r with
  | .maccfg m => zeroIn w 0x003F_FFFC && (isFs m || fieldIn w 31 22 1 1_000)
  | .filt _ _ => v &&& 0x7FFF_0000_0000_0000 == 0
  | .dscfg _ => zeroIn w 0xFF00_00FC && fieldIn w 23 16 10 255 && fieldIn w 15 8 1 255 && fieldIn w 1 0 0 2
  | .ptpcfg => zeroIn w 0xFFFF_80F8
  | .ipcfg i => i != 2 || (zeroIn w 0xFFFF_FF00 && fieldIn w 7 2 8 30 && fieldIn w 1 0 0 1)
  | _ => false

/-- F is the default, or from half the nominal take period of the class to 60 s (R48). -/
def deadlineOk (f : State) (us cls : Nat) : Bool :=
  us == 0 || (decide (freshF f 0 cls ≤ usT us) && decide (us ≤ 60_000_000))

/-- A device entry's bytes (R274). -/
def devBytesOk (f : State) (bs : List Byte) : Bool :=
  match parseDev bs with
  | none => true
  | some d =>
    decide (d.node ≤ 16) && decide (d.cls ≤ 3) && zeroBytes bs 3 1 && zeroBytes bs 19 1 && decide (20 ≤ d.respto) &&
      decide (d.respto ≤ 200) && decide (d.outCnt ≤ 16) && decide (d.inCnt ≤ 16) && deadlineOk f d.f d.cls

/-- PTP has a route for its multicast on both uplinks (R271). -/
def ptpRouteOk (f : State) : Bool :=
  let addr : BitVec 48 := if f.eth.ptpcfg.getLsbD 1 then 0x011B_1900_0000 else 0x0100_5E00_0181
  !f.eth.ptpcfg.getLsbD 0 ||
    [0, 1].all (fun m => (macOf f m).cfg.getLsbD 1 ||
      (List.range 8).any (fun i => (filtOf f m i).getLsbD 63 && (filtOf f m i).setWidth 48 == addr))

/-- NETFORMAT for a NETCFG entry. -/
def netFormatErrs (f : State) (regs : List (RegId × Dword)) (devs : List (Nat × Nat × List Byte)) : List LoadErr :=
  errIf (regs.any (fun e => !netRegOk e.1 e.2) || !ptpRouteOk f) 0x0B01 0 ++
    (devs.filter (fun e => !devBytesOk f e.2.2)).map (fun e => fieldErr 0x0B01 (e.1 * 16 + e.2.1))

/-- NETADDR for a segment. DEDUCED, log 41. -/
def netAddrErrs (f : State) (g : Nat) : List LoadErr :=
  let ds := (segDevs f g).map (fun e => e.2)
  (dups (ds.map (fun d => d.node))).map (fieldErr 0x0B02) ++
  (dups (ds.map (fun d => d.mac))).map (fun a => fieldErr 0x0B02 (a.toNat % 2 ^ 32)) ++
  (ds.filter (fun d => decide ((d.mac - f.eth.baseMac).toNat < 8))).map (fun d => fieldErr 0x0B02 d.node)

/-- NETOWN for a device. -/
def devOwnOk (f : State) (d : DevEnt) : Bool :=
  stageOn f d.stage && (clsCfg f d.cls).en &&
    d.outPts.all (fun pt => pointExists f pt && ownerOf f pt == d.stage) &&
    d.inPts.all (fun pt => ownerOf f pt == d.stage && mayWrite f d.stage pt)

/-- The need of a segment and the room of its window (R276), in ns. -/
def segNeed (f : State) (g : Nat) : Nat :=
  let frame (n : Nat) : Nat := (fxLen n + 22) * 800
  let exch (d : DevEnt) : Nat := frame (4 * d.outCnt) + d.respto * 1_000 + frame (4 * d.inCnt)
  frame 8 + ((((segDevs f g).map (fun e => e.2)).filter DevEnt.exchanged).map exch).sum + 400_000
def segRoom (f : State) : Nat := ((clsCfg f 0).outph - 32) * 3_756

/-- NETOWN, NETADDR, NETFIT and NETMSL over the segments as they will stand; and PTPCFG EN as PTPDISC = 1 needs it (R349).
DEDUCED, log 41. -/
def netErrs (f : State) : List LoadErr :=
  let gs := [1, 2, 3, 4]
  errIf (f.rtc.timecfg.getLsbD 0 && !f.eth.ptpcfg.getLsbD 0) 0x0B01 0 ++
  gs.flatMap (netAddrErrs f) ++
  gs.flatMap (fun g => ((segDevs f g).filter (fun e => !devOwnOk f e.2)).map (fun e => fieldErr 0x0B03 e.2.node)) ++
  (gs.filter (fun g => decide (segRoom f < segNeed f g))).map (fieldErr 0x0B04) ++
  ((usedEnts f).filter (fun e => decide (e.2.net ≤ 4) &&
    !(segDevs f e.2.net).any (fun d => d.2.node == e.2.addr.toNat))).map (fun e => fieldErr 0x0B05 e.1)

/-! ### CAN configuration (R284) -/

def canRegOk (r : RegId) (w : Word) : Bool :=
  match r with
  | .cannbt _ => zeroIn w 0x3 && fieldIn w 23 16 1 255
  | .candbt _ => zeroIn w 0x3F && fieldIn w 26 22 1 31
  | .cancfg0 _ => zeroIn w 0x00C0_0000 && fieldIn w 31 24 1 255
  | .cancfg1 _ => zeroIn w 0x003F_FFFF
  | .cansync _ => zeroIn w 0x6000_0000 && (w.getLsbD 31 || zeroIn w 0x1FFF_F800)
  | _ => false

/-- Controller clocks per bit of the nominal and of the data phase (R280). -/
def nomClk (x : Can) : Nat := (bitsOf x.nbt 31 24 + 1) * (3 + bitsOf x.nbt 23 16 + bitsOf x.nbt 15 9)
def datClk (x : Can) : Nat := (bitsOf x.dbt 31 27 + 1) * (3 + bitsOf x.dbt 26 22 + bitsOf x.dbt 21 18)

/-- The bit times satisfy R280: 10 kbit/s to 1 Mbit/s, data up to 5 Mbit/s. -/
def bitTimesOk (x : Can) : Bool :=
  decide (80 ≤ nomClk x) && decide (nomClk x ≤ 8_000) && decide (16 ≤ datClk x) &&
    decide (bitsOf x.nbt 8 2 ≤ bitsOf x.nbt 15 9) && decide (bitsOf x.dbt 17 14 ≤ bitsOf x.dbt 21 18) &&
    (x.dbt.getLsbD 13 || decide (80 ≤ datClk x))

def canDevBytesOk (bs : List Byte) : Bool :=
  match parseCanDev bs with
  | none => true
  | some d => decide (d.node ≤ 16) && zeroBytes bs 3 1

/-- Data lengths of a frame (R283). -/
def canLenOk (fdf : Bool) (n : Nat) : Bool := decide (n ≤ 8) || (fdf && [12, 16, 20, 24, 32, 48, 64].contains n)

def canEntBytesOk (bs : List Byte) : Bool :=
  match parseCanEnt bs with
  | none => true
  | some e =>
    (e.idw.getLsbD 31 || zeroIn e.idw 0x1FFF_F800) && getLE bs 4 1 / 16 % 4 == 0 && !(e.tx && e.req) &&
      canLenOk (e.idw.getLsbD 30) e.len

/-- CANFORMAT for a CANCFG entry. -/
def canFormatErrs (f : State) (c : Nat) (regs : List (RegId × Word)) (devs frames : List (Nat × List Byte)) : List LoadErr :=
  errIf (regs.any (fun e => !canRegOk e.1 e.2) || !bitTimesOk (canOf f c)) 0x0C01 c ++
  (devs.filter (fun e => !canDevBytesOk e.2)).map (fun e => fieldErr 0x0C01 e.1) ++
  (frames.filter (fun e => !canEntBytesOk e.2)).map (fun e => fieldErr 0x0C01 e.1)

/-- The used MSL entries on a controller. -/
def canMsl (f : State) (c : Nat) : List (Nat × MslEnt) := (usedEnts f).filter (fun e => e.2.net == c + 5)

/-- CANOWN for a frame entry, receive or transmit: its points are in blocks of the device's stage, which may write them
under R14. -/
def canEntOwnOk (f : State) (x : Can) (e : CanEnt) : Bool :=
  match Table.get none x.dev e.dev with
  | none => false
  | some d => e.pts.all (fun pt => ownerOf f pt == d.stage && mayWrite f d.stage pt)

/-- An identifier with its format: XTD, FDF and the identifier (R284). -/
def canIdFormat (w : Nat) : Nat := canKey w + w / 2 ^ 30 % 2 * 2 ^ 30

/-- The bound of a frame in controller clocks (R287). -/
def frameClk (x : Can) (xtd fdf brs : Bool) (n : Nat) : Nat :=
  if !fdf then (if xtd then 80 + 10 * n else 55 + 10 * n) * nomClk x
  else
    let a := if xtd then 60 else 34
    let b := if n ≤ 16 then 32 + 10 * n else 37 + 10 * n
    if brs then a * nomClk x + b * datClk x else (a + b) * nomClk x

/-- The load of a controller in clocks, and twice its limit scaled to ns: load * 25 against P (R287). DEDUCED, log 36. -/
def canLoad (f : State) (c : Nat) : Nat :=
  let x := canOf f c
  let p := takeNs f x.cls
  let sync := frameClk x (x.sync.getLsbD 31) false false (if x.synclen then 2 else 0)
  sync + (x.entries.map (fun e => frameClk x (e.2.idw.getLsbD 31) (e.2.idw.getLsbD 30) (e.2.idw.getLsbD 29) e.2.len)).sum +
    ((canMsl f c).map (fun e => 2 * ceilDiv p 5_000_000 * frameClk x (e.2.addr.getLsbD 31) true false (16 + e.2.len))).sum
where
  takeNs (f : State) (k : Nat) : Nat := 2 ^ (clsCfg f k).n * 2_048 * 3_756

/-- The codes of a controller as it will stand. DEDUCED, log 36. DEDUCED, log 41. -/
def canErrs (f : State) (c : Nat) : List LoadErr :=
  let x := canOf f c
  let ms := canMsl f c
  let b := bitsOf x.cfg1 31 22
  (x.dev.filter (fun e => match e.2 with
    | some d => !deadlineOk f d.f x.cls
    | none => false)).map (fun e => fieldErr 0x0C01 e.1) ++
  (dups (x.entries.map (fun e => canIdFormat e.2.idw.toNat))).map (fieldErr 0x0C02) ++
  (x.entries.filter (fun e => canKey e.2.idw.toNat == canKey x.sync.toNat ||
    ms.any (fun m => (mslKeys m).contains (canKey e.2.idw.toNat)))).map (fun e => fieldErr 0x0C02 e.1) ++
  (x.entries.filter (fun e => !canEntOwnOk f x e.2)).map (fun e => fieldErr 0x0C03 e.2.first) ++
  (x.dev.filter (fun e => match e.2 with
    | some d => !stageOn f d.stage
    | none => false)).map (fun e => fieldErr 0x0C03 e.1) ++
  errIf (!(clsCfg f x.cls).en || reqptBad f x.reqpt || (b != 0 && (decide (b < 8) || decide (numBlocks f ≤ b)))) 0x0C03 c ++
  errIf (decide (canLoad.takeNs f x.cls < canLoad f c * 25) || decide (56 < x.rxEntries.length + ms.length)) 0x0C04 c ++
  (x.entries.filter (fun e => (!x.fden && (e.2.idw.getLsbD 30 || e.2.idw.getLsbD 29)) ||
    (e.2.idw.getLsbD 29 && !e.2.idw.getLsbD 30))).map (fun e => fieldErr 0x0C05 e.1) ++
  errIf (!x.fden && !ms.isEmpty) 0x0C05 c

/-! ### Stages, tags, principals (R13, R301, R303) -/

/-- STGFORMAT for an STGCFG entry. -/
def stgWordsOk (st : Nat) (ws : List Word) : Bool :=
  let w (i : Nat) : Word := ws.getD i 0
  let en := st == 0 || (w 0).getLsbD 31
  zeroIn (w 0) 0xFF && zeroIn (w 1) 0x7FF && zeroIn (w 2) 0x1F && zeroIn (w 3) 0x7F && zeroIn (w 5) 0xFFF &&
    fieldIn (w 0) 29 22 1 255 && fieldIn (w 0) 21 15 0 64 && fieldIn (w 0) 14 8 1 120 && fieldIn (w 1) 21 11 0 1_024 &&
    fieldIn (w 2) 18 5 0 8_192 && fieldIn (w 3) 19 7 0 4_096 &&
    (!en || (fieldIn (w 4) 31 16 100 40_000 && fieldIn (w 4) 15 0 100 65_535 && fieldIn (w 5) 31 21 16 1_024 &&
      fieldIn (w 5) 20 12 1 384))

/-- Two allocations share a number. -/
def allocsMeet (a b : Nat × Nat) : Bool := decide (a.1 < b.1 + b.2) && decide (b.1 < a.1 + a.2)

/-- STGALLOC: the allocations of one kind. -/
def allocsOk (limit : Nat) (l : List (Nat × Nat)) : Bool :=
  l.all (fun a => a.2 == 0 || decide (a.1 + a.2 ≤ limit)) && pairsOk (fun a b => !allocsMeet a b || a.2 == 0 || b.2 == 0) l

def stgAllocErrs (f : State) : List LoadErr :=
  let sts := List.range 32
  errIf (!allocsOk (numLoops f) (sts.map (fun st => (loopFirst f st, loopCnt f st))) ||
    !allocsOk 8_192 (sts.map (fun st => (tmrFirst f st, tmrCnt f st))) ||
    !allocsOk 4_096 (sts.map (fun st => (ctrFirst f st, ctrCnt f st)))) 0x0D02 0

/-- The loops and slots that a loaded program of a stage uses are still allocated to it (R301). -/
def allocUseOk (f : State) (st : Nat) : Bool :=
  match progOf f st with
  | none => true
  | some p =>
    p.slots.all (fun d => slotFits f st d.counter d.num) &&
      p.code.all (fun w => match refOf w with
        | .loop n _ => ownsLoop f st n
        | .slot c n _ => slotFits f st c n
        | _ => true)

/-- STGUSE. -/
def stgUseErrs (s b f : State) : List LoadErr :=
  let on := stagesOn f
  let off := (List.range 32).filter (fun st => !stageOn f st)
  (off.filter (fun st => (List.range (numBlocks f)).any (fun k => (tagOf f k).owner == st) || (progOf f st).isSome ||
    s.host.conns.any (fun e => match e.2 with
      | some c => c.sess.isSome && c.stage == st
      | none => false))).map (fieldErr 0x0D03) ++
  errIf (decide (40_000 < (on.map (tokrate f)).sum) || decide (384 < (on.map (opmax f)).sum) ||
    decide (numSessions f < ((List.range 32).map (sesmax f)).sum)) 0x0D03 0 ++
  ((List.range 32).filter (fun st => !allocUseOk f st)).map (fieldErr 0x0D03) ++
  ((loopNums f).filter (fun n => (loopDesc f n).kind != 0 && !ownsLoop f (loopOwner b n) n)).map (fieldErr 0x0D03)

/-- The blocks of the sections of a program. -/
def writesBlock (p : Prog) (blk : Nat) : Bool :=
  p.secs.any (fun d => d.wr.any (fun e => rangesMeet e (blk * 64, blk * 64 + 63)))

/-- TAGUSE for a TAG entry; `released`: the points released by the same transaction (R13, R136). -/
def tagOk (b f : State) (blk : Nat) (t : Half) (released : List Nat) : Bool :=
  let old := tagOf b blk
  let owner := bitsOf t 4 0
  let pub := t.getLsbD 5
  let ownerChange := owner != old.owner
  let change := ownerChange || pub != old.pub
  !(pub && owner != 0) && decide (owner < numStages f) && !(old.fixed && change && (blk != 5 || ownerChange)) &&
    !(ownerChange && (match progOf f old.owner with
      | some p => writesBlock p blk
      | none => false)) &&
    !(change && b.points.frz.any (fun e => e.2.isSome && blockOf e.1 == blk && !released.contains e.1))

/-- PRINCIPAL for one entry (R303). -/
def principalOk (b f : State) (num : Nat) (key : BitVec 256) (stage : Nat) (roles : Half) : Bool :=
  !b.host.principals.any (fun p => p.num == num && p.stage != stage) &&
    !(roles != 0 && f.host.principals.any (fun p => p.num != num && p.key == key && p.stage == stage)) &&
    !(custodian roles && stage != 0)

/-- Two principals can be credited with two different custodian roles that they hold (R303, R329). -/
def creditable (a b : Half) : Bool :=
  [5, 6, 7].any (fun i => [5, 6, 7].any (fun j => i != j && a.getLsbD i && b.getLsbD j))

/-- CUSTODY: the table holds no custodian, or two entries with different keys who can be credited. -/
def custodyOk (f : State) : Bool :=
  let l := f.host.principals.filter (fun p => custodian p.roles)
  l.isEmpty || l.any (fun p => l.any (fun q => p.key != q.key && creditable p.roles q.roles))

def principalErrs (b f : State) (num : Nat) (key : BitVec 256) (stage : Nat) (roles : Half) : List LoadErr :=
  errIf (!principalOk b f num key stage roles) 0x0D04 num ++ errIf (!custodyOk f) 0x0D05 num ++
    errIf (decide (256 < f.host.principals.length)) 0x0D06 num

/-! ### Keys, security, slate (R381, R384, R461) -/

def keypolErrs (f : State) (w0 w1 : Word) : List LoadErr :=
  errIf (!zeroIn w0 0xFFFF || !fieldIn w0 29 16 0 3_650 ||
    (List.range 32).any (fun st => w1.getLsbD st && !stageOn f st)) 0x0E01 0

def secpolErrs (s : State) (w0 w1 : Word) : List LoadErr :=
  errIf ((List.range 6).any (fun i => bitsOf w0 (31 - 2 * i) (30 - 2 * i) == 3) || !zeroIn w0 0x0001_FF00 ||
    !fieldIn w0 7 0 3 255 || !zeroIn w1 0xFFFF || !fieldIn w1 31 16 10 3_600 || (w0.getLsbD 17 && s.keys.erased)) 0x0E02 0

/-- SLATEFORMAT (R32, R34, R35). -/
def slateOk (scfg : Word) (cls : List Word) : Bool :=
  let w (k : Nat) : Word := cls.getD k 0
  let en (k : Nat) : Bool := (w k).getLsbD 3
  zeroIn scfg 0xFFFF_FFFC && [0, 1, 2, 3].all (fun k => zeroIn (w k) 0xF800_FFF0 && fieldIn (w k) 26 16 256 2_040) &&
    en 0 && [0, 1, 2].all (fun k => !en (k + 1) || (en k && decide (bitsOf (w k) 2 0 < bitsOf (w (k + 1)) 2 0)))

/-- The sections of the programs of a state, with their stages. -/
def secsOf (s : State) : List (Nat × SecDef) := (List.range 32).flatMap (fun st => match progOf s st with
  | some p => p.secs.map (fun d => (st, d))
  | none => [])

/-- Every section that is loaded, or of a program that is committed and not yet applied, or will be in force (R35, R461). -/
def loadedSecs (s f : State) : List (Nat × SecDef) :=
  secsOf s ++ s.host.commits.flatMap (fun c => c.entries.flatMap (fun e =>
    let secs (bs : List Byte) : List (Nat × SecDef) := (loadProg bs).secs.map (fun d => (c.stage, d))
    match e with
    | .prog bs => secs bs
    | .progLib id => secs (libBytes s c.stage id)
    | _ => [])) ++ secsOf f

/-- The first failing code of R461, naming the section and, as what is concerned, its stage. DEDUCED, log 42. -/
def slateErrs (loaded : List (Nat × SecDef)) (f : State) (scfg : Word) (cls : List Word) : List LoadErr :=
  let secs := secsOf f
  if !slateOk scfg cls then [fieldErr 0x1101 0]
  else
    match loaded.find? (fun e => !(clsCfg f e.2.cls).en) with
    | some e => [⟨0x0502, e.2.secno, 0xFFFF_FFFF, e.1⟩]
    | none =>
      match (placements (placePairs f) (progsNow f) (clsCfg f)).findIdx? Option.isNone with
      | none => []
      | some k =>
        match secs.find? (fun e => e.2.cls == k) with
        | some e => [⟨0x0501, e.2.secno, 0xFFFF_FFFF, e.1⟩]
        | none => [fieldErr 0x0501 k]

end Sys2Proof.Machine
end

