-- ==== Sys2Proof/Machine/Txn.lean ====
section
/-! DEFINITION. Transactions (R320 to R329, R112): opening, staging, signing, committing, rolling back, and the
program library. -/

namespace Sys2Proof.Machine
open Sys2Proof

/-! ### Entries as data (R321) -/

def Entry_kind (e : Entry) : Nat :=
  match e with
  | .prog _ => 0x01
  | .progLib _ => 0x02
  | .loopDesc _ _ => 0x03
  | .pwrite _ => 0x04
  | .freeze _ _ => 0x05
  | .release _ => 0x06
  | .restart _ => 0x07
  | .principal _ _ _ _ => 0x08
  | .liocfg _ => 0x09
  | .tag _ _ => 0x10
  | .stgcfg _ _ _ => 0x11
  | .slate _ _ => 0x12
  | .netcfg _ _ _ => 0x13
  | .cancfg _ _ _ _ => 0x14
  | .safepar _ => 0x15
  | .mslpar _ => 0x16
  | .mslgen _ => 0x17
  | .keypol _ _ => 0x18
  | .secpol _ _ => 0x19
  | .reserved k _ => k

/-- Kinds that only a transaction of stage 0 holds. -/
def houseKind (e : Entry) : Bool := 0x10 ≤ Entry_kind e && Entry_kind e ≤ 0x19

/-- A register's number within an entry (log entry 17). -/
def regNo (r : RegId) : Nat :=
  match r with
  | .liogen0 => 0x000
  | .liogen1 => 0x001
  | .dicfg n => 0x100 + n
  | .docfg n => 0x200 + n
  | .aicfg n => 0x300 + n
  | .aocfg n => 0x400 + n
  | .enccfg c => 0x500 + c
  | .slatecfg => 0x600
  | .classcfg k => 0x610 + k
  | .stgcfg st i => 0x2000 + st * 8 + i
  | .maccfg m => 0x700 + m
  | .filt m i => 0x710 + m * 8 + i
  | .dscfg u => 0x760 + u
  | .ptpcfg => 0x770
  | .ipcfg i => 0x780 + i
  | .cannbt c => 0x800 + c
  | .candbt c => 0x810 + c
  | .cancfg0 c => 0x820 + c
  | .cancfg1 c => 0x830 + c
  | .cansync c => 0x840 + c
  | .mslgen => 0x900
  | .timecfg => 0x910
  | .almcfg a i => 0x920 + a * 4 + i
  | .keypol i => 0xA00 + i
  | .secpol i => 0xA10 + i
  | .maccount m i => 0x4000 + m * 64 + i
  | .canlost c b => 0x5000 + c * 64 + b
  | .cannd c b => 0x5100 + c * 64 + b

/-- The content of an entry as bytes: an image, a descriptor or a set as it is given, and the other kinds in the
order of their fields (log entry 17). -/
def entryBytes (e : Entry) : List Byte :=
  let w (x : Word) : List Byte := bytesLE 4 x.toNat
  match e with
  | .prog bs => bs
  | .progLib id => w id
  | .loopDesc n d => bytesLE 2 n ++ d
  | .pwrite ws => ws.flatMap (fun x => bytesLE 4 x.1 ++ w x.2)
  | .freeze pt v => bytesLE 4 pt ++ w v
  | .release pt => bytesLE 4 pt
  | .restart b => [b]
  | .principal num key st roles => bytesLE 2 num ++ bytesLE 32 key.toNat ++ bytesLE 2 st ++ bytesLE 2 roles.toNat
  | .liocfg regs => regs.flatMap (fun x => bytesLE 4 (regNo x.1) ++ w x.2)
  | .tag blk t => bytesLE 2 blk ++ bytesLE 2 t.toNat
  | .stgcfg st ws pub => bytesLE 4 st ++ ws.flatMap w ++ pub.flatMap (fun x => bytesLE 4 x.1 ++ w x.2)
  | .slate scfg cls => w scfg ++ cls.flatMap w
  | .netcfg regs devs name =>
    regs.flatMap (fun x => bytesLE 4 (regNo x.1) ++ bytesLE 8 x.2.toNat) ++
      devs.flatMap (fun x => bytesLE 2 x.1 ++ bytesLE 2 x.2.1 ++ x.2.2) ++ name
  | .cancfg c regs devs frames =>
    bytesLE 4 c ++ regs.flatMap (fun x => bytesLE 4 (regNo x.1) ++ w x.2) ++
      devs.flatMap (fun x => bytesLE 4 x.1 ++ x.2) ++ frames.flatMap (fun x => bytesLE 4 x.1 ++ x.2)
  | .safepar set => set
  | .mslpar set => set
  | .mslgen x => w x
  | .keypol a b => w a ++ w b
  | .secpol a b => w a ++ w b
  | .reserved _ content => content

/-- Two entries are for the same target. -/
def sameTarget (a b : Entry) : Bool :=
  match a, b with
  | .prog _, .prog _ => true
  | .prog _, .progLib _ => true
  | .progLib _, .prog _ => true
  | .progLib _, .progLib _ => true
  | .loopDesc n _, .loopDesc m _ => n == m
  | .pwrite x, .pwrite y => x.map (fun e => e.1) == y.map (fun e => e.1)
  | .freeze p _, .freeze q _ => p == q
  | .release p, .release q => p == q
  | .restart _, .restart _ => true
  | .principal n _ _ _, .principal m _ _ _ => n == m
  | .liocfg x, .liocfg y => x.map (fun e => e.1) == y.map (fun e => e.1)
  | .tag n _, .tag m _ => n == m
  | .stgcfg n _ _, .stgcfg m _ _ => n == m
  | .slate _ _, .slate _ _ => true
  | .netcfg x d n, .netcfg y e m =>
    x.map (fun r => r.1) == y.map (fun r => r.1) && d.map (fun r => (r.1, r.2.1)) == e.map (fun r => (r.1, r.2.1)) &&
      n.isEmpty == m.isEmpty
  | .cancfg c x d n, .cancfg e y f m =>
    c == e && x.map (fun r => r.1) == y.map (fun r => r.1) && d.map (fun r => r.1) == f.map (fun r => r.1) &&
      n.map (fun r => r.1) == m.map (fun r => r.1)
  | .safepar _, .safepar _ => true
  | .mslpar _, .mslpar _ => true
  | .mslgen _, .mslgen _ => true
  | .keypol _ _, .keypol _ _ => true
  | .secpol _ _, .secpol _ _ => true
  | .reserved j _, .reserved k _ => j == k
  | _, _ => false

/-- A later entry for the same target replaces the earlier one in its place. -/
def putEntry (e : Entry) (l : List Entry) : List Entry :=
  if l.any (sameTarget e) then l.map (fun x => if sameTarget e x then e else x) else l ++ [e]

/-- An entry grants or withdraws a custodian role. -/
def changesCustody (b : State) (num : Nat) (roles : Half) : Bool :=
  let old : Half := ((b.host.principals.find? (fun p => p.num == num)).map (fun p => p.roles)).getD 0
  (old ^^^ roles) &&& 0x00E0 != 0

/-- A protected entry (R321). -/
def isProtected (b : State) (e : Entry) : Bool :=
  match e with
  | .principal num _ _ roles => changesCustody b num roles
  | .tag _ _ => true
  | .stgcfg _ _ _ => true
  | .safepar _ => true
  | .mslpar _ => true
  | .keypol _ _ => true
  | .secpol _ _ => true
  | _ => false

/-- An entry that needs a full boundary (R36). -/
def needsFull (e : Entry) : Bool :=
  match e with
  | .loopDesc _ _ => true
  | .liocfg _ => true
  | _ => houseKind e

/-! ### The transaction of a stage (R320, R325) -/

def txOf (s : State) (st : Nat) : Option Tx := Table.get none s.host.tx st
def putTx (st : Nat) (t : Option Tx) (s : State) : State :=
  { s with host := { s.host with tx := Table.set none s.host.tx st t } }

/-- The end of a transaction is recorded: 1 committed or 0 rolled back; cause 0 request, 1 time-out, 2 power loss. A load
adds the IMAGEID of its image (R113). DESIGN CHOICE, log 46. -/
def txEvent (st : Nat) (num : Word) (committed : Bool) (cause : Nat) (image : Option Word) (s : State) : State :=
  logEv 0x41 3 st (viewOf st) 0
    (packD ([(4, num.toNat), (1, b2n committed), (1, cause)] ++ (image.map (fun i => (4, i.toNat))).toList)) s

/-- A transaction rolls back (R325): nothing in force changes. -/
def rollback (st cause : Nat) (s : State) : State :=
  match txOf s st with
  | none => s
  | some t =>
    let s := putTx st none s
    txEvent st t.num false cause none { s with host := { s.host with ended := st :: s.host.ended.filter (fun x => x != st) } }

/-- A request of a session with ENGINEER to the stage's transaction: TXENDED once after a rollback, then NOTX. -/
def withTx (cn rq op : Nat) (role : Nat) (c : Conn) (s : State) (f : Tx → State → State) : State :=
  if !hasRole c role then done cn rq op stDenied [] c s
  else
    match txOf s c.stage with
    | some t => f t s
    | none =>
      if s.host.ended.contains c.stage then
        done cn rq op stTxended [] c { s with host := { s.host with ended := s.host.ended.filter (fun x => x != c.stage) } }
      else done cn rq op stNotx [] c s

/-- TXBEGIN. DEDUCED, log 43. -/
def execTxbegin (cn rq : Nat) (s : State) : Host.Outcome State Fault Refusal :=
  requestNow cn rq 0x0030 4 s fun c s =>
    if !hasRole c roEngineer then done cn rq 0x0030 stDenied [] c s
    else if (txOf s c.stage).isSome then done cn rq 0x0030 stTxexists [] c s
    else
      let n := s.host.nextTx
      let new : Tx := { num := n, entries := [], partial_ := none, sigs := [], at_ := s.now, svcFree := true }
      let s := putTx c.stage (some new) s
      done cn rq 0x0030 stOk [n] c { s with host := { s.host with
        nextTx := n + 1, ended := s.host.ended.filter (fun x => x != c.stage) } }

/-- TXROLLBACK. -/
def execTxrollback (cn rq : Nat) (s : State) : Host.Outcome State Fault Refusal :=
  requestNow cn rq 0x0033 4 s fun c s =>
    withTx cn rq 0x0033 roEngineer c s fun _ s => done cn rq 0x0033 stOk [] c (rollback c.stage 0 s)

/-- TX_TIMEOUT: TXTO after TXBEGIN. -/
def execTxTimeout (stage : Nat) (s : State) : Host.Outcome State Fault Refusal :=
  let due := match txOf s stage with
    | some t => decide (t.at_ + secT (60 * txto s stage) ≤ s.now)
    | none => false
  whenUpAnd s due (rollback stage 1)

/-! ### The rushes (R21, R321) -/

/-- What a stage's transactions occupy. -/
def stageRush (s : State) (st : Nat) : Nat :=
  (match txOf s st with
    | some t => (t.entries.map (fun e => (entryBytes e).length)).sum + (t.partial_.getD []).length
    | none => 0) +
  ((s.host.commits.filter (fun c => c.stage == st)).map (fun c => (c.entries.map (fun e => (entryBytes e).length)).sum)).sum

/-- The rushes with a stage at `n` bytes keep their limits. -/
def rushFits (s : State) (st n : Nat) : Bool :=
  let tenants := (((List.range 32).filter (fun x => x != 0 && x != st)).map (stageRush s)).sum + (if st = 0 then 0 else n)
  let house := if st = 0 then n else stageRush s 0
  (st == 0 || (decide (n ≤ 6_400 * 1_024) && decide (tenants ≤ 11_264 * 1_024))) && decide (tenants + house ≤ 12_288 * 1_024)

/-! ### What will be in force (R121, R323) -/

/-- The module after the boundaries of every commit that waits. DEDUCED, log 40. -/
def pendingState (s : State) : State := applyCommits s.host.commits s

/-- The same with a further transaction. DEDUCED, log 40. -/
def futureState (s : State) (st cn : Nat) (num : Word) (entries : List Entry) : State :=
  applyCommits (s.host.commits ++ [{ stage := st, num := num, cn := cn, sess := sessNo s cn, entries := entries, full := true, classes := [] }]) s

/-- The state against which an image is judged: the freezes and the stage's program as they stand before it. -/
def loadView (b f : State) (st : Nat) : State :=
  { f with
    points := { f.points with frz := b.points.frz }
    progs := { f.progs with prog := Table.set none f.progs.prog st (progOf b st) } }

/-- The points that a transaction releases. -/
def releasedBy (l : List Entry) : List Nat := l.filterMap (fun e => match e with
  | .release pt => some pt
  | _ => none)

/-- With no pair in service, loads and restarts are refused (R425). -/
def holdErrs (s : State) : List LoadErr := errIf (pairsIn s == 0) 0x1002 0

/-! ### Format at the stage step (R321) -/

/-- A register that an LIOCFG entry can name. -/
def isLioReg (r : RegId) : Bool :=
  match r with
  | .liogen0 => true
  | .liogen1 => true
  | .dicfg n => decide (n < 32)
  | .docfg n => decide (n < 16)
  | .aicfg n => decide (n < 8)
  | .aocfg n => decide (n < 4)
  | .enccfg c => decide (c < 2)
  | _ => false

/-- A register that a NETCFG entry can name. -/
def isNetReg (r : RegId) : Bool :=
  match r with
  | .maccfg m => decide (m < 7)
  | .filt m i => decide (m < 7) && decide (i < 8)
  | .dscfg u => decide (u < 2)
  | .ptpcfg => true
  | .ipcfg i => decide (i < 3)
  | _ => false

/-- A register that a CANCFG entry of a controller can name. -/
def isCanReg (c : Nat) (r : RegId) : Bool :=
  match r with
  | .cannbt x => x == c
  | .candbt x => x == c
  | .cancfg0 x => x == c
  | .cancfg1 x => x == c
  | .cansync x => x == c
  | _ => false

/-- The status of an entry by its rights and its form; 0: it may be staged. -/
def stageStatus (s : State) (st : Nat) (e : Entry) : Nat :=
  let form (ok : Bool) : Nat := if ok then stOk else stBadarg
  if houseKind e && st != 0 then stDenied
  else
    match e with
    | .prog _ => stOk
    | .progLib id => form (s.progs.lib.any (fun l => l.stage == st && l.imageId == id && copyOk s l))
    | .loopDesc _ d => form (d.length == 128)
    | .pwrite ws => if 4_096 < ws.length then stLimit else writeStatus s st true (ws.map (fun x => x.1))
    | .freeze pt _ => freezeStatus s st true pt
    | .release pt => freezeStatus s st true pt
    | .restart b => form (b &&& 0xFC == 0)
    | .principal num _ ps roles =>
      firstStatus false (st != 0 && ps != st) false false
        (num == 0 || decide (65_535 < num) || decide (numStages s ≤ ps) || roles &&& 0xFF00 != 0)
    | .liocfg regs =>
      firstStatus false (regs.any (fun r => lioStage s r.1 != st)) false false
        (regs.any (fun r => !isLioReg r.1))
    | .tag blk _ => form (decide (blk < numBlocks s))
    | .stgcfg x ws pub => form (decide (x < numStages s) && ws.length == 6 && decide (pub.length ≤ 64))
    | .slate _ cls => form (cls.length == 4)
    | .netcfg regs devs name =>
      form (regs.all (fun r => isNetReg r.1) && decide (name.length ≤ 32) && devs.all (fun d =>
        decide (1 ≤ d.1) && decide (d.1 ≤ 4) && decide (d.2.1 < 16) && d.2.2.length == 24))
    | .cancfg c regs devs frames =>
      form (decide (c < 2) && regs.all (fun r => isCanReg c r.1) &&
        devs.all (fun d => decide (d.1 < 16) && d.2.length == 8) && frames.all (fun d => decide (d.1 < 128) && d.2.length == 8))
    | .safepar set => form (set.length == 156)
    | .mslpar set => form (set.length == 524)
    | .mslgen _ => stOk
    | .keypol _ _ => stOk
    | .secpol _ _ => stOk
    | .reserved _ _ => stBadarg

/-- The checks of R121 and R163 at the stage step, against what will be in force. DEDUCED, log 40. -/
def stageErrs (s : State) (st cn : Nat) (t : Tx) (e : Entry) : List LoadErr :=
  let b := pendingState s
  let image (bs : List Byte) : List LoadErr :=
    let f := futureState s st cn t.num (t.entries.filter (fun x => !sameTarget e x))
    let g := loadView b f st
    if pairsIn s = 0 then holdErrs s else loadErrs g (progsNow g) st bs (releasedBy t.entries)
  match e with
  | .prog bs => image bs
  | .progLib id => image (libBytes s st id)
  | .loopDesc n d =>
    let l := putEntry e t.entries
    descErrs (futureState s st cn t.num l) st n d (some (l.filterMap (fun x => match x with
      | .loopDesc m _ => some m
      | _ => none)))
  | .restart _ => holdErrs s
  | _ => []

/-- REJECTED: each error as four words with the number of its entry (R315). -/
def errPay (l : List (Nat × LoadErr)) : List Word :=
  (l.take 32).flatMap (fun x =>
    [BitVec.ofNat 32 (x.1 % 65_536 + x.2.code * 65_536), BitVec.ofNat 32 (x.2.secno % 65_536),
      BitVec.ofNat 32 x.2.index, BitVec.ofNat 32 x.2.ref])

/-- The load result of an accepted image (R113, R116): its IMAGEID, the number of sections, and for each its number, WTOOL
and the loader's own W. DESIGN CHOICE, log 28. -/
def loadResult (bs : List Byte) : List Word :=
  let p := loadProg bs
  [p.imageId, BitVec.ofNat 32 p.secs.length] ++ p.secs.flatMap (fun d =>
    [BitVec.ofNat 32 d.secno, BitVec.ofNat 32 d.wtool, BitVec.ofNat 32 d.w])

/-- What the answer to an accepted entry carries. -/
def stageResult (s : State) (st : Nat) (e : Entry) : List Word :=
  match e with
  | .prog bs => loadResult bs
  | .progLib id => loadResult (libBytes s st id)
  | _ => []

/-- TXSTAGE after its rights: the entry is whole. DEDUCED, log 43. -/
def stageEntry (cn rq : Nat) (c : Conn) (t : Tx) (e : Entry) (s : State) : State :=
  let st := c.stage
  let t := { t with partial_ := none }
  let s := putTx st (some t) s
  let status := stageStatus s st e
  let freed := ((t.entries.filter (sameTarget e)).map (fun x => (entryBytes x).length)).sum
  if status != stOk then done cn rq 0x0031 status [] c s
  else if !rushFits s st (stageRush s st + (entryBytes e).length - freed) then done cn rq 0x0031 stRushfull [] c s
  else
    let errs := stageErrs s st cn t e
    if !errs.isEmpty then
      done cn rq 0x0031 stRejected (errPay (errs.map (fun x => ((putEntry e t.entries).findIdx (fun y => y == e), x)))) c s
    else
      done cn rq 0x0031 stOk (stageResult s st e) c (putTx st (some { t with
        entries := putEntry e t.entries, sigs := []
        svcFree := t.svcFree && s.host.commissioning && c.port == .svc }) s)

/-- The points that an entry writes, freezes or releases. -/
def entryPts (e : Entry) : List Nat := match e with
  | .pwrite ws => ws.map (fun x => x.1)
  | .freeze pt _ => [pt]
  | .release pt => [pt]
  | _ => []

/-- TXSTAGE (R321, R322): parts with MORE set are kept until the last; only an image comes in parts. A point that does not
exist comes before the role (R313). -/
def execTxstage (cn rq : Nat) (e : Entry) (more : Bool) (s : State) : Host.Outcome State Fault Refusal :=
  requestNow cn rq 0x0031 (4 + ceilDiv (entryBytes e).length 4_096) s fun c s =>
    if (entryPts e).any (fun pt => !pointExists s pt) then done cn rq 0x0031 stNopoint [] c s else
    withTx cn rq 0x0031 roEngineer c s fun t s =>
      match e, more with
      | .prog part, true =>
        let whole := t.partial_.getD [] ++ part
        if !rushFits s c.stage (stageRush s c.stage + part.length) then done cn rq 0x0031 stRushfull [] c s
        else
          done cn rq 0x0031 stOk [] c (putTx c.stage (some { t with
            partial_ := some whole, sigs := [], svcFree := t.svcFree && s.host.commissioning && c.port == .svc }) s)
      | e, true => done cn rq 0x0031 (if stageStatus s c.stage e = stOk then stBadarg else stageStatus s c.stage e) [] c s
      | .prog part, false => stageEntry cn rq c t (.prog (t.partial_.getD [] ++ part)) s
      | _, false => stageEntry cn rq c t e s

/-! ### Signatures (R327 to R329) -/

/-- The digest of a transaction (R328). DESIGN CHOICE, log 17. -/
def txDigest (st : Nat) (t : Tx) : BitVec 384 :=
  sha384 (bytesLE 1 st ++ bytesLE 4 t.num.toNat ++ t.entries.flatMap (fun e =>
    bytesLE 2 (Entry_kind e) ++ bytesLE 4 (entryBytes e).length ++ entryBytes e))

/-- A signature or a refused one is recorded; one refused where no transaction is open names transaction 0. DESIGN CHOICE,
log 46. -/
def signEvent (num : Word) (principal : Nat) (ok : Bool) (s : State) : State :=
  logEv 0x42 5 0 (viewOf 0) 0 (packD [(4, num.toNat), (2, principal), (1, b2n ok)]) s

/-- The bytes that a custodian signs (R329): the 20 of "QFM-7640 countersign", then the digest. -/
def signedBytes (digest : BitVec 384) : List Byte :=
  [0x51, 0x46, 0x4D, 0x2D, 0x37, 0x36, 0x34, 0x30, 0x20, 0x63, 0x6F, 0x75, 0x6E, 0x74, 0x65, 0x72, 0x73, 0x69, 0x67, 0x6E] ++
    bytesLE 48 digest.toNat

/-- The number of the stage's open transaction; 0 where it has none. -/
def txNum (s : State) (st : Nat) : Word := ((txOf s st).map (fun t => t.num)).getD 0

/-- TXSIGN. A signature that fails over the current digest fires SIGFAIL (R382). -/
def execTxsign (cn rq : Nat) (digest : BitVec 384) (sig : BitVec 512) (s : State) : Host.Outcome State Fault Refusal :=
  requestNow cn rq 0x0034 4 s fun c s =>
    if c.stage ≠ 0 ∨ custodian c.roles = false then
      done cn rq 0x0034 stDenied [] c (signEvent (txNum s c.stage) c.principal false s)
    else
      match txOf s 0 with
      | none =>
        let s := signEvent 0 c.principal false s
        if s.host.ended.contains 0 then
          done cn rq 0x0034 stTxended [] c { s with host := { s.host with ended := s.host.ended.filter (fun x => x != 0) } }
        else done cn rq 0x0034 stNotx [] c s
      | some t =>
        if digest ≠ txDigest 0 t then done cn rq 0x0034 stBadsign [] c (signEvent t.num c.principal false s)
        else if !ed25519Ok c.key (signedBytes digest) sig then
          done cn rq 0x0034 stBadsign [] c (fireSource 5 (signEvent t.num c.principal false s))
        else
          let g : Sig := ⟨c.principal, c.key, c.roles, s.now, sig⟩
          let sigs := t.sigs.filter (fun x => x.principal != c.principal) ++ [g]
          done cn rq 0x0034 stOk [] c (signEvent t.num c.principal true (putTx 0 (some { t with sigs := sigs }) s))

/-- The transaction carries the two signatures that R329 asks for. -/
def signedOk (s : State) (t : Tx) : Bool :=
  t.sigs.any (fun a => t.sigs.any (fun b =>
    a.principal != b.principal && a.key != b.key && creditable a.roles b.roles &&
      decide (s.now < min a.at_ b.at_ + secT 900)))

/-- Bytes as words, four a word, the last one filled with zeros. -/
def packWords (bs : List Byte) : List Word := (List.range ((bs.length + 3) / 4)).map (fun i => wordAt bs (4 * i))

/-- TXSTATUS: number, digest, entries as the digest covers them, and signatures with their principals (R314). DESIGN CHOICE,
log 37. -/
def execTxstatus (cn rq : Nat) (s : State) : Host.Outcome State Fault Refusal :=
  requestNow cn rq 0x0035 1 s fun c s =>
    withTx cn rq 0x0035 roView c s fun t s =>
      done cn rq 0x0035 stOk ([t.num, BitVec.ofNat 32 t.entries.length] ++ packWords (bytesLE 48 (txDigest c.stage t).toNat) ++
        t.entries.flatMap (fun e => [BitVec.ofNat 32 (Entry_kind e), BitVec.ofNat 32 (entryBytes e).length] ++
          packWords (entryBytes e)) ++
        [BitVec.ofNat 32 t.sigs.length] ++
        t.sigs.flatMap (fun g => BitVec.ofNat 32 g.principal :: packWords (bytesLE 64 g.bits.toNat))) c s

/-! ### Commit (R323) -/

/-- The recheck of an image at commit: capacity, access, placement and freezes (R121, R302). -/
def loadRecheck (b f : State) (st : Nat) (bs : List Byte) (released : List Nat) : List LoadErr :=
  let p := loadProg bs
  let g := loadView b f st
  firstGroup [group2 g (progsNow g) st p, group4 g st p, group5 g (progsNow g) (clsCfg g) st p,
    group6 b (progOf b st) p released]

/-- An image goes to the library (R112), which a worn NAND refuses (R418). -/
def nandErrs (s : State) : List LoadErr := errIf s.integ.nandOut 0x1001 0

/-- The checks of one entry at commit. A release is judged by the owner before the transaction's own tag changes (R136). -/
def entryErrs (s b f : State) (st : Nat) (released : List Nat) (e : Entry) : List LoadErr :=
  let own (pts : List Nat) : List LoadErr :=
    (pts.filter (fun pt => !isRelRW pt && ownerOf f pt != st)).map (fieldErr 0x0401)
  match e with
  | .prog bs => holdErrs s ++ nandErrs s ++ loadRecheck b f st bs released
  | .progLib id =>
    if s.progs.lib.any (fun l => l.stage == st && l.imageId == id && copyOk s l) then
      holdErrs s ++ loadRecheck b f st (libBytes s st id) released
    else [imgErr 0x0101]
  | .loopDesc n d => descErrs f st n d none
  | .pwrite ws => own (ws.map (fun x => x.1))
  | .freeze pt _ => own [pt]
  | .release pt => errIf (ownerOf b pt != st) 0x0401 pt
  | .restart _ => holdErrs s
  | .principal num key ps roles => principalErrs b f num key ps roles
  | .liocfg regs => lioErrs regs ++ lioOwnErrs f
  | .tag blk t => errIf (t &&& 0xFF80 != 0) 0x0D01 blk ++ errIf (!tagOk b f blk t released) 0x0D07 blk ++ lioOwnErrs f
  | .stgcfg x ws pub => errIf (!stgWordsOk x ws || pub.any (fun e => decide (2 ^ numStages s ≤ e.2.toNat))) 0x0D01 x
  | .slate scfg cls => slateErrs (loadedSecs s f) f scfg cls
  | .netcfg regs devs _ => netFormatErrs f regs devs
  | .cancfg c regs devs frames => canFormatErrs f c regs devs frames
  | .safepar set => safErrs f set
  | .mslpar _ => []
  | .mslgen _ => []
  | .keypol w0 w1 => keypolErrs f w0 w1
  | .secpol w0 w1 => secpolErrs s w0 w1
  | .reserved _ _ => []

/-- The raw MSLGEN words of a transaction. -/
def genWords (l : List Entry) : List Word := l.filterMap (fun e => match e with
  | .mslgen w => some w
  | _ => none)

/-- The checks that the kinds of a transaction call for as a whole, each with the kinds that call for it. -/
def wholeErrs (s b f : State) (l : List Entry) : List (Nat × LoadErr) :=
  let first (kinds : List Nat) (errs : List LoadErr) : List (Nat × LoadErr) :=
    match l.findIdx? (fun e => kinds.contains (Entry_kind e)) with
    | some i => errs.map (fun x => (i, x))
    | none => []
  first [0x10, 0x11] (stgAllocErrs f ++ stgUseErrs s b f) ++ first [0x15, 0x16, 0x17] (mslErrs f (genWords l)) ++
    first [0x13, 0x16] (netErrs f) ++ first [0x12, 0x14, 0x16] (canErrs f 0 ++ canErrs f 1)

/-- Every check of a commit, with the entry number. -/
def commitErrs (s : State) (st cn : Nat) (t : Tx) : List (Nat × LoadErr) :=
  let b := pendingState s
  let f := futureState s st cn t.num t.entries
  (t.entries.zip (List.range t.entries.length)).flatMap (fun e =>
    (entryErrs s b f st (releasedBy t.entries) e.1).map (fun x => (e.2, x))) ++ wholeErrs s b f t.entries

/-- What identifies a section of a class: its entry, and its instructions with those of its subroutines, each with the ranges
declared for it (R116). -/
def secSig (p : Prog) (k : Nat) : List (Nat × Nat × List (Nat × Nat) × List (Nat × Nat) × List (Word × List (Nat × Nat))) :=
  (p.secs.filter (fun d => d.cls == k)).map (fun d => (d.secno, d.scene, d.rd, d.wr, (secWords p d).map (fun e =>
    (e.2, (p.ranges.filter (fun x => x.1 == e.1)).map (fun x => x.2)))))

/-- The classes that a load touches (R124). -/
def touched (old : Option Prog) (new : Prog) : List Nat :=
  let objs (p : Prog) (k : Nat) : List ObjDef := p.objs.filter (fun o => o.kind != 0 && o.cls == k)
  match old with
  | none => (List.range 4).filter (fun k => !(secSig new k).isEmpty || !(objs new k).isEmpty)
  | some o => (List.range 4).filter (fun k => secSig o k != secSig new k || objs o k != objs new k)

/-- The classes that an entry touches. -/
def entryClasses (s b : State) (st : Nat) (e : Entry) : List Nat :=
  match e with
  | .prog bs => touched (progOf b st) (loadProg bs)
  | .progLib id => touched (progOf b st) (loadProg (libBytes s st id))
  | .restart w =>
    if w.getLsbD 1 then []
    else match progOf b st with
      | some p => touched none p
      | none => []
  | _ => []

/-- The half-periods from now to the first boundary of a commit after `n` of them (R36). -/
def boundaryAfter (s : State) (c : Commit) (n : Nat) : Nat :=
  n + 1 + ((List.range 256).find? (fun i => commitFits s (s.slate.halfcnt + BitVec.ofNat 32 (n + 1 + i)) c)).getD 255

/-- The boundary of a new commit: a load waits for the loads of its stage that wait before it (R124). -/
def commitOffset (s : State) (c : Commit) : Nat :=
  let before := if c.loads then s.host.commits.filter (fun x => x.loads && x.stage == c.stage) else []
  boundaryAfter s c (before.foldl (fun n x => boundaryAfter s x n) 0)

/-- The work of a copy: written and verified, and for a program in force its code in the program store (R112, R378). -/
def copyJobs (s : State) (st n : Nat) (active : Bool) : List KeyJob :=
  (List.replicate (if active then 3 else 2) (splitJobs .gcm (.store ((keyFor s 2 st).getD 0)) n)).flatten

/-- An image enters the library of its stage: one of the same bytes stays as it is, unless it cannot be read and is written
again, one of the same IMAGEID goes unless it is in force, and a commit makes it the active one (R112, R128). The copy is
encrypted under the stage's key in force; without one it is written under no key (R376, R388). -/
def storeImage (st : Nat) (bs : List Byte) (active : Bool) (s : State) : State :=
  let id := (readProg bs).imageId
  let mine (l : LibImage) : Bool := l.stage == st && l.imageId == id
  let old := s.progs.lib.any (fun l => mine l && l.bytes == bs)
  let kept := s.progs.lib.filter (fun l => !mine l || l.bytes == bs || l.inForce)
  let new : List LibImage := if old then [] else [{ stage := st, imageId := id, bytes := bs, active := false, inForce := false
                                                    under := keyWrapped s st, loc := s.progs.nextLoc, writes := 1 }]
  let s := { s with progs := { s.progs with nextLoc := s.progs.nextLoc + b2n (!old), lib := (kept ++ new).map (fun (l : LibImage) =>
      if active && l.stage == st then { l with active := l.bytes == bs } else l) } }
  addJobs true (copyJobs s st bs.length active) (recopy (fun l => mine l && l.bytes == bs && !copyOk s l) s)

/-- The image that a transaction loads. -/
def loadedImage (s : State) (st : Nat) (l : List Entry) : Option (List Byte) := l.findSome? (fun e => match e with
  | .prog bs => some bs
  | .progLib id => some (libBytes s st id)
  | _ => none)

/-- The commit is made: the image to the library as the stage's active one, the commit record, TXOPEN cleared (R112). A
stopped stage is loading, STGSTATE 3, from here to the boundary of its load. DESIGN CHOICE, log 27. -/
def makeCommit (c : Commit) (s : State) : State :=
  let img := loadedImage s c.stage c.entries
  let s := match img with
    | some bs => storeImage c.stage bs true s
    | none => s
  let r := stgRt s c.stage
  let s := if r.state = 0 ∧ c.loads = true then putStg c.stage { r with state := 3 } s else s
  txEvent c.stage c.num true 0 (img.map (fun bs => (readProg bs).imageId))
    (putTx c.stage none { s with host := { s.host with commits := s.host.commits ++ [c] } })

/-- Kinds that do not commit while an update is in progress (R399). -/
def updateBars (e : Entry) : Bool := [0x12, 0x15, 0x16, 0x18].contains (Entry_kind e)

/-- Bytes of the program library (R22). -/
def libMax : Nat := 256 * 1_048_576

/-- Bytes of the library once an image is in it. -/
def libWith (s : State) (st : Nat) (bs : List Byte) : Nat := ((storeImage st bs false s).progs.lib.map (fun l => l.bytes.length)).sum

/-- What keeps an image out of the library at commit (R22, R112, R376): its key, or its room; 0: nothing. DESIGN CHOICE,
log 43. -/
def copyStatus (s : State) (st : Nat) (img : Option (List Byte)) : Nat :=
  match img with
  | none => stOk
  | some bs => if !storageKeyOk s st then stState else if libMax < libWith s st bs then stLimit else stOk

/-- What the transaction stages of the local I/O and its stage may no longer write (R175), entry by entry. DESIGN CHOICE,
log 43. -/
def lioStandErrs (s : State) (st : Nat) (l : List Entry) : List (Nat × LoadErr) :=
  (l.zip (List.range l.length)).flatMap (fun e => match e.1 with
    | .liocfg regs => if regs.all (fun r => lioStage s r.1 == st) then [] else [(e.2, fieldErr 0x0802 0)]
    | _ => [])

/-- What the checks of a commit answer: the status and its words; OK where all pass (R323, R327, R399). -/
def commitVerdict (s : State) (st cn : Nat) (t : Tx) : Nat × List Word :=
  let b := pendingState s
  if s.upd.upd.isSome && t.entries.any updateBars then (stState, [])
  else if st == 0 && t.entries.any (isProtected b) && !(s.host.commissioning && t.svcFree) && !signedOk s t then (stUnsigned, [])
  else
    let errs := commitErrs s st cn t ++ lioStandErrs b st t.entries
    if errs.isEmpty then (stOk, []) else (stRejected, errPay errs)

/-- The commit is made and answered with the HALFCNT of its boundary. -/
def finishCommit (cn rq st : Nat) (t : Tx) (s : State) : State :=
  let m : Commit := { stage := st, num := t.num, cn := cn, sess := sessNo s cn, entries := t.entries, full := t.entries.any needsFull
                      classes := (t.entries.flatMap (entryClasses s (pendingState s) st)).eraseDups }
  endOp cn rq st 0x0032 stOk 0 [s.slate.halfcnt + BitVec.ofNat 32 (commitOffset s m)] (makeCommit m s)

/-- The stage's storage key is being replaced (R380). -/
def swapBusy (s : State) (st : Nat) : Bool := match s.keys.repl with
  | some r => r.kind == 2 && r.owner == st
  | none => false

/-- TXCOMMIT. A commit that writes a copy of a stage whose storage key is being replaced waits for the swap (R380). DEDUCED,
log 43. -/
def execTxcommit (cn rq : Nat) (s : State) : Host.Outcome State Fault Refusal :=
  requestNow cn rq 0x0032 4 s fun c s =>
    withTx cn rq 0x0032 roEngineer c s fun t s =>
      let st := c.stage
      let v := commitVerdict s st cn t
      let img := loadedImage s st t.entries
      let copy := copyStatus s st img
      if v.1 ≠ stOk then done cn rq 0x0032 v.1 v.2 c s
      else if copy ≠ stOk then done cn rq 0x0032 copy [] c s
      else if img.isSome && swapBusy s st then
        { s with host := { s.host with swapWait := s.host.swapWait ++ [(cn, rq, st)] } }
      else finishCommit cn rq st t s

/-- A commit that has waited goes on, if its checks still pass; after an erase its image is written under no key (R388). -/
def heldCommit (e : Nat × Nat × Nat) (s : State) : State :=
  match txOf s e.2.2 with
  | none => endOp e.1 e.2.1 e.2.2 0x0032 stTxended 0 [] s
  | some t =>
    let v := commitVerdict s e.2.2 e.1 t
    if v.1 = stOk then finishCommit e.1 e.2.1 e.2.2 t s else endOp e.1 e.2.1 e.2.2 0x0032 v.1 0 v.2 s

/-- The commits whose swap is over go on, in the order of their requests. -/
def heldCommits (s : State) : State :=
  foldS (s.host.swapWait.filter (fun e => !swapBusy s e.2.2)) heldCommit
    { s with host := { s.host with swapWait := s.host.swapWait.filter (fun e => swapBusy s e.2.2) } }

/-- KEY_REPLACE_DONE: the known-answer operation and, if it passed, the re-encryption are done (R380, R381). -/
def execKeyReplaceDone (kat : Bool) (s : State) : Host.Outcome State Fault Refusal :=
  whenUpAnd s s.keys.repl.isSome fun s =>
    match s.keys.repl with
    | none => s
    | some r =>
      let s := (if kat then swapKey else failKey) r (dropRepl r s)
      let s := if r.kind = 1 then { s with keys := { s.keys with keyloss := !deviceKeyOk s } } else s
      let s := keyEvent r.owner r.kind kat s
      startRepl (heldCommits (if kat && r.kind == 1 then closeSessions s else s))

/-! ### The library (R112, R314) -/

/-- LIBSTORE: the checks of the format group, then the copy. -/
def execLibstore (cn rq : Nat) (image : List Byte) (s : State) : Host.Outcome State Fault Refusal :=
  requestNow cn rq 0x0038 (4 + ceilDiv image.length 4_096) s fun c s =>
    let errs := group1 s c.stage image
    let id := (readProg image).imageId
    if !hasRole c roEngineer then done cn rq 0x0038 stDenied [] c s
    else if s.integ.nandOut then done cn rq 0x0038 stRejected (errPay [(0, fieldErr 0x1001 0)]) c s
    else if !errs.isEmpty then done cn rq 0x0038 stRejected (errPay (errs.map (fun x => (0, x)))) c s
    else if libMax < libWith s c.stage image then done cn rq 0x0038 stLimit [] c s
    else if !storageKeyOk s c.stage ||
        s.progs.lib.any (fun l => l.stage == c.stage && l.imageId == id && (l.active || l.inForce) && l.bytes != image) then
      done cn rq 0x0038 stState [] c s
    else if s.progs.lib.any (fun l => l.stage == c.stage && l.imageId == id && l.bytes == image && copyOk s l) then
      done cn rq 0x0038 stOk [] c s
    else done cn rq 0x0038 stOk [] c (storeImage c.stage image false s)

/-- A commit that waits for its boundary loads this image. -/
def imagePending (s : State) (st : Nat) (id : Word) : Bool :=
  s.host.commits.any (fun c => c.stage == st && c.entries.any (fun e => match e with
    | .prog bs => (readProg bs).imageId == id
    | .progLib x => x == id
    | _ => false))

/-- LIBDEL: one of the stage's images other than its active one. -/
def execLibdel (cn rq : Nat) (imageId : Word) (s : State) : Host.Outcome State Fault Refusal :=
  requestNow cn rq 0x0039 4 s fun c s =>
    let mine (l : LibImage) : Bool := l.stage == c.stage && l.imageId == imageId
    if !hasRole c roEngineer then done cn rq 0x0039 stDenied [] c s
    else if !s.progs.lib.any mine then done cn rq 0x0039 stBadarg [] c s
    else if s.progs.lib.any (fun l => mine l && (l.active || l.inForce)) || imagePending s c.stage imageId then done cn rq 0x0039 stState [] c s
    else done cn rq 0x0039 stOk [] c { s with progs := { s.progs with lib := s.progs.lib.filter (fun l => !mine l) } }

end Sys2Proof.Machine
end

