-- ==== Sys2Proof/Machine/Calendar.lean ====
section
/-! DEFINITION. The calendar converter (R344, R345), alarms (R351 to R355) and the time points (R338). -/

namespace Sys2Proof.Machine
open Sys2Proof

/-! ### The calendar (R344, R345) -/

/-- Counts of a day, and the first count beyond the converter. -/
def daySecs : Nat := 86_400
def calEnd : Nat := 0x2_F060_5980

/-- The Gregorian rule. -/
def isLeap (y : Nat) : Bool := y % 4 == 0 && (y % 100 != 0 || y % 400 == 0)

/-- The lengths of a year's months. -/
def monthLens (y : Nat) : List Nat := [31, if isLeap y then 29 else 28, 31, 30, 31, 30, 31, 31, 30, 31, 30, 31]
def monthLen (y m : Nat) : Nat := (monthLens y).getD (m - 1) 0

/-- Days from 2000-01-01 to the first of January, `k` years after 2000. -/
def yearStart (k : Nat) : Nat := 365 * k + (k + 3) / 4 - (k + 99) / 100 + (k + 399) / 400

/-- A date that exists within the converter's range. -/
def dateOk (y m d : Nat) : Bool :=
  decide (2000 ≤ y) && decide (y ≤ 2399) && decide (1 ≤ m) && decide (m ≤ 12) && decide (1 ≤ d) && decide (d ≤ monthLen y m)

/-- The day number of a date: 0 is 2000-01-01. -/
def dayNo (y m d : Nat) : Nat := yearStart (y - 2000) + ((monthLens y).take (m - 1)).sum + (d - 1)

/-- The month and the day of the month of a day of the year. -/
def splitMonth : List Nat → Nat → Nat → Nat × Nat
  | [], m, d => (m, d + 1)
  | n :: t, m, d => if d < n then (m, d + 1) else splitMonth t (m + 1) (d - n)

/-- Year, month and day of a day number. -/
def dateOf (n : Nat) : Nat × Nat × Nat :=
  let k := if yearStart (n / 365) ≤ n then n / 365 else n / 365 - 1
  let md := splitMonth (monthLens (2000 + k)) 1 (n - yearStart k)
  (2000 + k, md.1, md.2)

/-- 1 for Monday to 7 for Sunday; 2000-01-01 is a Saturday. -/
def weekday (n : Nat) : Nat := (n + 5) % 7 + 1

/-- LDATE or UDATE, and LTIME or UTIME, of a second. -/
def dateWord (n : Nat) : Word :=
  let d := dateOf n
  BitVec.ofNat 32 (d.1 * 65_536 + d.2.1 * 256 + d.2.2)
def timeWord (n t : Nat) : Word :=
  BitVec.ofNat 32 (weekday n * 2 ^ 24 + t / 3_600 * 65_536 + t / 60 % 60 * 256 + t % 60)

/-- A second within the converter's range. -/
def inCal (sec : Int) : Bool := decide (0 ≤ sec) && decide (sec < calEnd)

/-- The pair of points of a set of fields: 0 with VALID clear outside the range. -/
def calPoints (sec : Int) : List PV :=
  if inCal sec then
    let n := sec.toNat
    [⟨dateWord (n / daySecs), qVALID⟩, ⟨timeWord (n / daySecs) (n % daySecs), qVALID⟩]
  else [PV.zero, PV.zero]

/-- UTC and local seconds. -/
def utcSec (s : State) : Int := (s.rtc.count.toNat : Int)
def localSec (s : State) : Int := utcSec s + s.rtc.localOfs * 900

/-- TIMESTAT (P 0x000C). -/
def timestat (s : State) : Word :=
  BitVec.ofNat 32 (b2n s.rtc.osf + b2n (timeUntrusted s) * 2 + b2n s.rtc.ptpLocked * 4 + b2n s.rtc.leap.isSome * 8 +
    b2n s.rtc.repeated * 16 + b2n (!inCal (utcSec s) || !inCal (localSec s)) * 32)

/-- P 0x0004 to P 0x000C from one instant of house time (R338). -/
def timePoints (s : State) : List PV :=
  let h := (houseTime s).toNat
  [sysV (BitVec.ofNat 32 (h / 2 ^ 24)), sysV (BitVec.ofNat 32 (h / 2 ^ 56)), sysV (BitVec.ofNat 32 (h % 2 ^ 24)),
    sysV (BitVec.ofInt 32 s.rtc.localOfs)] ++ calPoints (localSec s) ++ calPoints (utcSec s) ++ [sysV (timestat s)]

/-- The latch of a half-period start. -/
def latchTime (s : State) : State := { s with rtc := { s.rtc with latched := timePoints s } }

/-! ### Alarms (R351 to R355) -/

def alarmOf (s : State) (a : Nat) : Alarm := Table.get Alarm.factory s.rtc.alarms a
def putAlarm (a : Nat) (x : Alarm) (s : State) : State :=
  { s with rtc := { s.rtc with alarms := Table.set Alarm.factory s.rtc.alarms a x } }

def Alarm.pt (x : Alarm) : Nat := bitsOf x.w2 31 16
def Alarm.en (x : Alarm) : Bool := x.w2.getLsbD 15
def Alarm.base (x : Alarm) : Bool := x.w2.getLsbD 14
def Alarm.skiplate (x : Alarm) : Bool := x.w2.getLsbD 13
/-- What an alarm counts starts anew when it becomes enabled (R355). -/
def Alarm.enabling (old new : Alarm) : Alarm :=
  if new.en && !old.en then { new with fired := 0, late := false, rpt := false } else new
def Alarm.again (x : Alarm) : Bool := x.w2.getLsbD 12

/-- A field is ignored, or equal. -/
def Alarm.eqField (x : Alarm) (i want have_ : Nat) : Bool := x.w2.getLsbD i || want == have_

/-- The compared fields of the date, and of the time of day. -/
def Alarm.dayMatch (x : Alarm) (n : Nat) : Bool :=
  let d := dateOf n
  x.eqField 6 (bitsOf x.w0 31 16) d.1 && x.eqField 5 (bitsOf x.w0 15 8) d.2.1 && x.eqField 4 (bitsOf x.w0 7 0) d.2.2 &&
    x.eqField 3 (bitsOf x.w1 31 24) (weekday n)
def Alarm.todMatch (x : Alarm) (t : Nat) : Bool :=
  x.eqField 2 (bitsOf x.w1 23 16) (t / 3_600) && x.eqField 1 (bitsOf x.w1 15 8) (t / 60 % 60) && x.eqField 0 (bitsOf x.w1 7 0) (t % 60)

/-- A second matches; one outside the converter's range never does. -/
def Alarm.hits (x : Alarm) (sec : Int) : Bool :=
  inCal sec && x.dayMatch (sec.toNat / daySecs) && x.todMatch (sec.toNat % daySecs)

/-- Some second of [lo, hi) matches. -/
def Alarm.hitsIn (x : Alarm) (lo hi : Int) : Bool :=
  let a := (max lo 0).toNat
  let b := (min hi calEnd).toNat
  decide (a < b) && (List.range ((b - 1) / daySecs + 1 - a / daySecs)).any (fun i =>
    let n := a / daySecs + i
    x.dayMatch n && (List.range daySecs).any (fun t =>
      x.todMatch t && decide (a ≤ n * daySecs + t) && decide (n * daySecs + t < b)))

/-- The alarm's second (R353). -/
def alarmSec (s : State) (a : Nat) : Int := if (alarmOf s a).base then localSec s else utcSec s

/-- A firing (R354, R355). -/
def fireAlarm (a : Nat) (late rpt : Bool) (s : State) : State :=
  let x := alarmOf s a
  logEv 0x51 2 0 (viewOf 0) 0 (packD [(1, a), (1, b2n late), (1, b2n rpt)])
    (putAlarm a { x with fired := x.fired + 1, late := late, rpt := rpt } s)

/-- An alarm judges the change from its high-water mark to its new second (R353). `fresh`: the change cleared
TIMESTAT [0], so nothing fires late and the mark is the new second. -/
def judgeAlarm (fresh : Bool) (a : Nat) (s : State) : State :=
  let x := alarmOf s a
  let b := alarmSec s a
  let mark (m : Int) (s : State) : State := putAlarm a { alarmOf s a with hw := m } s
  if !x.en then s
  else if b ≤ x.hw then
    let s := if x.hits b && x.again then fireAlarm a false true s else s
    if fresh then mark b s else s
  else
    let s :=
      if x.hits b then fireAlarm a false false s
      else if !fresh && !x.skiplate && x.hitsIn (x.hw + 1) b then fireAlarm a true false s
      else s
    mark b s

def judgeAlarms (fresh : Bool) (s : State) : State := judgeAlarm fresh 1 (judgeAlarm fresh 0 s)

/-- R440: after an outage in which TIMESTAT [0] became set, the marks are the present seconds. -/
def remarkAlarms (s : State) : State := foldS [0, 1] (fun a t => putAlarm a { alarmOf t a with hw := alarmSec t a } t) s

/-- The word of an alarm's point. -/
def Alarm.word (x : Alarm) : Word :=
  x.fired.setWidth 32 ||| BitVec.ofNat 32 (b2n x.late * 2 ^ 16 + b2n x.rpt * 2 ^ 17)

/-- The points of enabled alarms are written at offset 0 of a half-period (R355). -/
def writeAlarms (s : State) : State :=
  foldS [0, 1] (fun a t => if (alarmOf t a).en then enterPt (alarmOf t a).pt (alarmOf t a).word 0x01 t else t) s

/-- The fields of an ALMSET are in range and its reserved bits zero. -/
def almFieldsOk (w0 w1 w2 : Word) : Bool :=
  fieldIn w0 31 16 2000 2399 && fieldIn w0 15 8 1 12 && fieldIn w0 7 0 1 31 && fieldIn w1 31 24 1 7 && fieldIn w1 23 16 0 23 &&
    fieldIn w1 15 8 0 59 && fieldIn w1 7 0 0 59 && zeroIn w2 0x0F80

/-- R352: ALMSET is refused with BADARG. -/
def almBad (s : State) (a : Nat) (w0 w1 w2 : Word) : Bool :=
  let x : Alarm := { Alarm.factory with w0 := w0, w1 := w1, w2 := w2 }
  let o := alarmOf s (1 - a)
  let other : Alarm := match o.pend with
    | some w => { o with w2 := w.2.2 }
    | none => o
  let written := (progsNow s).any (fun p => match p with
    | some p => p.secs.any (fun d => inRanges d.wr x.pt)
    | none => false)
  decide (2 ≤ a) || !almFieldsOk w0 w1 w2 ||
    (x.en && (!(List.range (calEnd / daySecs)).any x.dayMatch ||
      !(decide (8 ≤ blockOf x.pt) && pointExists s x.pt && ownerOf s x.pt == 0))) ||
    written || isLoopOut s x.pt || isMapped s x.pt || other.pt == x.pt

end Sys2Proof.Machine
end

