-- ==== Sys2Proof/Machine/Clock.lean ====
section
/-! DEFINITION. House time (13_time_and_calendar.md): the count and its increments, the time operations, the local
offset, leap seconds, PTP discipline and trust. -/

namespace Sys2Proof.Machine
open Sys2Proof

/-! ### Adjustments (R342, R347, R348, R353) -/

/-- The count of 23:59:59 of a day, the last from which an insertion applies; a deletion's is one less. -/
def lastCount (n : Nat) (insert : Bool) : Nat := n * daySecs + daySecs - 1 - b2n (!insert)

/-- An announcement that the count has passed lapses (R348). DEDUCED, log 44. -/
def lapseLeap (s : State) : State :=
  match s.rtc.leap with
  | none => s
  | some (n, insert) =>
    if lastCount n insert < s.rtc.count.toNat then
      logEv 0x53 4 0 (viewOf 0) 0 (packD [(4, (dateWord n).toNat), (1, b2n (!insert))])
        { s with rtc := { s.rtc with leap := none } }
    else s

/-- The pending hour step applies, or is recorded where it would leave the range (R347). -/
def stepHour (s : State) : State :=
  match s.rtc.dst with
  | none => s
  | some (back, at_) =>
    let v := s.rtc.localOfs + (if back then -4 else 4)
    let s := { s with rtc := { s.rtc with dst := none } }
    if -64 ≤ v ∧ v ≤ 64 then { s with rtc := { s.rtc with localOfs := v } }
    else logEv 0x52 4 0 (viewOf 0) 0 (packD [(1, b2n back), (8, at_)]) s

/-- A set of the count at this instant (R342): the fraction and the prescaler return to 0, and what falls due with
the adjustment follows. `frac` ticks of the new second have passed. DEDUCED, log 44. -/
def setCount (c : BitVec 40) (frac : Nat) (s : State) : State :=
  let old := houseTime s
  let was := s.rtc.count.toNat
  let s := { s with rtc := { s.rtc with
    count := c, incAt := s.now - frac, fracHeld := none, osf := false, repeated := false } }
  let s := logEv 0x50 5 0 viewAll 0 (packD [(8, old.toNat), (8, (houseTime s).toNat)]) s
  let s := match s.rtc.dst with
    | some (_, at_) => if at_ != 0 && decide (was < at_) && decide (at_ ≤ c.toNat) then stepHour s else s
    | none => s
  lapseLeap s

/-- SETSEC and SETCAL apply at once, and the alarms judge the change (R342, R353). DEDUCED, log 44. -/
def setTime (c : BitVec 40) (s : State) : State :=
  let fresh := s.rtc.osf
  judgeAlarms fresh (setCount c 0 s)

/-! ### Trust and PTP (R339, R340, R349, R350) -/

def ptpDisc (s : State) : Bool := s.rtc.timecfg.getLsbD 0
def stepEn (s : State) : Bool := s.rtc.timecfg.getLsbD 1
def reqPtp (s : State) : Bool := s.rtc.timecfg.getLsbD 2
def holdover (s : State) : Nat := secT (60 * bitsOf s.rtc.timecfg 23 16)
def ptpEn (s : State) : Bool := s.eth.ptpcfg.getLsbD 0

/-- No lock at any instant within the last HOLDOVER minutes (R340). -/
def holdoverOver (s : State) : Bool :=
  !s.rtc.ptpLocked && (match s.rtc.lastLock with
    | some t => decide (t + holdover s ≤ s.now)
    | none => true)

/-- TIMESTAT [1] for want of lock is judged anew. -/
def judgeHoldover (s : State) : State := { s with rtc := { s.rtc with holdUntr := reqPtp s && holdoverOver s } }

/-- PTP locks or unlocks. -/
def setLock (b : Bool) (s : State) : State :=
  if b then judgeHoldover { s with rtc := { s.rtc with ptpLocked := true, lastLock := some s.now } }
  else if s.rtc.ptpLocked then
    judgeHoldover { s with rtc := { s.rtc with ptpLocked := false, ptpGood := 0, lastLock := some s.now } }
  else { s with rtc := { s.rtc with ptpGood := 0 } }

/-- HOLDOVER_EXPIRY (R340). -/
def execHoldoverExpiry (s : State) : Host.Outcome State Fault Refusal := whenUp s judgeHoldover

/-- The master's flags set and cancel the announcement for the end of the current UTC day (R350). -/
def ptpLeap (leap61 leap59 : Bool) (s : State) : State :=
  let n := s.rtc.count.toNat / daySecs
  let past := decide (lastCount n leap61 < s.rtc.count.toNat) || s.rtc.repeated
  if leap61 || leap59 then
    if past then s else { s with rtc := { s.rtc with leap := some (n, leap61) } }
  else
    match s.rtc.leap with
    | some (m, _) => if m = n then { s with rtc := { s.rtc with leap := none } } else s
    | none => s

/-- A Sync of PTPCFG's transport and DOMAIN from the master that the best master clock algorithm selects, the one selected
or a better clock (R271). Over UDP the station needs an address (R306). DESIGN CHOICE, log 58: standings compare as numbers. -/
def fromMaster (x : PtpMsg) (s : State) : Bool :=
  ptpEn s && x.udp == !s.eth.ptpcfg.getLsbD 1 && (!x.udp || s.eth.ipAddr.isSome) &&
    x.domain == s.eth.ptpcfg.toNat / 256 % 128 && s.rtc.master.all fun r => decide (x.rank ≤ r)

/-- House time runs on at another rate from here; what has passed of the second stands. -/
def setRate (rate : Int) (s : State) : State :=
  { s with rtc := { s.rtc with
    rate := rate, incAt := s.now - unslewed rate (slewed s.rtc.rate (s.now - s.rtc.incAt)) } }

/-- The slew at a Sync (R350): toward PTP time at a free rate of at most 200 ppm; within 1 microsecond the rate stands. -/
def slewTo (e : Int) (s : State) : State :=
  if e.natAbs < 1_000 then s
  else
    let r := drawIn 1 200_000 s
    setRate (if 0 < e then -(r.1 : Int) else (r.1 : Int)) r.2

/-- PTP_SYNC (R271, R350). A step waits for the next increment; a slew changes only the rate. Each Sync keeps its master
selected, whether it disciplines house time or not. DESIGN CHOICE, log 58. -/
def execPtpSync (x : PtpMsg) (leap61 leap59 : Bool) (tai : Option Nat) (s : State) :
    Host.Outcome State Fault Refusal :=
  whenUpAnd s (fromMaster x s) fun s =>
    let s := { s with rtc := { s.rtc with master := some x.rank, lastSync := some s.now } }
    let s := match tai with
      | some v => { s with rtc := { s.rtc with timecfg := setBits s.rtc.timecfg 15 8 (v % 256) } }
      | none => s
    if !ptpDisc s then s
    else
      let s := ptpLeap leap61 leap59 s
      let m := x.e.natAbs
      let good := if m < 10_000 then min 16 (s.rtc.ptpGood + 1) else 0
      let step := decide (500_000_000 ≤ m) && stepEn s
      let s := { s with rtc := { s.rtc with ptpGood := good, ptpStep := if step then some x.e else none } }
      let s := if step then s else slewTo x.e s
      if good = 16 then setLock true s
      else if 100_000 < m then setLock false s
      else if s.rtc.ptpLocked then { s with rtc := { s.rtc with lastLock := some s.now } } else s

/-- PTP_SYNC_TIMEOUT: no Sync for 10 s unlocks (R350). -/
def execPtpSyncTimeout (s : State) : Host.Outcome State Fault Refusal :=
  let due := match s.rtc.lastSync with
    | some t => decide (t + secT 10 ≤ s.now)
    | none => false
  whenUpAnd s due fun s => setLock false { s with rtc := { s.rtc with master := none } }

/-! ### Increments (R337, R346 to R348, R350, R353, R440) -/

/-- The count moves on by one second, or as an announced leap second makes it (R348). -/
def countOn (s : State) : State :=
  let c := s.rtc.count
  let r := { s.rtc with incAt := s.now, fracHeld := none, repeated := false }
  match s.rtc.leap with
  | some (n, insert) =>
    if c.toNat = lastCount n insert then
      if insert then { s with rtc := { r with leap := none, repeated := true } }
      else { s with rtc := { r with leap := none, count := c + 2 } }
    else { s with rtc := { r with count := c + 1 } }
  | none => { s with rtc := { r with count := c + 1 } }

/-- A PTP step takes house time to PTP time (R350). -/
def stepPtp (s : State) : State :=
  match s.rtc.ptpStep with
  | none => s
  | some e =>
    let ns := max 0 ((s.rtc.count.toNat : Int) * 1_000_000_000 - e)
    setCount (BitVec.ofNat 40 (ns / 1_000_000_000).toNat) ((ns % 1_000_000_000).toNat / 40)
      { s with rtc := { s.rtc with ptpStep := none } }

/-- A SETOFS is written at an increment, before any hour step (R346). -/
def applySetofs (s : State) : State := match s.rtc.pendOfs with
  | some v => { s with rtc := { s.rtc with localOfs := v, pendOfs := none } }
  | none => s

/-- The hour step that is due at an increment (R347). -/
def dueHour (s : State) : State :=
  match s.rtc.dst with
  | some (_, at_) => if at_ = 0 ∨ (at_ ≤ s.rtc.count.toNat ∧ s.rtc.repeated = false) then stepHour s else s
  | none => s

/-- New alarm settings take effect, marked with the second that is ending (R352). -/
def applyAlmset (a : Nat) (s : State) : State :=
  let x := alarmOf s a
  match x.pend with
  | none => s
  | some (w0, w1, w2) =>
    let y : Alarm := x.enabling { x with w0 := w0, w1 := w1, w2 := w2, pend := none }
    putAlarm a { y with hw := if y.base then localSec s else utcSec s } s

/-- RTC_INCREMENT. Without the house firmware only the count moves on, and a repeated second ends with it; with rails down and
the oscillator stopped it stays. -/
def execRtcIncrement (s : State) : Host.Outcome State Fault Refusal :=
  if s.power.mode = .up then
    let s := applyAlmset 1 (applyAlmset 0 s)
    let fresh := s.rtc.osf && s.rtc.ptpStep.isSome
    let s := dueHour (stepPtp (applySetofs (countOn s)))
    if s.rtc.startJump then
      let s := lapseLeap s
      let lost := s.rtc.osfOutage
      let s := { s with rtc := { s.rtc with startJump := false, osfOutage := false } }
      .next (if lost then remarkAlarms s else judgeAlarms fresh s)
    else .next (judgeAlarms fresh s)
  else if s.rtc.vbatLow || (s.power.mode == .down && s.rtc.oscStopped) then .next s
  else .next { s with rtc := { s.rtc with
    count := s.rtc.count + 1, incAt := s.now, fracHeld := none, repeated := false } }

/-- The fraction that has passed, as the prescaler holds it. -/
def fracNow (s : State) : BitVec 24 := (houseTime s).setWidth 24

/-- House time runs on from a held fraction. -/
def resumeFrac (s : State) : State :=
  match s.rtc.fracHeld with
  | some f => { s with rtc := { s.rtc with
      fracHeld := none, incAt := s.now - unslewed s.rtc.rate (ceilDiv (f.toNat * 25_000_000) (2 ^ 24)) } }
  | none => s

/-- OSCILLATOR_STOP (R337, R339). DEDUCED, log 45. -/
def execOscillatorStop (s : State) : Host.Outcome State Fault Refusal :=
  let down := s.power.mode == .down
  .next { s with rtc := { s.rtc with
    osf := true, oscStopped := true, osfOutage := s.rtc.osfOutage || down
    fracHeld := if down && s.rtc.fracHeld.isNone then some (fracNow s) else s.rtc.fracHeld } }

/-- OSCILLATOR_RESTART: the count advances again, or the prescaler is brought into step (R337). -/
def execOscillatorRestart (s : State) : Host.Outcome State Fault Refusal :=
  .next (resumeFrac { s with rtc := { s.rtc with oscStopped := false } })

/-- VBAT_BROWNOUT: VBAT is below 1.7 V with the rails down (R339). -/
def execVbatBrownout (s : State) : Host.Outcome State Fault Refusal :=
  if s.power.mode = .down then
    .next { s with rtc := { s.rtc with osf := true, osfOutage := true, vbatLow := true } }
  else .next s

/-- The domain recovers: the count restarts at 0. DEDUCED, log 45. -/
def recoverRtc (s : State) : State :=
  if s.rtc.vbatLow then
    { s with rtc := { s.rtc with count := 0, incAt := s.now, fracHeld := none, vbatLow := false, repeated := false } }
  else s

/-- VBAT_RESTORE (R339). -/
def execVbatRestore (s : State) : Host.Outcome State Fault Refusal := .next (recoverRtc s)

/-! ### Time operations (R341 to R349, R352) -/

/-- A time operation: of a session of stage 0 with the TIME role. -/
def timeOp (cn rq op : Nat) (s : State) (f : State → Nat × List Word × State) : Host.Outcome State Fault Refusal :=
  requestNow cn rq op 4 s fun c s =>
    if !hasRole c roTime || c.stage != 0 then done cn rq op stDenied [] c s
    else
      let r := f s
      done cn rq op r.1 r.2.1 c r.2.2

/-- A refusal changes nothing. -/
def refuseTime (status : Nat) (s : State) : Nat × List Word × State := (status, [], s)

/-- Host sets stand back while PTP disciplines house time. -/
def ptpOwns (s : State) : Bool := ptpDisc s && s.rtc.ptpLocked

/-- TIMEGET. -/
def execTimeget (cn rq : Nat) (s : State) : Host.Outcome State Fault Refusal :=
  timeOp cn rq 0x0080 s fun s =>
    let h := (houseTime s).toNat
    let dst := match s.rtc.dst with
      | some (back, at_) => [1 + b2n back * 2, at_ % 2 ^ 32, at_ / 2 ^ 32]
      | none => [0, 0, 0]
    let leap := match s.rtc.leap with
      | some (n, insert) => [1 + b2n (!insert) * 2, (dateWord n).toNat]
      | none => [0, 0]
    let w := [h % 2 ^ 32, h / 2 ^ 32].map (BitVec.ofNat 32) ++
      [BitVec.ofInt 32 s.rtc.localOfs, timestat s, s.rtc.timecfg] ++ (dst ++ leap).map (BitVec.ofNat 32) ++
      [0, 1].flatMap (fun a => [(alarmOf s a).w0, (alarmOf s a).w1, (alarmOf s a).w2])
    (stOk, w, s)

/-- SETSEC. -/
def execSetsec (cn rq : Nat) (count : BitVec 40) (s : State) : Host.Outcome State Fault Refusal :=
  timeOp cn rq 0x0081 s fun s => if ptpOwns s then refuseTime stState s else (stOk, [], setTime count s)

/-- SETCAL. -/
def execSetcal (cn rq y mo d hh mi ss base : Nat) (s : State) : Host.Outcome State Fault Refusal :=
  timeOp cn rq 0x0082 s fun s =>
    let sec : Int := dayNo y mo d * daySecs + hh * 3_600 + mi * 60 + ss
    let c := if base = 1 then sec - s.rtc.localOfs * 900 else sec
    let bad := !dateOk y mo d || decide (24 ≤ hh) || decide (60 ≤ mi) || decide (60 ≤ ss) || decide (1 < base) || !inCal c
    if ptpOwns s then refuseTime stState s
    else if bad then refuseTime stBadarg s
    else (stOk, [], setTime (BitVec.ofNat 40 c.toNat) s)

/-- SETOFS waits for the next increment. -/
def execSetofs (cn rq : Nat) (ofs : Int) (s : State) : Host.Outcome State Fault Refusal :=
  timeOp cn rq 0x0083 s fun s =>
    if -64 ≤ ofs ∧ ofs ≤ 64 then (stOk, [], { s with rtc := { s.rtc with pendOfs := some ofs } }) else refuseTime stBadarg s

/-- DSTSTEP; -S has none. -/
def execDststep (cn rq dir at_ : Nat) (s : State) : Host.Outcome State Fault Refusal :=
  timeOp cn rq 0x0084 s fun s =>
    if isS s then refuseTime stUnsupported s
    else if 1 < dir ∨ (at_ ≠ 0 ∧ at_ ≤ s.rtc.count.toNat) then refuseTime stBadarg s
    else (stOk, [], { s with rtc := { s.rtc with dst := some (dir == 1, at_) } })

/-- LEAP: sign 0 inserts, 1 deletes, 2 cancels the announcement. -/
def execLeap (cn rq y mo d sign : Nat) (s : State) : Host.Outcome State Fault Refusal :=
  timeOp cn rq 0x0085 s fun s =>
    let n := dayNo y mo d
    if ptpOwns s then refuseTime stState s
    else if sign = 2 then (stOk, [], { s with rtc := { s.rtc with leap := none } })
    else if 2 < sign ∨ dateOk y mo d = false ∨ d ≠ monthLen y mo ∨ lastCount n (sign == 0) < s.rtc.count.toNat then
      refuseTime stBadarg s
    else (stOk, [], { s with rtc := { s.rtc with leap := some (n, sign == 0) } })

/-- ALMSET takes effect at the next increment. A point that does not exist comes before the right (R313). -/
def execAlmset (cn rq al : Nat) (w0 w1 w2 : Word) (s : State) : Host.Outcome State Fault Refusal :=
  requestNow cn rq 0x0086 4 s fun c s =>
    let st := firstStatus (!pointExists s (bitsOf w2 31 16)) (!hasRole c roTime || c.stage != 0) false false
      (almBad s al w0 w1 w2)
    done cn rq 0x0086 st [] c (if st = stOk then putAlarm al { alarmOf s al with pend := some (w0, w1, w2) } s else s)

/-- A TIMECFG word that may be written (R349). -/
def timecfgOk (s : State) (w : Word) : Bool :=
  zeroIn w 0xFF00_00F8 && fieldIn w 23 16 1 255 && (!w.getLsbD 0 || ptpEn s)

/-- TIMECFG is written. -/
def putTimecfg (w : Word) (s : State) : State :=
  let s := { s with rtc := { s.rtc with timecfg := w } }
  judgeHoldover (if w.getLsbD 0 then s else setLock false { s with rtc := { s.rtc with ptpStep := none } })

/-- TIMECFG. -/
def execTimecfg (cn rq : Nat) (w : Word) (s : State) : Host.Outcome State Fault Refusal :=
  timeOp cn rq 0x0087 s fun s => if timecfgOk s w then (stOk, [], putTimecfg w s) else refuseTime stBadarg s

end Sys2Proof.Machine
end

