-- ==== Sys2Proof/Machine/EcmBits.lean ====
section
/-! DEFINITION. Bit logic, brackets, stores, edges, timers and counters (R87 to R93). -/

namespace Sys2Proof.Machine
open Sys2Proof

/-- A bit-logic operand, inverted or not, enters the chain (R60, R87). -/
def bitLogic (f : Bool → Bool → Bool) (inv : Bool) (w : BitVec 24) : State → SecRun → Except SFault SecRun :=
  onSec fun s r =>
    match readBitOp s r w with
    | .error e => .error e
    | .ok (v, q) => .ok { r with core := r.core.chain f (v != inv) q }

/-- BAND (R87). -/
def execBand (p : Nat) (w : BitVec 24) (s : State) : Host.Outcome State Fault Refusal :=
  ecm 0x10 p w (bitLogic and false w) s

/-- BANDN (R87). -/
def execBandn (p : Nat) (w : BitVec 24) (s : State) : Host.Outcome State Fault Refusal :=
  ecm 0x11 p w (bitLogic and true w) s

/-- BOR (R87). -/
def execBor (p : Nat) (w : BitVec 24) (s : State) : Host.Outcome State Fault Refusal :=
  ecm 0x12 p w (bitLogic or false w) s

/-- BORN (R87). -/
def execBorn (p : Nat) (w : BitVec 24) (s : State) : Host.Outcome State Fault Refusal :=
  ecm 0x13 p w (bitLogic or true w) s

/-- BXOR (R87). -/
def execBxor (p : Nat) (w : BitVec 24) (s : State) : Host.Outcome State Fault Refusal :=
  ecm 0x14 p w (bitLogic xor false w) s

/-- BXORN (R87). -/
def execBxorn (p : Nat) (w : BitVec 24) (s : State) : Host.Outcome State Fault Refusal :=
  ecm 0x15 p w (bitLogic xor true w) s

/-- BNOT (R87): BA inverted in any NC state; BQ stays. -/
def execBnot (p : Nat) (w : BitVec 24) (s : State) : Host.Outcome State Fault Refusal :=
  ecm 0x16 p w (onCore fun c => (c.setBa (!c.ba)).setNc false) s

/-- BA1 (R87). -/
def execBa1 (p : Nat) (w : BitVec 24) (s : State) : Host.Outcome State Fault Refusal :=
  ecm 0x17 p w (onCore fun c => { (c.setBa true).setNc false with bq := 1 }) s

/-- BA0 (R87). -/
def execBa0 (p : Nat) (w : BitVec 24) (s : State) : Host.Outcome State Fault Refusal :=
  ecm 0x18 p w (onCore fun c => { (c.setBa false).setNc false with bq := 1 }) s

/-- BFLG (R87): a flag of STW enters as an AND operand with quality 0x01. -/
def execBflg (p : Nat) (w : BitVec 24) (s : State) : Host.Outcome State Fault Refusal :=
  ecm 0x1E p w (onCore fun c => c.chain and (c.flag (fld w 3 0) != (fld w 4 4 == 1)) 1) s

/-- A push (R61, R88): BA, BQ, NC and the pending operation; a 33rd entry raises STK. -/
def pushBr (op : BitVec 2) : State → SecRun → Except SFault SecRun :=
  onSec fun _ r =>
    if 32 ≤ r.core.br.length then .error fSTK
    else .ok { r with core :=
      { r.core with br := ⟨r.core.ba, r.core.bq, r.core.nc, op⟩ :: r.core.br }.setNc true }

/-- The operation of a pending code: 0 AND, 1 AND-NOT, 2 OR, 3 XOR (R88). -/
def brApply (op : BitVec 2) (popped cur : Bool) : Bool :=
  if op = 0 then popped && cur else if op = 1 then popped && !cur
  else if op = 2 then popped || cur else popped != cur

/-- PUSHA (R88). -/
def execPusha (p : Nat) (w : BitVec 24) (s : State) : Host.Outcome State Fault Refusal :=
  ecm 0x19 p w (pushBr 0) s

/-- PUSHAN (R88). -/
def execPushan (p : Nat) (w : BitVec 24) (s : State) : Host.Outcome State Fault Refusal :=
  ecm 0x1A p w (pushBr 1) s

/-- PUSHO (R88). -/
def execPusho (p : Nat) (w : BitVec 24) (s : State) : Host.Outcome State Fault Refusal :=
  ecm 0x1B p w (pushBr 2) s

/-- PUSHX (R88). -/
def execPushx (p : Nat) (w : BitVec 24) (s : State) : Host.Outcome State Fault Refusal :=
  ecm 0x1C p w (pushBr 3) s

/-- POPC (R61, R88): a popped NC of 1 leaves BA and BQ as they stand. -/
def popBr : State → SecRun → Except SFault SecRun :=
  onSec fun _ r =>
    match r.core.br with
    | [] => .error fSTK
    | e :: t =>
      let c := { r.core with br := t }
      if e.nc then .ok { r with core := c.setNc false }
      else .ok { r with core :=
        { (c.setBa (brApply e.op e.ba c.ba)).setNc false with bq := comb e.bq c.bq } }

/-- POPC (R88). -/
def execPopc (p : Nat) (w : BitVec 24) (s : State) : Host.Outcome State Fault Refusal :=
  ecm 0x1D p w popBr s

/-- A bit store (R89): the operand bit, if any, then NC := 1. -/
def bitStore (v : Core → Option Bool) (w : BitVec 24) : State → SecRun → Except SFault SecRun :=
  onSec fun s r =>
    match writeBitOp s r w (v r.core) with
    | .error e => .error e
    | .ok r' => .ok { r' with core := r'.core.setNc true }

/-- STB (R89): operand bit := BA. -/
def execStb (p : Nat) (w : BitVec 24) (s : State) : Host.Outcome State Fault Refusal :=
  ecm 0x20 p w (bitStore (fun c => some c.ba) w) s

/-- STBN (R89): operand bit := NOT BA. -/
def execStbn (p : Nat) (w : BitVec 24) (s : State) : Host.Outcome State Fault Refusal :=
  ecm 0x21 p w (bitStore (fun c => some (!c.ba)) w) s

/-- SETB (R89): if BA = 1, operand bit := 1. -/
def execSetb (p : Nat) (w : BitVec 24) (s : State) : Host.Outcome State Fault Refusal :=
  ecm 0x22 p w (bitStore (fun c => if c.ba then some true else none) w) s

/-- CLRB (R89): if BA = 1, operand bit := 0. -/
def execClrb (p : Nat) (w : BitVec 24) (s : State) : Host.Outcome State Fault Refusal :=
  ecm 0x23 p w (bitStore (fun c => if c.ba then some false else none) w) s

/-- An edge instruction (R90): `f` of BA and the memory bit becomes BA, and BA becomes the memory bit.
The memory is read from the section's view, a forced bit under a freeze, and written as a bit store; the read raises no UECC.
DESIGN CHOICE, log 65. -/
def edge (f : Bool → Bool → Bool) (w : BitVec 24) : State → SecRun → Except SFault SecRun :=
  onSec fun s r =>
    let m := (viewPV s r (fld w 23 8)).val.getLsbD (fld w 7 3)
    match writeBitOp s r w (some r.core.ba) with
    | .error e => .error e
    | .ok r' => .ok { r' with core := r'.core.setBa (f r.core.ba m) }

/-- RISE (R90). -/
def execRise (p : Nat) (w : BitVec 24) (s : State) : Host.Outcome State Fault Refusal :=
  ecm 0x24 p w (edge (fun ba m => ba && !m) w) s

/-- FALL (R90). -/
def execFall (p : Nat) (w : BitVec 24) (s : State) : Host.Outcome State Fault Refusal :=
  ecm 0x25 p w (edge (fun ba m => !ba && m) w) s

/-! ### Timers (R91, R92) -/

/-- "due" of R92. -/
def Timer.due (t : Timer) (mt : Dword) : Bool := decide (t.s.toNat + 1000 * t.pt.toNat ≤ mt.toNat)

/-- min(PT, us / 1000). -/
def Timer.ms (t : Timer) (us : Nat) : Word := BitVec.ofNat 32 (min t.pt.toNat (us / 1000))

/-- TON's steps (R92). -/
def Timer.stepTON (t : Timer) (mt : Dword) (ba : Bool) : Timer :=
  let t := if !ba then { t with q := false, run := false }
    else if !t.run && !t.q then { t with s := mt, run := true } else t
  if t.run && t.due mt then { t with q := true, run := false } else t

/-- TOF's steps (R92). -/
def Timer.stepTOF (t : Timer) (mt : Dword) (ba : Bool) : Timer :=
  let t := if ba then { t with q := true, run := false, ended := false }
    else if t.q && !t.run && t.i then { t with s := mt, run := true } else t
  if t.run && t.due mt then { t with q := false, run := false, ended := true } else t

/-- TP's steps (R92). -/
def Timer.stepTP (t : Timer) (mt : Dword) (ba : Bool) : Timer :=
  let t := if ba then t else { t with ended := false }
  let t := if ba && !t.i && !t.run && t.pt != 0 then { t with s := mt, run := true, q := true, ended := false } else t
  if t.run && t.due mt then { t with q := false, run := false, ended := true } else t

/-- TONR's steps (R92): S holds the accumulated time while the timer does not run. -/
def Timer.stepTONR (t : Timer) (mt : Dword) (ba : Bool) : Timer :=
  let t := if ba && !t.run then { t with s := mt - t.s, run := true }
    else if !ba && t.run then { t with s := mt - t.s, run := false } else t
  if t.run then (if t.due mt then { t with q := true } else t)
  else if 1000 * t.pt.toNat ≤ t.s.toNat then { t with q := true } else t

/-- TRES's steps (R92). -/
def Timer.stepTRES (t : Timer) (_mt : Dword) (ba : Bool) : Timer :=
  if ba then { t with q := false, run := false, s := 0, ended := false } else t

/-- A slot as an instruction of a kind evaluates it: the end of timing of a TP or a TOF is that of its own kind. TRES, with no
kind, keeps the slot's. -/
def Timer.asKind (kind : Option Nat) (t : Timer) : Timer := match kind with
  | some k => if k = t.kind then t else { t with kind := k, ended := false }
  | none => t

/-- ET after the steps, by the kind of the slot (R92): 0x30 TON, 0x31 TOF, 0x32 TP, 0x33 TONR. `own`: the evaluation is one of
the slot's own kind and no TRES, and a TP or TOF whose timing has ended gives PT. -/
def Timer.etNow (own : Bool) (t : Timer) (mt : Dword) : Word :=
  if t.kind = 0x33 then t.ms (if t.run then (mt - t.s).toNat else t.s.toNat)
  else if t.run then t.ms (mt - t.s).toNat
  else if t.kind = 0x30 && t.q then t.pt
  else if own && t.ended then t.pt
  else 0

/-- An evaluation of a timer slot (R91, R92): PT from WA where PW is 1, the steps, ET, I and the quality.
`kind` is the slot's kind; none for TRES, which keeps it. -/
def evalTimer (kind : Option Nat) (st : Timer → Dword → Bool → Timer) (w : BitVec 24) :
    State → SecRun → Except SFault SecRun :=
  onSec fun s r =>
    let n := fld w 12 0
    let pw := fld w 23 23 == 1
    if !slotFits s r.stage false n then .error fOPC
    else
      let r1 := if pw then r.writePT s n r.core.wa else r
      let mt := (takeOf s r.cls).mt
      let t := st ((timerView s r1 n).asKind kind) mt r.core.ba
      let q := if pw then comb r.core.bq r.core.qa else r.core.bq
      let et := if kind.isNone && r.core.ba then 0 else t.etNow kind.isSome mt
      let r2 := r1.writeTimer n { t with i := r.core.ba, et := et, qual := q }
      .ok { r2 with core := r2.core.setNc true }

/-- TON (R92). -/
def execTon (p : Nat) (w : BitVec 24) (s : State) : Host.Outcome State Fault Refusal :=
  ecm 0x30 p w (evalTimer (some 0x30) Timer.stepTON w) s

/-- TOF (R92). -/
def execTof (p : Nat) (w : BitVec 24) (s : State) : Host.Outcome State Fault Refusal :=
  ecm 0x31 p w (evalTimer (some 0x31) Timer.stepTOF w) s

/-- TP (R92). -/
def execTp (p : Nat) (w : BitVec 24) (s : State) : Host.Outcome State Fault Refusal :=
  ecm 0x32 p w (evalTimer (some 0x32) Timer.stepTP w) s

/-- TONR (R92). -/
def execTonr (p : Nat) (w : BitVec 24) (s : State) : Host.Outcome State Fault Refusal :=
  ecm 0x33 p w (evalTimer (some 0x33) Timer.stepTONR w) s

/-- TRES (R92). -/
def execTres (p : Nat) (w : BitVec 24) (s : State) : Host.Outcome State Fault Refusal :=
  ecm 0x34 p w (evalTimer none Timer.stepTRES w) s

/-! ### Counters (R91, R93) -/

/-- CTU's step: one up on a rising BA, holding at the limit. -/
def Counter.up (c : Counter) (ba : Bool) : Counter :=
  { c with cv := if ba && !c.u then (if c.cv = 0x7FFF_FFFF then c.cv else c.cv + 1) else c.cv, u := ba }

/-- CTD's step. -/
def Counter.down (c : Counter) (ba : Bool) : Counter :=
  { c with cv := if ba && !c.d then (if c.cv = 0x8000_0000 then c.cv else c.cv - 1) else c.cv, d := ba }

/-- CLD's and CRS's steps. -/
def Counter.load (c : Counter) (ba : Bool) : Counter := if ba then { c with cv := c.pv } else c
def Counter.clear (c : Counter) (ba : Bool) : Counter := if ba then { c with cv := 0 } else c

/-- An evaluation of a counter slot (R91, R93): PV from WA where PW is 1, the step, the status bits and the
quality. -/
def evalCounter (st : Counter → Bool → Counter) (w : BitVec 24) : State → SecRun → Except SFault SecRun :=
  onSec fun s r =>
    let n := fld w 12 0
    let pw := fld w 23 23 == 1
    if !slotFits s r.stage true n then .error fOPC
    else
      let r1 := if pw then r.writeSlot s true 1 n r.core.wa else r
      let c := (st (counterView s r1 n) r.core.ba).judge
      let q := if pw then comb r.core.bq r.core.qa else r.core.bq
      let r2 := r1.writeCounter n { c with qual := q }
      .ok { r2 with core := r2.core.setNc true }

/-- CTU (R93). -/
def execCtu (p : Nat) (w : BitVec 24) (s : State) : Host.Outcome State Fault Refusal :=
  ecm 0x38 p w (evalCounter Counter.up w) s

/-- CTD (R93). -/
def execCtd (p : Nat) (w : BitVec 24) (s : State) : Host.Outcome State Fault Refusal :=
  ecm 0x39 p w (evalCounter Counter.down w) s

/-- CLD (R93). -/
def execCld (p : Nat) (w : BitVec 24) (s : State) : Host.Outcome State Fault Refusal :=
  ecm 0x3A p w (evalCounter Counter.load w) s

/-- CRS (R93). -/
def execCrs (p : Nat) (w : BitVec 24) (s : State) : Host.Outcome State Fault Refusal :=
  ecm 0x3B p w (evalCounter Counter.clear w) s

end Sys2Proof.Machine
end

