-- ==== Sys2Proof/Machine/EcmControl.lean ====
section
/-! DEFINITION. Jumps, bounded loops, calls, the end of a section, loop-engine commands, events and the
system instructions (R102 to R110), and the two rows that fault a section: SECTION_BUDGET and
RESERVED_ENCODING (R78, R81). -/

namespace Sys2Proof.Machine
open Sys2Proof

/-- A forward jump (R102, R103): `take` decides, `usesBa` sets NC. A target not beyond the jump itself is a
reserved encoding. -/
def jump (usesBa : Bool) (take : Core → Bool) (w : BitVec 24) : State → SecRun → Except SFault SecRun :=
  fun _ r =>
    let t := fld w 19 0
    if t ≤ r.core.pc.toNat then .error fOPC
    else
      let r' := if usesBa then { r with core := r.core.setNc true } else r
      .ok (if take r.core then r'.goto t else r'.adv)

/-- JMP (R102). -/
def execJmp (p : Nat) (w : BitVec 24) (s : State) : Host.Outcome State Fault Refusal :=
  ecm 0x90 p w (jump false (fun _ => true) w) s

/-- JT (R102). -/
def execJt (p : Nat) (w : BitVec 24) (s : State) : Host.Outcome State Fault Refusal :=
  ecm 0x91 p w (jump true (fun c => c.ba) w) s

/-- JF (R102). -/
def execJf (p : Nat) (w : BitVec 24) (s : State) : Host.Outcome State Fault Refusal :=
  ecm 0x92 p w (jump true (fun c => !c.ba) w) s

/-- JZ (R102). -/
def execJz (p : Nat) (w : BitVec 24) (s : State) : Host.Outcome State Fault Refusal :=
  ecm 0x93 p w (jump false (fun c => c.flag 2) w) s

/-- JNZ (R102). -/
def execJnz (p : Nat) (w : BitVec 24) (s : State) : Host.Outcome State Fault Refusal :=
  ecm 0x94 p w (jump false (fun c => !c.flag 2) w) s

/-- JNEG (R102). -/
def execJneg (p : Nat) (w : BitVec 24) (s : State) : Host.Outcome State Fault Refusal :=
  ecm 0x95 p w (jump false (fun c => c.flag 3) w) s

/-- JPOS (R102). -/
def execJpos (p : Nat) (w : BitVec 24) (s : State) : Host.Outcome State Fault Refusal :=
  ecm 0x96 p w (jump false (fun c => !c.flag 3) w) s

/-- LOOP (R63, R104): the count from WA against the bound B. -/
def loopOpen (w : BitVec 24) : State → SecRun → Except SFault SecRun :=
  fun _ r =>
    let c := r.core.wa.toInt
    let bound : Nat := fld w 23 12 + 1
    let d := fld w 11 0
    let clamp := decide (c < 0) || decide ((bound : Int) < c)
    let n : Nat := if (bound : Int) < c then bound else c.toNat
    let r' := { r with core := r.core.stick 8 clamp }
    if n = 0 then .ok (r'.goto (r.core.pc.toNat + d + 1))
    else if 4 ≤ r.core.lps.length then .error fSTK
    else
      .ok ({ r' with core := { r'.core with
        lps := ⟨BitVec.ofNat 13 n, r.core.pc + 1, r.core.pc.toNat + d⟩ :: r.core.lps } }).adv

/-- ENDL (R104): one iteration less; back to the start while any is left. -/
def loopClose : State → SecRun → Except SFault SecRun :=
  fun _ r =>
    match r.core.lps with
    | [] => .error fSTK
    | e :: t =>
      if e.endl ≠ r.core.pc.toNat then .error fSTK
      else if 1 < e.cnt.toNat then
        .ok { r with core := { r.core with lps := { e with cnt := e.cnt - 1 } :: t, pc := e.start } }
      else .ok ({ r with core := { r.core with lps := t } }).adv

/-- LEXIT and LEXITC (R102, R104). -/
def loopExit (usesBa : Bool) (take : Core → Bool) (w : BitVec 24) : State → SecRun → Except SFault SecRun :=
  fun _ r =>
    let t := fld w 19 0
    if t ≤ r.core.pc.toNat then .error fOPC
    else
      match r.core.lps with
      | [] => .error fSTK
      | _ :: rest =>
        let r' := if usesBa then { r with core := r.core.setNc true } else r
        .ok (if take r.core then ({ r' with core := { r'.core with lps := rest } }).goto t else r'.adv)

/-- CALL (R63, R105). -/
def callSub (w : BitVec 24) : State → SecRun → Except SFault SecRun :=
  fun _ r =>
    if 8 ≤ r.core.calls.length then .error fSTK
    else .ok (({ r with core := { r.core with
      calls := ⟨r.core.pc + 1, r.core.br.length, r.core.lps.length⟩ :: r.core.calls } }).goto (fld w 19 0))

/-- RET and RETC (R105): STK on an empty call stack, whatever BA is; at a return also on another branch depth than the
call's, or with a loop of the subroutine still open. -/
def retSub (usesBa : Bool) (take : Core → Bool) : State → SecRun → Except SFault SecRun :=
  fun _ r =>
    let r' := if usesBa then { r with core := r.core.setNc true } else r
    match r.core.calls with
    | [] => .error fSTK
    | e :: t =>
      if take r.core then
        if e.depth ≠ r.core.br.length ∨ e.lps ≠ r.core.lps.length then .error fSTK
        else .ok { r' with core := { r'.core with calls := t, pc := e.ret } }
      else .ok r'.adv

/-- LOOP (R104). -/
def execLoopOp (p : Nat) (w : BitVec 24) (s : State) : Host.Outcome State Fault Refusal :=
  ecm 0x98 p w (loopOpen w) s

/-- ENDL (R104). -/
def execEndl (p : Nat) (w : BitVec 24) (s : State) : Host.Outcome State Fault Refusal :=
  ecm 0x99 p w loopClose s

/-- LEXIT (R104). -/
def execLexit (p : Nat) (w : BitVec 24) (s : State) : Host.Outcome State Fault Refusal :=
  ecm 0x9A p w (loopExit false (fun _ => true) w) s

/-- LEXITC (R104). -/
def execLexitc (p : Nat) (w : BitVec 24) (s : State) : Host.Outcome State Fault Refusal :=
  ecm 0x9B p w (loopExit true (fun c => c.ba) w) s

/-- CALL (R105). -/
def execCallS (p : Nat) (w : BitVec 24) (s : State) : Host.Outcome State Fault Refusal :=
  ecm 0x9C p w (callSub w) s

/-- RET (R105). -/
def execRet (p : Nat) (w : BitVec 24) (s : State) : Host.Outcome State Fault Refusal :=
  ecm 0x9D p w (retSub false (fun _ => true)) s

/-- RETC (R105). -/
def execRetc (p : Nat) (w : BitVec 24) (s : State) : Host.Outcome State Fault Refusal :=
  ecm 0x9E p w (retSub true (fun c => c.ba)) s

/-- What END judges of its section (R105, R77): its own cycle and the final checkpoint lie within W, and all
stacks are empty. -/
def endFault (w : BitVec 24) (s : State) (r : SecRun) : Option SFault :=
  if codeBad s r then some fUECC
  else if reservedOp 0x9F w then some fOPC
  else if r.w < r.cycles + 5 then some fBUDGET
  else if !r.core.br.isEmpty || !r.core.calls.isEmpty || !r.core.lps.isEmpty then some fSTK
  else none

/-- The section has completed: its buffer waits for the merge at the end of its scene, its pair is free, and
one more execution has completed since its last halt (R57, R110). -/
def completeSection (p : Nat) (r : SecRun) (s : State) : State :=
  let s := putFlt r.stage r.secno (fltOf s r.stage r.secno).tick s
  sceneCheck (freePair p (markSlot r.stage r.secno .done r.buf s))

/-- END (R105). -/
def execEndS (p : Nat) (w : BitVec 24) (s : State) : Host.Outcome State Fault Refusal :=
  match runOf s p with
  | none => .next s
  | some r =>
    match endFault w s r with
    | some e => .next (haltSection p r e s)
    | none => .next (completeSection p r s)

/-- The opcode of the word at the section's PC; 0 where there is none. -/
def opAtPc (s : State) (r : SecRun) : Nat :=
  match progOf s r.stage with
  | none => 0
  | some p => opOf (p.code.getD r.core.pc.toNat 0)

/-- The instruction at the section's PC would bring its count to W without ending it (R78). -/
def budgetDue (s : State) (r : SecRun) : Bool :=
  if opAtPc s r = 0x9F then decide (r.w < r.cycles + 5)
  else decide (r.w ≤ r.cycles + cyclesOf (opAtPc s r))

/-- SECTION_BUDGET (R78): the section has not ended when its count reaches W. DEDUCED, log 24. -/
def execSectionBudget (p : Nat) (s : State) : Host.Outcome State Fault Refusal :=
  match runOf s p with
  | none => .next s
  | some r => if budgetDue s r then .next (haltSection p r fBUDGET s) else .next s

/-- RESERVED_ENCODING (R81): a lane pair executes a word that is a reserved encoding. -/
def execReservedEncoding (p : Nat) (enc : Word) (s : State) : Host.Outcome State Fault Refusal :=
  match runOf s p with
  | none => .next s
  | some r => if reservedWord enc then .next (haltSection p r fOPC s) else .next s

/-! ### Loop-engine commands (R107, R108) -/

/-- A command entry for a loop enters the buffer; a loop not allocated to the stage raises TAGW with the
loop as reference. -/
def loopCommand (f : Core → LoopCmd → LoopCmd) (w : BitVec 24) : State → SecRun → Except SFault SecRun :=
  onSec fun s r =>
    let n := fld w 9 0
    if !ownsLoop s r.stage n then .error ⟨1, 2, n⟩
    else .ok { r with buf := { r.buf with
      cmds := Table.set LoopCmd.none r.buf.cmds n (f r.core (Table.get LoopCmd.none r.buf.cmds n)) } }

/-- LSP (R107). -/
def execLsp (p : Nat) (w : BitVec 24) (s : State) : Host.Outcome State Fault Refusal :=
  ecm 0xB0 p w (loopCommand (fun c e => { e with sp := some (c.wa, c.qa) }) w) s

/-- LMAN (R107). -/
def execLman (p : Nat) (w : BitVec 24) (s : State) : Host.Outcome State Fault Refusal :=
  ecm 0xB1 p w (loopCommand (fun c e => { e with man := some (c.wa, c.qa) }) w) s

/-- LTRK (R107). -/
def execLtrk (p : Nat) (w : BitVec 24) (s : State) : Host.Outcome State Fault Refusal :=
  ecm 0xB2 p w (loopCommand (fun c e => { e with trk := some (c.wa, c.qa) }) w) s

/-- LMODE (R107). -/
def execLmode (p : Nat) (w : BitVec 24) (s : State) : Host.Outcome State Fault Refusal :=
  ecm 0xB3 p w (loopCommand (fun _ e => { e with mode := some (fld w 23 21) }) w) s

/-- A loop value as it stood at the input phase (R107). -/
def loopValue (l : LoopRt) (field : Nat) : Word × Byte :=
  if field = 0 then (l.lastOut.1, l.lastOut.2 &&& 0xF7)
  else if field = 1 then (l.lastSp.1, l.lastSp.2 &&& 0xF7)
  else if field = 2 then (l.lastPv.1, l.lastPv.2 &&& 0xF7)
  else (l.status, 1)

/-- LRD (R107): a loop not allocated to the stage, and an extension (R139), raise TAGR with the loop as reference.
DEDUCED, log 63. -/
def loopRead (w : BitVec 24) : State → SecRun → Except SFault SecRun :=
  onSec fun s r =>
    let n := fld w 9 0
    if !ownsLoop s r.stage n || (loopDesc s n).kind == 2 then .error ⟨2, 2, n⟩
    else
      let v := loopValue (Table.get LoopRt.fresh (takeOf s r.cls).loops n) (fld w 23 21)
      .ok { r with core := { r.core with wa := v.1, qa := v.2 } }

/-- LRD (R107). -/
def execLrd (p : Nat) (w : BitVec 24) (s : State) : Host.Outcome State Fault Refusal :=
  ecm 0xB4 p w (loopRead w) s

/-- EVT (R109): with BA = 1 an event entry; past the sixteenth of an execution it is dropped and counted. -/
def raiseEvent (w : BitVec 24) : State → SecRun → Except SFault SecRun :=
  onSec fun s r =>
    let e : EvEnt := { stage := r.stage, secno := r.secno, sev := fld w 23 21, code := w.setWidth 16
                       wa := r.core.wa, qa := r.core.qa, mt := (takeOf s r.cls).mt }
    let b := if !r.core.ba then r.buf
      else if r.buf.evs.length < 16 then { r.buf with evs := r.buf.evs ++ [e] }
      else { r.buf with dropped := r.buf.dropped ++ [e] }
    .ok { r with core := r.core.setNc true, buf := b }

/-- EVT (R109). -/
def execEvt (p : Nat) (w : BitVec 24) (s : State) : Host.Outcome State Fault Refusal :=
  ecm 0xC0 p w (raiseEvent w) s

/-- A system load (R110): WA with quality 0x01. -/
def sysLoad (f : State → SecRun → Except SFault Word) : State → SecRun → Except SFault SecRun :=
  onSec fun s r =>
    match f s r with
    | .error e => .error e
    | .ok v => .ok { r with core := { r.core with wa := v, qa := 1 } }

/-- NOP (R110). -/
def execNop (p : Nat) (w : BitVec 24) (s : State) : Host.Outcome State Fault Refusal :=
  ecm 0x01 p w (onCore id) s

/-- LMT (R110): MT[31:0]. -/
def execLmt (p : Nat) (w : BitVec 24) (s : State) : Host.Outcome State Fault Refusal :=
  ecm 0xD0 p w (sysLoad fun s r => .ok ((takeOf s r.cls).mt.setWidth 32)) s

/-- LMTH (R110): MT[63:32]. -/
def execLmth (p : Nat) (w : BitVec 24) (s : State) : Host.Outcome State Fault Refusal :=
  ecm 0xD1 p w (sysLoad fun s r => .ok (((takeOf s r.cls).mt >>> 32).setWidth 32)) s

/-- LFLT (R110): the section's fault record. -/
def execLflt (p : Nat) (w : BitVec 24) (s : State) : Host.Outcome State Fault Refusal :=
  ecm 0xD2 p w (sysLoad fun s r =>
    .ok ((fltOf s r.stage r.secno).execs ++ (fltOf s r.stage r.secno).code)) s

/-- LIDX (R110): the top loop count less 1; STK with an empty loop stack. -/
def execLidx (p : Nat) (w : BitVec 24) (s : State) : Host.Outcome State Fault Refusal :=
  ecm 0xD3 p w (sysLoad fun _ r =>
    match r.core.lps with
    | [] => .error fSTK
    | e :: _ => .ok (e.cnt.setWidth 32 - 1)) s

/-- LSTW (R110). -/
def execLstw (p : Nat) (w : BitVec 24) (s : State) : Host.Outcome State Fault Refusal :=
  ecm 0xD4 p w (sysLoad fun _ r => .ok (r.core.stw.setWidth 32)) s

/-- CSTW (R110): the sticky flags whose mask bit is set are cleared. -/
def execCstw (p : Nat) (w : BitVec 24) (s : State) : Host.Outcome State Fault Refusal :=
  ecm 0xD5 p w (onCore fun c => { c with stw := c.stw &&& ~~~(w.setWidth 16 &&& 0x01E0) }) s

end Sys2Proof.Machine
end

