-- ==== Sys2Proof/Machine/EcmWords.lean ====
section
/-! DEFINITION. Word moves, integer, bitwise, binary32 and Q16.16 operations, conversions, compares and the
quality instructions (R94 to R101, R106). -/

namespace Sys2Proof.Machine
open Sys2Proof

/-- LDA (R94). -/
def loadA (w : BitVec 24) : State → SecRun → Except SFault SecRun :=
  onSec fun s r =>
    match readWordOp s r w with
    | .error e => .error e
    | .ok (v, q) => .ok { r with core := { r.core with wa := v, qa := q } }

/-- LDB (R94). -/
def loadB (w : BitVec 24) : State → SecRun → Except SFault SecRun :=
  onSec fun s r =>
    match readWordOp s r w with
    | .error e => .error e
    | .ok (v, q) => .ok { r with core := { r.core with wb := v, qb := q } }

/-- A two-operand result with quality comb(qa, qb) (R94, R97). -/
def two (f : Word → Word → Alu) (c : Core) : Core := c.putAlu (f c.wb c.wa) (comb c.qa c.qb)

/-- A one-operand result with quality qa (R94, R97, R100). -/
def one (f : Word → Alu) (c : Core) : Core := c.putAlu (f c.wa) c.qa

/-- A compare (R101): Z and N, NAN where unordered, and the result as an AND operand of the chain. -/
def cmp (f : Word → Word → Cmp) (c : Core) : Core :=
  let x := f c.wb c.wa
  let c1 := ((c.setFlag 2 x.z).setFlag 3 x.n).stick 7 x.nan
  c1.chain and x.res (if x.nan then comb c.qa c.qb ||| 0x80 else comb c.qa c.qb)

/-- LDA (R94). -/
def execLda (p : Nat) (w : BitVec 24) (s : State) : Host.Outcome State Fault Refusal :=
  ecm 0x40 p w (loadA w) s

/-- STA (R94). -/
def execSta (p : Nat) (w : BitVec 24) (s : State) : Host.Outcome State Fault Refusal :=
  ecm 0x41 p w (onSec fun s r => writeWordOp s r w) s

/-- XAB (R94): the accumulators and their qualities change places. -/
def execXab (p : Nat) (w : BitVec 24) (s : State) : Host.Outcome State Fault Refusal :=
  ecm 0x42 p w (onCore fun c => { c with wa := c.wb, wb := c.wa, qa := c.qb, qb := c.qa }) s

/-- SEL (R94). -/
def execSel (p : Nat) (w : BitVec 24) (s : State) : Host.Outcome State Fault Refusal :=
  ecm 0x43 p w (onCore fun c =>
    { c with wa := if c.ba then c.wb else c.wa, qa := comb (if c.ba then c.qb else c.qa) c.bq }.setNc true) s

/-- ADD (R94, R95). -/
def execAddI (p : Nat) (w : BitVec 24) (s : State) : Host.Outcome State Fault Refusal :=
  ecm 0x44 p w (onCore (two aluAdd)) s

/-- SUB (R94, R95). -/
def execSubI (p : Nat) (w : BitVec 24) (s : State) : Host.Outcome State Fault Refusal :=
  ecm 0x45 p w (onCore (two aluSub)) s

/-- MUL (R94, R95). -/
def execMulI (p : Nat) (w : BitVec 24) (s : State) : Host.Outcome State Fault Refusal :=
  ecm 0x46 p w (onCore (two aluMul)) s

/-- DIV (R94, R95). -/
def execDivI (p : Nat) (w : BitVec 24) (s : State) : Host.Outcome State Fault Refusal :=
  ecm 0x47 p w (onCore (two aluDiv)) s

/-- MOD (R94, R95). -/
def execModI (p : Nat) (w : BitVec 24) (s : State) : Host.Outcome State Fault Refusal :=
  ecm 0x48 p w (onCore (two aluMod)) s

/-- NEG (R94, R95). -/
def execNegI (p : Nat) (w : BitVec 24) (s : State) : Host.Outcome State Fault Refusal :=
  ecm 0x49 p w (onCore (one aluNeg)) s

/-- ABS (R94, R95). -/
def execAbsI (p : Nat) (w : BitVec 24) (s : State) : Host.Outcome State Fault Refusal :=
  ecm 0x4A p w (onCore (one aluAbs)) s

/-- MIN (R94, R95). -/
def execMinI (p : Nat) (w : BitVec 24) (s : State) : Host.Outcome State Fault Refusal :=
  ecm 0x4B p w (onCore (two aluMin)) s

/-- MAX (R94, R95). -/
def execMaxI (p : Nat) (w : BitVec 24) (s : State) : Host.Outcome State Fault Refusal :=
  ecm 0x4C p w (onCore (two aluMax)) s

/-- LDB (R94). -/
def execLdb (p : Nat) (w : BitVec 24) (s : State) : Host.Outcome State Fault Refusal :=
  ecm 0x4D p w (loadB w) s

/-- ANDW (R96). -/
def execAndw (p : Nat) (w : BitVec 24) (s : State) : Host.Outcome State Fault Refusal :=
  ecm 0x50 p w (onCore (two (fun b a => Alu.ofWord (b &&& a)))) s

/-- ORW (R96). -/
def execOrw (p : Nat) (w : BitVec 24) (s : State) : Host.Outcome State Fault Refusal :=
  ecm 0x51 p w (onCore (two (fun b a => Alu.ofWord (b ||| a)))) s

/-- XORW (R96). -/
def execXorw (p : Nat) (w : BitVec 24) (s : State) : Host.Outcome State Fault Refusal :=
  ecm 0x52 p w (onCore (two (fun b a => Alu.ofWord (b ^^^ a)))) s

/-- NOTW (R96). -/
def execNotw (p : Nat) (w : BitVec 24) (s : State) : Host.Outcome State Fault Refusal :=
  ecm 0x53 p w (onCore (one fun a => Alu.ofWord (~~~a))) s

/-- SHL (R96). -/
def execShl (p : Nat) (w : BitVec 24) (s : State) : Host.Outcome State Fault Refusal :=
  ecm 0x54 p w (onCore (one fun a => aluShl a (fld w 4 0))) s

/-- SHR (R96). -/
def execShr (p : Nat) (w : BitVec 24) (s : State) : Host.Outcome State Fault Refusal :=
  ecm 0x55 p w (onCore (one fun a => aluShr a (fld w 4 0))) s

/-- SAR (R96). -/
def execSar (p : Nat) (w : BitVec 24) (s : State) : Host.Outcome State Fault Refusal :=
  ecm 0x56 p w (onCore (one fun a => aluSar a (fld w 4 0))) s

/-- ROL (R96). -/
def execRol (p : Nat) (w : BitVec 24) (s : State) : Host.Outcome State Fault Refusal :=
  ecm 0x57 p w (onCore (one fun a => aluRol a (fld w 4 0))) s

/-- ADDF (R98). -/
def execAddf (p : Nat) (w : BitVec 24) (s : State) : Host.Outcome State Fault Refusal :=
  ecm 0x60 p w (onCore (two aluAddF)) s

/-- SUBF (R98). -/
def execSubf (p : Nat) (w : BitVec 24) (s : State) : Host.Outcome State Fault Refusal :=
  ecm 0x61 p w (onCore (two aluSubF)) s

/-- MULF (R98). -/
def execMulf (p : Nat) (w : BitVec 24) (s : State) : Host.Outcome State Fault Refusal :=
  ecm 0x62 p w (onCore (two aluMulF)) s

/-- DIVF (R98). -/
def execDivf (p : Nat) (w : BitVec 24) (s : State) : Host.Outcome State Fault Refusal :=
  ecm 0x63 p w (onCore (two aluDivF)) s

/-- NEGF (R98). -/
def execNegf (p : Nat) (w : BitVec 24) (s : State) : Host.Outcome State Fault Refusal :=
  ecm 0x64 p w (onCore (one aluNegF)) s

/-- ABSF (R98). -/
def execAbsf (p : Nat) (w : BitVec 24) (s : State) : Host.Outcome State Fault Refusal :=
  ecm 0x65 p w (onCore (one aluAbsF)) s

/-- MINF (R98). -/
def execMinf (p : Nat) (w : BitVec 24) (s : State) : Host.Outcome State Fault Refusal :=
  ecm 0x66 p w (onCore (two aluMinF)) s

/-- MAXF (R98). -/
def execMaxf (p : Nat) (w : BitVec 24) (s : State) : Host.Outcome State Fault Refusal :=
  ecm 0x67 p w (onCore (two aluMaxF)) s

/-- ADDQ (R99). -/
def execAddq (p : Nat) (w : BitVec 24) (s : State) : Host.Outcome State Fault Refusal :=
  ecm 0x68 p w (onCore (two aluAddQ)) s

/-- SUBQ (R99). -/
def execSubq (p : Nat) (w : BitVec 24) (s : State) : Host.Outcome State Fault Refusal :=
  ecm 0x69 p w (onCore (two aluSubQ)) s

/-- MULQ (R99). -/
def execMulq (p : Nat) (w : BitVec 24) (s : State) : Host.Outcome State Fault Refusal :=
  ecm 0x6A p w (onCore (two aluMulQ)) s

/-- DIVQ (R99). -/
def execDivq (p : Nat) (w : BitVec 24) (s : State) : Host.Outcome State Fault Refusal :=
  ecm 0x6B p w (onCore (two aluDivQ)) s

/-- ITF (R100). -/
def execItf (p : Nat) (w : BitVec 24) (s : State) : Host.Outcome State Fault Refusal :=
  ecm 0x70 p w (onCore (one aluItf)) s

/-- FTI (R100). -/
def execFti (p : Nat) (w : BitVec 24) (s : State) : Host.Outcome State Fault Refusal :=
  ecm 0x71 p w (onCore (one aluFti)) s

/-- ITQ (R100). -/
def execItq (p : Nat) (w : BitVec 24) (s : State) : Host.Outcome State Fault Refusal :=
  ecm 0x72 p w (onCore (one aluItq)) s

/-- QTI (R100). -/
def execQti (p : Nat) (w : BitVec 24) (s : State) : Host.Outcome State Fault Refusal :=
  ecm 0x73 p w (onCore (one aluQti)) s

/-- FTQ (R100). -/
def execFtq (p : Nat) (w : BitVec 24) (s : State) : Host.Outcome State Fault Refusal :=
  ecm 0x74 p w (onCore (one aluFtq)) s

/-- QTF (R100). -/
def execQtf (p : Nat) (w : BitVec 24) (s : State) : Host.Outcome State Fault Refusal :=
  ecm 0x75 p w (onCore (one aluQtf)) s

/-- EQI (R101). -/
def execEqi (p : Nat) (w : BitVec 24) (s : State) : Host.Outcome State Fault Refusal :=
  ecm 0x80 p w (onCore (cmp (cmpInt true false false))) s

/-- NEI (R101). -/
def execNei (p : Nat) (w : BitVec 24) (s : State) : Host.Outcome State Fault Refusal :=
  ecm 0x81 p w (onCore (cmp (cmpInt false true true))) s

/-- GTI (R101). -/
def execGti (p : Nat) (w : BitVec 24) (s : State) : Host.Outcome State Fault Refusal :=
  ecm 0x82 p w (onCore (cmp (cmpInt false false true))) s

/-- GEI (R101). -/
def execGei (p : Nat) (w : BitVec 24) (s : State) : Host.Outcome State Fault Refusal :=
  ecm 0x83 p w (onCore (cmp (cmpInt true false true))) s

/-- LTI (R101). -/
def execLti (p : Nat) (w : BitVec 24) (s : State) : Host.Outcome State Fault Refusal :=
  ecm 0x84 p w (onCore (cmp (cmpInt false true false))) s

/-- LEI (R101). -/
def execLei (p : Nat) (w : BitVec 24) (s : State) : Host.Outcome State Fault Refusal :=
  ecm 0x85 p w (onCore (cmp (cmpInt true true false))) s

/-- EQF (R101). -/
def execEqf (p : Nat) (w : BitVec 24) (s : State) : Host.Outcome State Fault Refusal :=
  ecm 0x88 p w (onCore (cmp (cmpFloat true false false false))) s

/-- NEF (R101). -/
def execNef (p : Nat) (w : BitVec 24) (s : State) : Host.Outcome State Fault Refusal :=
  ecm 0x89 p w (onCore (cmp (cmpFloat false true true true))) s

/-- GTF (R101). -/
def execGtf (p : Nat) (w : BitVec 24) (s : State) : Host.Outcome State Fault Refusal :=
  ecm 0x8A p w (onCore (cmp (cmpFloat false false true false))) s

/-- GEF (R101). -/
def execGef (p : Nat) (w : BitVec 24) (s : State) : Host.Outcome State Fault Refusal :=
  ecm 0x8B p w (onCore (cmp (cmpFloat true false true false))) s

/-- LTF (R101). -/
def execLtf (p : Nat) (w : BitVec 24) (s : State) : Host.Outcome State Fault Refusal :=
  ecm 0x8C p w (onCore (cmp (cmpFloat false true false false))) s

/-- LEF (R101). -/
def execLef (p : Nat) (w : BitVec 24) (s : State) : Host.Outcome State Fault Refusal :=
  ecm 0x8D p w (onCore (cmp (cmpFloat true true false false))) s

/-- A quality target changed (R106): 0 BQ, 1 QA, 2 QB. -/
def onQuality (f : Byte → Byte) (w : BitVec 24) (c : Core) : Core :=
  let t := fld w 9 8
  if t = 0 then { c with bq := f c.bq } else if t = 1 then { c with qa := f c.qa } else { c with qb := f c.qb }

/-- QSET (R106). -/
def execQset (p : Nat) (w : BitVec 24) (s : State) : Host.Outcome State Fault Refusal :=
  ecm 0xA0 p w (onCore (onQuality (fun q => q ||| w.setWidth 8) w)) s

/-- QCLR (R106). -/
def execQclr (p : Nat) (w : BitVec 24) (s : State) : Host.Outcome State Fault Refusal :=
  ecm 0xA1 p w (onCore (onQuality (fun q => q &&& ~~~(w.setWidth 8)) w)) s

/-- QGET (R106): the value is set aside in WB, its quality comes into WA. -/
def execQget (p : Nat) (w : BitVec 24) (s : State) : Host.Outcome State Fault Refusal :=
  ecm 0xA2 p w (onCore fun c => { c with wb := c.wa, qb := c.qa, wa := c.qa.setWidth 32, qa := 1 }) s

/-- QPUT (R106). -/
def execQput (p : Nat) (w : BitVec 24) (s : State) : Host.Outcome State Fault Refusal :=
  ecm 0xA3 p w (onCore fun c => { c with wa := c.wb, qa := c.wa.setWidth 8 &&& 0xF7 }) s

end Sys2Proof.Machine
end

