-- ==== Sys2Proof/Machine/Integrity.lean ====
section
/-! DEFINITION. Integrity while the module runs: rotation tests, scrubbing, core checkpoints and lockstep, ageing,
and the NAND reserve (R408 to R426). -/

namespace Sys2Proof.Machine
open Sys2Proof

/-! ### Rotation tests (R412) -/

/-- The double takes the place of a pair that is marginal for the third rotation running. -/
def judgeMarginal (p : Nat) (s : State) : State :=
  let n := Table.get 0 s.integ.marginal p + 1
  let s := predict (1 + p) { s with integ := { s.integ with marginal := Table.set 0 s.integ.marginal p n } }
  if 3 ≤ n && pairsIn s == 9 then retirePair p 2 s else s

/-- The result of a pair's test once its last chunk has run. -/
def judgeRotation (p : Nat) (failN failS : Bool) (s : State) : State :=
  let s := { s with integ := { s.integ with rotFailN := false, rotFailS := false } }
  if failN then retirePair p 1 s
  else if failS then judgeMarginal p s
  else unpredict (1 + p) { s with integ := { s.integ with marginal := Table.set 0 s.integ.marginal p 0 } }

/-- ROTATION_TEST_CHUNK: a chunk on a pair that has no section to run. -/
def execRotationTestChunk (p : Nat) (okNormal okShort final : Bool) (s : State) : Host.Outcome State Fault Refusal :=
  whenUpAnd s (inServicePair s p && (runOf s p).isNone) fun s =>
    let fn := s.integ.rotFailN || !okNormal
    let fs := s.integ.rotFailS || !okShort
    if final then judgeRotation p fn fs s
    else { s with integ := { s.integ with rotFailN := fn, rotFailS := fs } }

/-! ### Scrubbing (R416, R417) -/

/-- The SRAM pass in progress: one in 10 s. -/
def scrubPass (s : State) : Nat := s.now / secT 10

/-- A row is copied to a spare row. -/
def repairRow (row : Nat) (s : State) : State :=
  if s.integ.rowSpare = 0 then s
  else
    let n := s.integ.rowSpare - 1
    let s := { s with integ := { s.integ with rowSpare := n, rowHist := s.integ.rowHist.filter (fun e => e.1 != row) } }
    let s := logEv 0x85 3 0 (viewOf 0) 0 (packD [(2, row), (2, n)]) s
    refreshMod (if n < 42 then predict 10 s else s)

/-- A corrected SRAM word: two words of a row in a pass, or one word in two passes running, repair the row. -/
def correctSram (row word : Nat) (s : State) : State :=
  let pass := scrubPass s
  let hist := s.integ.rowHist.filter (fun e => decide (pass ≤ e.2.2 + 1))
  let hit := hist.any (fun e => e.1 == row &&
    ((e.2.1 != word && e.2.2 == pass) || (e.2.1 == word && e.2.2 + 1 == pass)))
  let new := (row, word, pass)
  let s := { s with integ := { s.integ with
    eccSram := s.integ.eccSram + 1, rowHist := if hist.contains new then hist else new :: hist } }
  if hit then repairRow row s else s

/-- ECCFAIL: the memory (0 SRAM, 1 MRAM), the address as the region counts it, and the region: 0 code, 1 image,
2 buffer, 3 point, 4 loop state, 5 program store, 6 key store, 7 and above configuration. DEDUCED, log 51. -/
def eccRecord (memory address region : Nat) (s : State) : State :=
  logEv 0x84 5 0 (viewOf 0) 0 (packD [(1, memory), (4, address), (1, region)]) s

/-- A point whose value is doubtful: FAULT set and VALID cleared. DEDUCED, log 51. -/
def doubt (v : PV) : PV := ⟨v.val, (v.q ||| qFAULT) &&& ~~~qVALID⟩

/-- What the scrubber found acts (R416, R417). -/
def scrubbed : ScrubFind → State → State
  | .sramCorrected row word, s => correctSram row word s
  | .mramCorrected, s => { s with integ := { s.integ with eccMram := s.integ.eccMram + 1 } }
  | .sectionCode stage pc, s =>
    let s := { s with eng := { s.eng with codeUecc := (stage, pc) :: s.eng.codeUecc } }
    let r := drawIn 0 8_192 (eccRecord 0 pc 0 s)
    repairRow r.1 r.2
  | .imageWord pt, s =>
    let s := { s with points := { s.points with uecc := pt :: s.points.uecc } }
    eccRecord 0 pt 1 (putPoint pt (doubt (Table.get PV.zero s.points.retained pt)) s)
  | .netBuffer, s => eccRecord 0 0 2 s
  | .mramPoint pt sramLost, s =>
    eccRecord 1 pt 3 (if sramLost then putPoint pt (doubt (rawPoint s pt)) s
      else { s with points := { s.points with
        retained := Table.set PV.zero s.points.retained pt ⟨(rawPoint s pt).val, (rawPoint s pt).q &&& 0x01FF⟩ } })
  | .mramLoop n sramLost, s =>
    -- a loop whose stage is in fallback stays under its FBMODE
    let fb := (loopRt s n).saved.isSome
    let cold := coldLoop n s
    eccRecord 1 n 4 (if !sramLost then retainLoop n s else if fb then loopEnterFb n cold else cold)
  | .programStore stage, s =>
    eccRecord 1 stage 5 { s with eng := { s.eng with codeUecc := s.eng.codeUecc.filter (fun e => e.1 != stage) } }
  | .keySlot slot, s =>
    let k := keySlot s slot
    let s := if k.kind = 0 then s else putKey slot { k with st := 2 } s
    let lost := k.kind == 1 && k.st == 0
    eccRecord 1 slot 6 { s with keys := { s.keys with keyloss := s.keys.keyloss || lost } }
  | .configCopy region bothBad, s =>
    eccRecord 1 0 (7 + region) (if bothBad && !s.integ.cfgBad.contains region then
      { s with integ := { s.integ with cfgBad := region :: s.integ.cfgBad } } else s)

/-- SCRUB. DEDUCED, log 51. -/
def execScrub (f : ScrubFind) (s : State) : Host.Outcome State Fault Refusal := whenUp s (scrubbed f)

/-! ### Application cores (R415, R425) -/

/-- CORE_CHECKPOINT: what the cores issued before it is released. DEDUCED, log 12. -/
def execCoreCheckpoint (s : State) : Host.Outcome State Fault Refusal :=
  whenUpAnd s (s.integ.cores != 0) fun s =>
    { s with
      out := s.integ.issued ++ s.out
      integ := { s.integ with issued := [], ckptAt := s.now } }

/-- The two bits of the active pair. -/
def activeCores (s : State) : BitVec 4 := if s.integ.spareActive then 0xC else 0x3

/-- No core pair is left: sessions, discovery, log storage and forwarding stop. DEDUCED, log 54. -/
def coresGone (s : State) : State :=
  { s with
    integ := { s.integ with issued := [] }
    host := { s.host with svcOpen := false, tenants := false, conns := [] } }

/-- CORE_LOCKSTEP_MISMATCH: the spare pair resumes, and the failing pair is retired. -/
def execCoreLockstepMismatch (s : State) : Host.Outcome State Fault Refusal :=
  whenUpAnd s (s.integ.cores != 0) fun s =>
    let pair := b2n s.integ.spareActive
    let left := s.integ.cores &&& ~~~activeCores s
    let s := { s with integ := { s.integ with cores := left, spareActive := !s.integ.spareActive } }
    let s := logEv 0x80 4 0 viewAll 0 (packD [(1, 1), (1, pair), (1, 0), (4, left.toNat)]) s
    if left = 0 then coresGone (refreshMod (closeSessions s))
    else refreshMod (if pair = 0 then predict 12 s else s)

/-! ### Ageing and the NAND reserve (R418, R421, R422) -/

/-- AGEING_MEASURE: the smallest margin of the monitors, Q16.16 %. -/
def execAgeingMeasure (margin : Word) (s : State) : Host.Outcome State Fault Refusal :=
  whenUp s fun s =>
    let s := { s with integ := { s.integ with ageMargin := margin } }
    if margin.toInt < 15 * 65_536 then predict 0 s else unpredict 0 s

/-- NAND_BLOCK_FAIL: a block of the reserve of 3,360 is used. DEDUCED, log 6. -/
def execNandBlockFail (s : State) : Host.Outcome State Fault Refusal :=
  whenUpAnd s (s.integ.nandFree != 0) fun s =>
    let n := s.integ.nandFree - 1
    let s := { s with integ := { s.integ with nandFree := n } }
    let s := if n * 4 < 3_360 then predict 11 s else s
    if n = 0 then logEv 0x86 7 0 (viewOf 0) 0 (packD [(4, 3_360)]) { s with integ := { s.integ with nandOut := true } }
    else s

end Sys2Proof.Machine
end

