-- ==== Sys2Proof/Machine/Update.lean ====
section
/-! DEFINITION. Firmware update (R389 to R400): images and banks, loads, the steps of an update, its proof, commit
and rollback, and the archive units (R367, R393). -/

namespace Sys2Proof.Machine
open Sys2Proof

/-! ### Images (R389 to R392) -/

/-- The size of a bank of a kind. -/
def bankSize (kind : Nat) : Nat := (if kind = 6 then 32 else if kind = 1 ∨ kind = 5 then 4 else 2) * 1_048_576

def bankOf (s : State) (kind : Nat) (b : Bool) : Bank := Table.get Bank.erased s.upd.bank (kind * 2 + b2n b)
def putBank (kind : Nat) (b : Bool) (x : Bank) (s : State) : State :=
  { s with upd := { s.upd with bank := Table.set Bank.erased s.upd.bank (kind * 2 + b2n b) x } }

/-- Bank B of a kind is in service. -/
def inB (s : State) (kind : Nat) : Bool := Table.get false s.upd.inB kind
def putInB (kind : Nat) (b : Bool) (s : State) : State :=
  { s with upd := { s.upd with inB := Table.set false s.upd.inB kind b } }
def floorOf (s : State) (kind : Nat) : Word := Table.get 0 s.upd.floor kind
/-- A bank's image is valid: it was loaded whole, the ROM has not found it bad since, and its EPOCH is not below the floor as it
stands (R391). -/
def bankOk (s : State) (kind : Nat) (b : Bool) : Bool :=
  let x := bankOf s kind b
  x.valid && x.romOk && decide ((floorOf s kind).toNat ≤ x.epoch.toNat)
def standbyBank (s : State) (kind : Nat) : Bank := bankOf s kind (!inB s kind)

/-- The kinds in update order. -/
def imageKinds : List Nat := [1, 2, 3, 4, 5, 6]

/-- The length of the block CRC table, and where the body begins. -/
def imgTable (nblk : Nat) : Nat := ceilDiv (4 * nblk) 4_096 * 4_096
def imgBody (nblk : Nat) : Nat := 0x100 + imgTable nblk
def imgNblk (bs : List Byte) : Nat := getLE bs 0x14 4

/-- The level range of an ACCEPTS entry. -/
def imgAccepts (bs : List Byte) : List (Half × Half) :=
  (List.range 6).map (fun i => (BitVec.ofNat 16 (getLE bs (0x18 + 4 * i) 2), BitVec.ofNat 16 (getLE bs (0x1A + 4 * i) 2)))

/-- Every field of the header is in range for a bank of a kind, and the image fits it. -/
def imgFormatOk (kind : Nat) (bs : List Byte) : Bool :=
  getLE bs 0 4 == 0x4D49_4651 && getLE bs 4 2 == 0x0100 && getLE bs 6 1 == kind && decide (getLE bs 7 1 ≤ 1) &&
    (kind == 4 || kind == 5 || getLE bs 0x0E 2 == 0) && decide (1 ≤ imgNblk bs) && zeroBytes bs 0x60 96 &&
    (imgAccepts bs).getD (kind - 1) (0, 0) == (0, 0) &&
    zeroBytes bs (0x100 + 4 * imgNblk bs) (imgTable (imgNblk bs) - 4 * imgNblk bs) &&
    bs.length == imgBody (imgNblk bs) + 4_096 * imgNblk bs && decide (bs.length ≤ bankSize kind)

/-- Block `i` of the body matches its CRC. -/
def imgBlockOk (bs : List Byte) (i : Nat) : Bool :=
  BitVec.ofNat 32 (getLE bs (0x100 + 4 * i) 4) == crc32c ((bs.drop (imgBody (imgNblk bs) + 4_096 * i)).take 4_096)

/-- The blocks that have arrived whole. -/
def imgArrived (bs : List Byte) : Nat :=
  if bs.length < imgBody (imgNblk bs) then 0 else min (imgNblk bs) ((bs.length - imgBody (imgNblk bs)) / 4_096)

/-- A bank as its bytes describe it. -/
def readImage (bs : List Byte) : Bank :=
  { valid := true, romOk := true, bytes := bs, version := BitVec.ofNat 32 (getLE bs 8 4), provides := BitVec.ofNat 16 (getLE bs 0x0C 2)
    imgfmt := BitVec.ofNat 16 (getLE bs 0x0E 2), epoch := BitVec.ofNat 32 (getLE bs 0x10 4), accepts := imgAccepts bs }

/-- The check of a whole image (R391): 0 valid, 1 format, 2 CRC or hash, 3 signature, 4 epoch. `hashOk`: the
SHA-384 of the body is BODYHASH; `sigOk`: the signature verifies. -/
def imgCheck (s : State) (kind : Nat) (bs : List Byte) (hashOk sigOk : Bool) : Nat :=
  if !imgFormatOk kind bs then 1
  else if !((List.range (imgNblk bs)).all (imgBlockOk bs) && hashOk) then 2
  else if !sigOk then 3
  else if getLE bs 0x10 4 < (floorOf s kind).toNat then 4
  else 0

/-- The image accepts the level that another kind provides; an image without a list, and the entry 0x0000 to
0xFFFF, accept any. -/
def accepts (x : Bank) (ky : Nat) (y : Bank) : Bool :=
  match x.accepts[ky - 1]? with
  | none => true
  | some (lo, hi) => decide (lo.toNat ≤ y.provides.toNat) && decide (y.provides.toNat ≤ hi.toNat)

/-- The first two kinds of a set whose images do not fit (R392). -/
def misfit (set : Nat → Bank) : Option (Nat × Nat) :=
  (imageKinds.flatMap (fun x => imageKinds.map (fun y => (x, y)))).find? (fun e =>
    e.1 != e.2 && !accepts (set e.1) e.2 (set e.2))

def compatible (set : Nat → Bank) : Bool := (misfit set).isNone

/-- The in-service set. -/
def serviceSet (s : State) (kind : Nat) : Bank := bankOf s kind (inB s kind)

/-! ### Requests (R393, R394) -/

/-- An update operation: of a session of stage 0 with the UPDATE role, while the cores hold none locked out but a
custodian (R399). -/
def updateOp (cn rq op len : Nat) (s : State) (f : Conn → State → State) : Host.Outcome State Fault Refusal :=
  requestNow cn rq op (4 + ceilDiv len 4_096) s fun c s =>
    if !hasRole c roUpdate || c.stage != 0 || (s.keys.locked && !custodian c.roles) then done cn rq op stDenied [] c s
    else f c s

/-- The update's state: 0 none, 1 waits for a boundary, 2 is being proven, 3 rolls back; and its step. -/
def updState (s : State) : Nat × Nat :=
  match s.upd.upd with
  | none => (0, 0)
  | some u => (if u.rollback then 3 else if u.activated then 2 else 1, u.cur.getD 0)

/-- UPDSTATUS: for each kind the bank in service, which banks are valid, VERSION, PROVIDES and EPOCH of both, and
the floor; then the state, step and last error. -/
def execUpdstatus (cn rq : Nat) (s : State) : Host.Outcome State Fault Refusal :=
  updateOp cn rq 0x0090 0 s fun c s =>
    let pay : List Word := imageKinds.flatMap (fun k =>
      let a := bankOf s k false
      let b := bankOf s k true
      [BitVec.ofNat 32 (b2n (inB s k) + b2n (bankOk s k false) * 2 ^ 8 + b2n (bankOk s k true) * 2 ^ 9), a.version, b.version,
        a.provides.setWidth 32, b.provides.setWidth 32, a.epoch, b.epoch, floorOf s k]) ++
      [BitVec.ofNat 32 (updState s).1, BitVec.ofNat 32 (updState s).2, BitVec.ofNat 32 s.upd.lastErr]
    done cn rq 0x0090 stOk pay c s

/-- REJECTED with one code. -/
def rejectUpd (cn rq op code secno index ref : Nat) (c : Conn) (s : State) : State :=
  done cn rq op stRejected (errPay [(0, ⟨code, secno, index, ref⟩)]) c { s with upd := { s.upd with lastErr := code } }

/-- The codes of a failed check of an image. -/
def imgCode (check : Nat) : Nat := 0x0F00 + check

/-- A load ends with a failed check: the bank is invalid. A failed signature is a source of the alarm, whatever else fails
(R391). DEDUCED, log 48. -/
def failLoad (cn rq kind check : Nat) (sigBad : Bool) (c : Conn) (s : State) : State :=
  let b := !inB s kind
  let s := putBank kind b { bankOf s kind b with valid := false } { s with upd := { s.upd with load := none } }
  let s := rejectUpd cn rq 0x0091 (imgCode check) 0xFFFF 0xFFFF_FFFF kind c s
  if sigBad then fireSource 5 s else s

/-- The work of an image check: the hash of the body in jobs, and one verification (R378, R379). -/
def checkJobs (bs : List Byte) : List KeyJob :=
  splitJobs .sha .unkeyed (bs.length - imgBody (imgNblk bs)) ++ [⟨.verify, .unkeyed, none⟩]

/-- A part of an image is written into the standby bank. DEDUCED, log 48. -/
def loadPart (cn rq kind : Nat) (bytes : List Byte) (last hashOk sigOk : Bool) (c : Conn) (s : State) : State :=
  let b := !inB s kind
  let bs := (bankOf s kind b).bytes ++ bytes
  let s := putBank kind b { Bank.erased with bytes := bs } { s with upd := { s.upd with load := some (kind, bs.length) } }
  if bankSize kind < bs.length then failLoad cn rq kind 1 false c s
  else if !((List.range (imgArrived bs)).all (imgBlockOk bs)) then failLoad cn rq kind 2 (last && imgFormatOk kind bs && !sigOk) c s
  else if last then
    let s := addJobs true (checkJobs bs) s
    match imgCheck s kind bs hashOk sigOk with
    | 0 => done cn rq 0x0091 stOk [] c (putBank kind b (readImage bs) { s with upd := { s.upd with load := none } })
    | n => failLoad cn rq kind n (n != 1 && !sigOk) c s
  else done cn rq 0x0091 stOk [] c s

/-- UPDLOAD (R394, R418): the first part erases the bank, and parts follow one another without gaps. DESIGN CHOICE, log 3. -/
def execUpdload (cn rq kind off : Nat) (bytes : List Byte) (last hashOk sigOk : Bool) (s : State) :
    Host.Outcome State Fault Refusal :=
  updateOp cn rq 0x0091 (8 + bytes.length) s fun c s =>
    if kind = 0 ∨ 6 < kind then done cn rq 0x0091 stBadarg [] c s
    else if s.upd.upd.isSome then done cn rq 0x0091 stState [] c s
    else if off ≠ 0 ∧ s.upd.load ≠ some (kind, off) then done cn rq 0x0091 stBadarg [] c s
    else if s.integ.nandOut then rejectUpd cn rq 0x0091 0x1001 0xFFFF 0xFFFF_FFFF kind c s
    else
      let s := if off = 0 then putBank kind (!inB s kind) Bank.erased s else s
      loadPart cn rq kind bytes last hashOk sigOk c s

/-! ### Starting an update (R395) -/

/-- The kinds of a mask in ascending order. -/
def maskKinds (m : BitVec 6) : List Nat := imageKinds.filter (fun k => m.getLsbD (k - 1))

/-- The set after the first steps of a list. -/
def setAfter (s : State) (steps : List Nat) (kind : Nat) : Bank :=
  if steps.contains kind then standbyBank s kind else serviceSet s kind

/-- The step with which an image changes the format of retained state. -/
def changesFmt (s : State) (kind : Nat) : Bool :=
  (kind == 4 || kind == 5) && (standbyBank s kind).imgfmt != (serviceSet s kind).imgfmt

/-- A safety function is in stand-in. -/
def anyStandin (s : State) : Bool := (List.range 8).any (fun f => (sfOf s f).si)

/-- The first failing code of UPDSTART: its code, step and the kinds x and y; 0: none. -/
def startErr (s : State) (w : Word) : Nat × Nat × Nat × Nat :=
  let ks := maskKinds (w.setWidth 6)
  let bad := (List.range ks.length).findSome? (fun j =>
    (misfit (setAfter s (ks.take (j + 1)))).map (fun e => (j + 1, e.1, e.2)))
  if ks.isEmpty || ks.any (fun k => !bankOk s k (!inB s k)) then (0x0F06, 0xFFFF, 0xFFFF_FFFF, 0)
  else
    match bad with
    | some (j, x, y) => (0x0F05, j, x, y)
    | none =>
      if (!w.getLsbD 8 && (ks.contains 2 || ks.contains 3)) || (!w.getLsbD 9 && ks.any (changesFmt s)) then
        (0x0F09, 0xFFFF, 0xFFFF_FFFF, 0)
      else if s.upd.upd.isSome || !s.host.commits.isEmpty || anyStandin s then (0x0F0A, 0xFFFF, 0xFFFF_FFFF, 0)
      else (0, 0, 0, 0)

/-- UPDSTART. -/
def execUpdstart (cn rq : Nat) (w : Word) (s : State) : Host.Outcome State Fault Refusal :=
  updateOp cn rq 0x0092 4 s fun c s =>
    let win := bitsOf w 31 20
    if !zeroIn w 0x000F_F8C0 || (win != 0 && (decide (win < 30) || decide (3_600 < win))) then done cn rq 0x0092 stBadarg [] c s
    else
      let e := startErr s w
      if e.1 ≠ 0 then rejectUpd cn rq 0x0092 e.1 e.2.1 e.2.2.1 e.2.2.2 c s
      else
        let ks := maskKinds (w.setWidth 6)
        let new : Upd :=
          { mask := w.setWidth 6, steps := ks.tail, doneSteps := [], cur := ks.head?, activated := false, activatedAt := 0
            autoconf := w.getLsbD 10, proofwin := if win = 0 then 300 else win, checked := false, spoilt := false
            rollback := false, code := 0, bursts := 0, takes := 0, cn := cn
            startSet := ks.map (fun k => (k, inB s k)), failed := 0 }
        done cn rq 0x0092 stOk [] c { s with upd := { s.upd with upd := some new } }

/-! ### Activation (R396) -/

def putUpd (u : Option Upd) (s : State) : State := { s with upd := { s.upd with upd := u } }

/-- Every stage makes a forced cold restart (R396, R398, R442). -/
def forceCold (s : State) : State :=
  foldS ((List.range 32).filter (stageRuns s)) (startProgram (.cold true)) s

/-- What switching a kind to an image does to the service. -/
def switchKind (kind : Nat) (x : Bank) (s : State) : State :=
  if kind = 2 ∨ kind = 3 then mslRestart (driveOutputs (pairRestart s))
  else if kind = 4 then
    if x.imgfmt = s.upd.fmt4 then s else forceCold { s with upd := { s.upd with fmt4 := x.imgfmt } }
  else if kind = 5 then
    if x.imgfmt = s.upd.fmt5 then s else forceCold { s with upd := { s.upd with fmt5 := x.imgfmt } }
  else if kind = 6 then
    -- the cores are up again within 2.5 s (R407), at an instant that the manual leaves open
    let r := drawIn 1 62_500_000 (closeSessions s)
    { r.2 with
      host := { r.2.host with svcOpen := false, tenants := false, conns := [] }
      power := { r.2.power with goodAt := s.now + r.1 } }
  else s

/-- The step in progress activates at a full boundary; a reversal returns its kind to its previous bank. -/
def activateStep (s : State) : State :=
  match s.upd.upd with
  | none => s
  | some u =>
    match u.cur with
    | none => s
    | some k =>
      if u.activated then s
      else
        let s := if u.rollback then putInB k (((u.startSet.find? (fun e => e.1 == k)).map (fun e => e.2)).getD (inB s k)) s else s
        let s := putUpd (some { u with
          activated := true, activatedAt := s.now, checked := false, spoilt := false, bursts := 0, takes := 0 }) s
        switchKind k (if u.rollback then serviceSet s k else standbyBank s k) s

/-! ### Proof, commit and rollback (R396 to R398) -/

/-- The step's proof as far as the state shows it; what it does not show is the event's own verdict. -/
def proofMet (s : State) (u : Upd) (k : Nat) : Bool :=
  if k = 1 then decide (256 ≤ u.bursts)
  else if k = 2 ∨ k = 3 then pairRuns s && setsVerified s && s.saf.diag && decide (1_000 ≤ s.saf.agree)
  else if k = 4 ∨ k = 5 then decide (200 ≤ u.takes) && !u.spoilt
  else u.checked && u.autoconf

/-- A step or the completion is recorded: the step's kind, 0 for the completion. -/
def stepRecord (k : Nat) (s : State) : State := logEv 0x70 3 0 viewAll 0 (packD [(1, k)]) s

/-- The session that started the update hears of a commit. -/
def notifyStep (cn k : Nat) (s : State) : State := notify cn 0x0092 0 stOk false [BitVec.ofNat 32 k] s

/-- A rollback ends: UPDFAIL with the failing step, its code and the kinds reversed. `cause`: 1 a restart. -/
def failRecord (step code cause : Nat) (kinds : List Nat) (s : State) : State :=
  logEv 0x71 5 0 (viewOf 0) 0 (packD [(2, code), (1, step), (1, kinds.foldl (fun m k => m + 2 ^ (k - 1)) 0), (1, cause)])
    { s with upd := { s.upd with lastErr := code, upd := none } }

/-- The kinds that a rollback reverses, in descending order: those activated. -/
def reversed (u : Upd) : List Nat := (maskKinds u.mask).reverse.filter (fun k => u.doneSteps.contains k)

/-- A step meets its proof. DEDUCED, log 48. -/
def commitStep (u : Upd) (k : Nat) (s : State) : State :=
  if u.rollback then
    match u.steps with
    | [] => failRecord u.failed u.code 0 (reversed u) s
    | n :: rest => putUpd (some { u with steps := rest, cur := some n, activated := false }) s
  else
    let e := (standbyBank s k).epoch
    let s := putInB k (!inB s k) s
    let s := { s with upd := { s.upd with
      floor := Table.set 0 s.upd.floor k (if (floorOf s k).toNat < e.toNat then e else floorOf s k) } }
    let s := notifyStep u.cn k (stepRecord k s)
    match u.steps with
    | [] => stepRecord 0 (putUpd none { s with upd := { s.upd with lastErr := 0 } })
    | n :: rest =>
      putUpd (some { u with steps := rest, cur := some n, activated := false, doneSteps := u.doneSteps ++ [k] }) s

/-- A step fails: it and every committed step roll back in descending order. A reversal that fails restarts the
module (R398). -/
def failStep (code : Nat) (s : State) : State :=
  match s.upd.upd with
  | none => s
  | some u =>
    let k := u.cur.getD 0
    if u.rollback then { s with upd := { s.upd with restartAt := some s.now } }
    else
      let doneSteps := u.doneSteps ++ (if u.activated then [k] else [])
      match (maskKinds u.mask).reverse.filter (fun x => doneSteps.contains x) with
      | [] => failRecord k code 0 [] s
      | n :: rest =>
        putUpd (some { u with
          rollback := true, code := code, steps := rest, cur := some n, activated := false, doneSteps := doneSteps
          failed := k }) s

/-- UPDATE_STEP_PROVEN: the built-in checks of the step have passed, or have failed (R396 to R398). Before its
activation a failure is one of the transfer. -/
def execUpdateStepProven (met : Bool) (s : State) : Host.Outcome State Fault Refusal :=
  whenUp s fun s =>
    match s.upd.upd with
    | none => s
    | some u =>
      match u.cur with
      | none => s
      | some k =>
        if !u.activated then (if met then s else failStep 0x0F08 s)
        else if !met then failStep 0x0F07 s
        else
          let u := { u with checked := true }
          if proofMet s u k then commitStep u k s else putUpd (some u) s

/-- The window in which a step has to meet its proof; kinds 4 and 5 have none. -/
def proofWindow (u : Upd) (k : Nat) : Option Nat :=
  if k ≤ 3 then some (secT 10) else if k = 6 then some (secT u.proofwin) else none

/-- UPDATE_PROOF_TIMEOUT. -/
def execUpdateProofTimeout (s : State) : Host.Outcome State Fault Refusal :=
  let due := match s.upd.upd with
    | some u => match u.cur with
      | some k => u.activated && (match proofWindow u k with
        | some w => decide (u.activatedAt + w ≤ s.now)
        | none => false)
      | none => false
    | none => false
  whenUpAnd s due (failStep 0x0F07)

/-- A class 0 take has passed: the proof of kinds 4 and 5 counts it, or has failed (R396). -/
def countProofTake (s : State) : State :=
  match s.upd.upd with
  | none => s
  | some u =>
    if u.activated && (u.cur == some 4 || u.cur == some 5) then
      if u.spoilt then failStep 0x0F07 s else putUpd (some { u with takes := u.takes + 1 }) s
    else s

/-- UPDCONFIRM: the house firmware step is proven once its self checks have passed. -/
def execUpdconfirm (cn rq : Nat) (s : State) : Host.Outcome State Fault Refusal :=
  updateOp cn rq 0x0093 0 s fun c s =>
    match s.upd.upd with
    | some u =>
      if u.activated && u.cur == some 6 && u.checked then done cn rq 0x0093 stOk [] c (commitStep u 6 s)
      else done cn rq 0x0093 stState [] c s
    | none => done cn rq 0x0093 stState [] c s

/-- UPDABORT: the step in progress fails. -/
def execUpdabort (cn rq : Nat) (s : State) : Host.Outcome State Fault Refusal :=
  updateOp cn rq 0x0094 0 s fun c s =>
    match s.upd.upd with
    | some u =>
      if u.rollback then done cn rq 0x0094 stState [] c s
      else done cn rq 0x0094 stOk [] c (failStep (if u.activated then 0x0F07 else 0x0F08) s)
    | none => done cn rq 0x0094 stState [] c s

/-- UPDRECOVER: a restart into recovery 1 s after the answer. -/
def execUpdrecover (cn rq : Nat) (s : State) : Host.Outcome State Fault Refusal :=
  updateOp cn rq 0x0095 0 s fun c s =>
    done cn rq 0x0095 stOk [] c { s with upd := { s.upd with recover := true, restartAt := some (s.now + secT 1) } }

/-- ARCHEXPORT: one unit of 2,048 records, counted from the oldest of the archive (R367). -/
def execArchexport (cn rq unit : Nat) (s : State) : Host.Outcome State Fault Refusal :=
  updateOp cn rq 0x0096 4 s fun c s =>
    let recs := (s.log.archive.drop (2_048 * unit)).take 2_048
    if recs.isEmpty then done cn rq 0x0096 stBadarg [] c s
    else
      let bs := recs.flatMap Rec.bytes
      done cn rq 0x0096 stOk ((List.range (bs.length / 4)).map (fun i => BitVec.ofNat 32 (getLE bs (4 * i) 4))) c s

end Sys2Proof.Machine
end

