-- ==== Sys2Proof/Machine/Takes.lean ====
section
/-! DEFINITION. Takes: the half-period starts with their boundaries and input phases, the hand-off phases and the
output phases (R34 to R51, R124, R130, R137, R317, R424, R438). -/

namespace Sys2Proof.Machine
open Sys2Proof

/-! ### The start of a half-period -/

/-- The ride-through time of the dip in progress is over: no take starts from here (R430, R431, R52). -/
def failDue (s : State) : Bool := match s.power.dip with
  | some (t, d) => decide (t + d ≤ s.now)
  | none => false

/-- The half-period that ends leaves nothing open: a burst that never came is missed, windows close, what the scrubber
marked has been rewritten, and at the end of a take whose output phase completed the image is the retained one (R9, R43, R173,
R417). DEDUCED, log 66. -/
def endHalf (s : State) : State :=
  let j := s.bar.judged
  let s := sendDevs (foldS [1, 2, 3, 4] closeWindow s)
  let s := if s.bar.burstDone then s else missedDeadline s
  let ends := (List.range 4).any (fun k => (takeOf s k).active && lastHalfOf s s.slate.halfcnt k && (takeOf s k).out)
  { s with
    bar := { s.bar with
      judged := Table.set none j 4 (Table.get none s.bar.outTx 4)
      outTx := Table.set none s.bar.outTx 4 none }
    points := { s.points with uecc := [], retained := if ends then s.points.pts else s.points.retained }
    eng := { s.eng with codeUecc := [] } }

/-- The field side latches every local input, and the burst of the latch is to come (R170). -/
def startBurst (s : State) : State :=
  fieldLatch { s with bar := { s.bar with burst := [], burstDone := false, satBurst := [] } }

/-- The classes whose takes begin at this half-period start. -/
def beginning (s : State) : List Nat := (classesOn s).filter (beginsTake s s.slate.halfcnt)

/-- Fallback as requested, and the return to program control (R17, R47). No stage leaves it while no pair serves
(R425). -/
def fallbackPhase (s : State) : State :=
  foldS (List.range 32) (fun st t =>
    let r := stgRt t st
    if r.state = 2 then
      if r.fbClear && pairsIn t != 0 && r.ovc.all (fun e => decide (e.2 < ovlim t st)) then leaveFallback 0 st t else t
    else if r.state = 1 && r.fallback then enterFallback 0 st t
    else t) s

/-- The placement of every class (R39, R424); a class that does not fit keeps the one it has. DESIGN CHOICE, log 22. -/
def placeAll (s : State) : State :=
  let at8 := placements 8 (progsNow s) (clsCfg s)
  let now := placements (placePairs s) (progsNow s) (clsCfg s)
  let old := s.progs.place
  let new := (List.range 4).foldl (fun t k =>
    Table.set [] t k (((now.getD k none).orElse (fun _ => at8.getD k none)).getD (Table.get [] old k))) []
  { s with progs := { s.progs with place := new } }

/-- The boundary's changes, and the placement where programs or classes changed (R36, R124, R137). DEDUCED, log 23. -/
def boundaryPhase (s : State) : State :=
  let t := boundary (heldCommits s)
  if t.progs.prog = s.progs.prog ∧ t.slate.cls = s.slate.cls then t else placeAll t

/-- When the scenes of a class and of those before it end in a half-period of its take, in ns from offset 24. -/
def halfEnd (s : State) (k h : Nat) : Nat :=
  ((List.range (k + 1)).map (fun k' =>
    if (clsCfg s k').en then
      halfNs (placePairs s) (progsNow s) k' (Table.get [] s.progs.place k') (h % 2 ^ (clsCfg s k').n)
    else 0)).sum

/-- The half-periods of a stage that fail the reduced check, classes first (R424). -/
def failingHalves (s : State) (st : Nat) : List (Nat × Nat) :=
  (classesOn s).flatMap (fun k => ((List.range (2 ^ (clsCfg s k).n)).filter (fun h =>
    (Table.get [] s.progs.place k).any (fun e => e.2 == h && !(sceneSecs s k e.1 st).isEmpty) &&
      decide (roomNs (clsCfg s k) h < halfEnd s k h))).map (fun h => (k, h)))

/-- The check of every loaded stage after a retirement below eight pairs: PLACEDEG for each that fails (R424). -/
def placeCheck (s : State) : State :=
  if s.integ.placeCheck then
    foldS (List.range 32) (fun st t =>
      match failingHalves t st with
      | [] => t
      | (k, h) :: rest =>
        logEv 0x87 5 0 (viewHouse st) 0
          (packD [(1, st), (1, k), (1, h), (4, ceilDiv (halfEnd t k h) 1_000), (2, rest.length + 1)]) t)
      { s with integ := { s.integ with placeCheck := false } }
  else s

/-- What waits for a full boundary besides commits. -/
def fullPhase (s : State) : State :=
  if fullBoundary s s.slate.halfcnt then placeCheck (activateStep s) else s

/-! ### Single operations (R130, R317) -/

/-- The home class of a point begins a take here. -/
def homeBegins (s : State) (pt : Nat) : Bool := (beginning s).contains (homeClass s pt)

/-- A single operation ends; the answer of a session that has ended is dropped (R311). One that no request made is no
operation in flight. -/
def answerOp (cn rq st op status : Nat) (s : State) : State := if rq = noCn then s else endOp cn rq st op status 0 [] s

/-- A freeze or release takes effect if its stage still owns the block (R129); a write waits its turn. -/
def freezeOp (o : HostOp) (s : State) : State :=
  match o with
  | .freeze cn rq st sess pt v =>
    if !homeBegins s pt then postOp o s
    else if ownerOf s pt != st then answerOp cn rq st 0x0020 stDenied s
    else answerOp cn rq st 0x0020 stOk (freezePt st pt v sess s)
  | .release cn rq st sess pt =>
    if !homeBegins s pt then postOp o s
    else if ownerOf s pt != st then answerOp cn rq st 0x0021 stDenied s
    else answerOp cn rq st 0x0021 stOk (releasePt [] st pt sess s)
  | .write _ _ _ _ => postOp o s

/-- The points of a write whose home classes begin a take here are written; it is answered with the last. -/
def writeOp (o : HostOp) (s : State) : State :=
  match o with
  | .write cn rq st ws =>
    let now := ws.filter (fun e => homeBegins s e.1)
    let later := ws.filter (fun e => !homeBegins s e.1)
    let s := foldS now (hostWrite st) s
    if later.isEmpty then answerOp cn rq st 0x0011 stOk s else postOp (.write cn rq st later) s
  | _ => postOp o s

/-- Single freezes and releases in arrival order, then writes. DEDUCED, log 23. -/
def opsPhase (s : State) : State :=
  let go (f : HostOp → State → State) (t : State) : State :=
    foldS t.progs.ops f { t with progs := { t.progs with ops := [] } }
  go writeOp (go freezeOp s)

/-! ### The input phase -/

/-- The request bits of a function's request point, and those of requests by hosts (R212). -/
def reqBits (s : State) : BitVec 24 :=
  let hosts := s.saf.hostReq.filter (fun e => decide (s.now < e.2.2))
  BitVec.ofNat 24 ((List.range 24).foldl (fun a i =>
    let f := i / 3
    let pt := (fnCfg s f).reqpt
    let prog := pt != 0 && (readNow s (ownerOf s pt) pt).val.getLsbD (i % 3)
    a + b2n (prog || hosts.any (fun e => e.1 == f && e.2.1 == i % 3)) * 2 ^ i) 0)

/-- The bits whose last request came of a host (R212, R221): a bit that is 1 names its source anew. -/
def reqSources (s : State) : BitVec 24 :=
  let now := reqBits s
  BitVec.ofNat 24 ((List.range 24).foldl (fun a i =>
    let host := s.saf.hostReq.any (fun e => e.1 == i / 3 && e.2.1 == i % 3 && decide (s.now < e.2.2))
    a + b2n (if now.getLsbD i then host else s.saf.reqSrc.getLsbD i) * 2 ^ i) 0)

/-- The core reads the request bits (R212). -/
def requestPhase (s : State) : State :=
  { s with saf := { s.saf with
      reqTx := reqBits s, reqSrc := reqSources s, hostReq := s.saf.hostReq.filter (fun e => decide (s.now < e.2.2)) } }

/-- What enters the image at a half-period start, from networks and the module itself (R37, R38, R338, R355). -/
def inputs (s : State) : State :=
  let s := fieldInput (undelivered s)
  let s := foldS ((List.range 2).filter (fun c => (beginning s).contains (canOf s c).cls)) canInput s
  writeAlarms (latchTime (mslStatPoints s))

/-- A take of a class begins with the image as it stands (R38). -/
def beginTake (k : Nat) (s : State) : State :=
  let old := takeOf s k
  putTake k { old with
    active := true, startHalf := s.slate.halfcnt, mt := mtNow s, snap := s.points.pts, sys := snapSys s
    loops := s.loops.rt, merged := [], stage := [], place := Table.get [] s.progs.place k, doneScenes := []
    firstTake := !old.active, handed := false, out := false } s

/-- The takes of the classes that begin; a class that is off has none. -/
def takesPhase (s : State) : State :=
  let s := foldS ((List.range 4).filter (fun k => !(clsCfg s k).en && (takeOf s k).active)) (fun k t =>
    putTake k { takeOf t k with active := false } t) s
  foldS (beginning s) beginTake s

/-- RECUTNOW reads 1 in the take of the recut only (R17). DEDUCED, log 23. -/
def clearRecut (s : State) : State :=
  foldS ((List.range 32).filter (fun st => (stgRt s st).recutNow)) (fun st t =>
    putStg st { stgRt t st with recutNow := false } t) s

/-- The boundaries and the input phase at the start of a half-period. -/
def halfStartPhase (s : State) : State :=
  let s := startBurst s
  let s := if (beginning s).isEmpty then s else fallbackPhase (clearRecut s)
  let s := inputs (opsPhase (fullPhase (boundaryPhase s)))
  let s := compareSubs (prepWindows (takesPhase (requestPhase s)))
  let s := if (beginning s).isEmpty then s else startDevs s
  { s with power := { s.power with mtLast := mtNow s } }

/-- HALF_PERIOD_START: offset 0 of a half-period, ph 0 or ph 2048, at the end of the half-period in progress (R25). -/
def execHalfPeriodStart (s : State) : Host.Outcome State Fault Refusal :=
  whenUpAnd s (s.slate.started && !failDue s && decide (halfDue s ≤ s.now)) fun s => halfStartPhase (beginHalf (endHalf s))

/-! ### Hand-off (R40, R45, R168, R173, R438) -/

/-- A stage's outputs are those of fallback from this take's output phase on (R46). -/
def fallbackNow (s : State) (k st : Nat) : Bool :=
  (stgRt s st).state == 2 || ((stgRt s st).state == 1 &&
    (Table.get StageTake.fresh (takeOf s k).stage st).ovr && decide (ovlim s st ≤ Table.get 0 (stgRt s st).ovc k))

/-- The fallback value of a point of an output object: 0 where none is configured. -/
def fallbackVal (s : State) (pt : Nat) : Option Word :=
  match objOf s pt with
  | some o => if o.kind = 2 then some ((o.fallback.getD []).getD (pt - o.first) 0) else none
  | none => none

/-- The class of a local output's object; none where it lies in no output object (R176). DEDUCED, log 26. -/
def outObjClass (s : State) (pt : Nat) : Option Nat :=
  match objOf s pt with
  | some o => if o.kind = 2 then some o.cls else none
  | none => none

/-- The class with whose takes a local output goes; 5 for the loop engine's. -/
def outClass (s : State) (pt : Nat) : Nat := if isLoopOut s pt then 5 else (outObjClass s pt).getD 0

/-- The value of a local output at a hand-off; none where its stage hands nothing off. A channel in no output
object is held off (R176). DEDUCED, log 26. -/
def handOffVal (s : State) (k st pt : Nat) : Option Word :=
  if (outObjClass s pt).isNone then some 0
  else
  let v : Option Word :=
    if fallbackNow s k st && (fallbackVal s pt).isSome then fallbackVal s pt
    else if (Table.get StageTake.fresh (takeOf s k).stage st).ovr then none
    else match Table.get none (mergedOf s k st).pts pt with
      | some e => some e.1
      | none => some (rawPoint s pt).val
  match frozen s pt with
  | some w => v.map (fun _ => w)
  | none => v

/-- A channel of a complete command outside the class: as it stands, or off before its first take since the start. -/
def standing (s : State) (pt : Nat) : Word :=
  let k := outClass s pt
  if k = 5 then (if s.loops.open_ then outValue s pt else 0)
  else if (outObjClass s pt).isNone then 0
  else if s.bar.handed.contains k then outValue s pt else 0

/-- The OUTCMD of a class's hand-off. DEDUCED, log 26. -/
def classCmd (k : Nat) (s : State) : OutCmd :=
  let complete := s.bar.ret == .sendFull || s.bar.startFull
  let c := localOuts.foldl (fun (c : OutCmd) pt =>
    match (if outClass s pt = k then handOffVal s k (lioOwner s) pt else none) with
    | some v => c.setOut pt v
    | none => if complete then c.setOut pt (standing s pt) else c) (OutCmd.empty s.slate.halfcnt (clsCfg s k).outph)
  { c with complete := complete }

/-- The underlying value of a remote output at a hand-off (R40, R46): its stage's fallback value, what its stage wrote in the
take, or the value that stands. -/
def remoteUnder (s : State) (k st pt : Nat) : Word :=
  match (if fallbackNow s k st then fallbackVal s pt else none) with
  | some v => v
  | none => match Table.get none (mergedOf s k st).pts pt with
    | some e => e.1
    | none => (rawPoint s pt).val

/-- The value that a CAN frame takes of it: the forced one under a freeze (R133). A device's request takes the forced value
when it is formed (R134, R275). -/
def remoteVal (s : State) (k st pt : Nat) : Word := (frozen s pt).getD (remoteUnder s k st pt)

/-- A stage hands off nothing in a take that it overran, unless it is in fallback (R40, R45, R46). -/
def outputsStand (s : State) (k st : Nat) : Bool :=
  (Table.get StageTake.fresh (takeOf s k).stage st).ovr && !fallbackNow s k st

/-- The remote outputs of a take go to the transmit buffers (R40). -/
def handOffRemote (k : Nat) (s : State) : State :=
  let s := handOffDevs k (outputsStand s k) (remoteUnder s k) s
  foldS ((List.range 2).filter (fun c => (canOf s c).cls == k)) (fun c t =>
    handOffCan c (outputsStand t k) (remoteVal t k) t) s

/-- HAND_OFF_PHASE: at offset OUTPH - 8 stages that have not completed overrun, and the outputs are handed off: local ones
to the field side, remote ones to the transmit buffers (R37, R40, R45). -/
def execHandOffPhase (k : Nat) (s : State) : Host.Outcome State Fault Refusal :=
  whenUpAnd s ((takeOf s k).active && lastHalfOf s s.slate.halfcnt k && !(takeOf s k).handed &&
      offsetNow s + 8 == (clsCfg s k).outph) fun s =>
    let s := handOffRemote k (deadline k s)
    let c := classCmd k s
    let some_ := c.complete || c.doMask != 0 || c.aoMask != 0
    let ovr := (Table.get StageTake.fresh (takeOf s k).stage (lioOwner s)).ovr
    let s := { s with bar := { s.bar with
      outTx := Table.set none s.bar.outTx k (if some_ then some (c, false) else none)
      handed := if ovr || s.bar.handed.contains k then s.bar.handed else k :: s.bar.handed } }
    putTake k { takeOf s k with handed := true } s

/-! ### Output (R38, R41, R44 to R47, R57) -/

/-- One merged write of a stage is published (R38, R68). In fallback its output objects are not the program's. -/
def publishPt (st : Nat) (fb : Bool) (e : Nat × Option (Word × Byte)) (s : State) : State :=
  match e.2 with
  | none => s
  | some (v, c) =>
    if isRelRW e.1 then writeStageReq st v s
    else if fb && (fallbackVal s e.1).isSome then s
    else putPoint e.1 ⟨v, storeQual (rawPoint s e.1).q c⟩ s

def putTimer (n : Nat) (t : Timer) (s : State) : State :=
  { s with eng := { s.eng with timers := Table.set Timer.zero s.eng.timers n t } }
def putCounter (n : Nat) (c : Counter) (s : State) : State :=
  { s with eng := { s.eng with counters := Table.set Counter.fresh s.eng.counters n c } }

/-- The writes of a stage whose take of the class completes: points, slots, and loop commands unless it is in
fallback (R57, R108). -/
def publishStage (k st : Nat) (s : State) : State :=
  let b := mergedOf s k st
  let fb := (stgRt s st).state == 2
  let s := foldS b.pts (publishPt st fb) s
  let s := foldS b.tmr (fun e t => match e.2 with
    | some x => putTimer (tmrFirst t st + e.1) x t
    | none => t) s
  let s := foldS b.ctr (fun e t => match e.2 with
    | some x => putCounter (ctrFirst t st + e.1) x t
    | none => t) s
  let s := if fb then s else foldS b.cmds (fun e => loopCommands e.1 e.2) s
  putStg st { stgRt s st with ovc := Table.set 0 (stgRt s st).ovc k 0 } s

/-- The output objects of a stage in fallback are written with their fallback values (R46). -/
def writeFallback (k st : Nat) (s : State) : State :=
  match progOf s st with
  | none => s
  | some p =>
    foldS (p.objs.filter (fun o => o.kind == 2 && o.cls == k)) (fun o t =>
      foldS (List.range o.count) (fun i u =>
        let pt := o.first + i
        putPoint pt ⟨(o.fallback.getD []).getD i 0, storeQual (rawPoint u pt).q 0x01⟩ u) t) s

/-- One stage at an output phase of a class; from here its loops are those of fallback if it is (R46, R157). -/
def stageOutput (k st : Nat) (s : State) : State :=
  let ovr := (Table.get StageTake.fresh (takeOf s k).stage st).ovr
  let s := if ovr && fallbackNow s k st then enterFallback k st s else s
  let s := if ovr then s else publishStage k st s
  let s := if (stgRt s st).state = 2 then foldS (stageLoops s st) loopEnterFb (writeFallback k st s) else s
  let r := stgRt s st
  if r.clrovr then putStg st { r with clrovr := false, ovc := [] } s else s

/-- The class 0 output phase also closes the windows, opens the loop engine, and counts in an update's proof (R43,
R159, R396). -/
def classZero (s : State) : State :=
  let s := sendDevs (foldS [1, 2, 3, 4] closeWindow s)
  countProofTake { s with loops := { s.loops with open_ := true } }

/-- OUTPUT_PHASE: at offset OUTPH the take's writes are published, and its outputs go out (R37). -/
def execOutputPhase (k : Nat) (s : State) : Host.Outcome State Fault Refusal :=
  whenUpAnd s (outputDue s k && offsetNow s == (clsCfg s k).outph) fun s =>
    let s := foldS ((List.range 32).filter (stageRuns s)) (stageOutput k) s
    let s := putTake k { takeOf s k with takecnt := (takeOf s k).takecnt + 1, out := true } s
    let s := { s with bar := { s.bar with
      judged := Table.set none s.bar.judged k (Table.get none s.bar.outTx k)
      phased := if s.bar.phased.contains k then s.bar.phased else k :: s.bar.phased
      outTx := Table.set none s.bar.outTx k none } }
    let s := releaseDevs k s
    let s := foldS ((List.range 2).filter (fun c => (canOf s c).cls == k)) canOutput s
    let s := if k = 0 then classZero s else s
    { s with points := { s.points with retained := s.points.pts } }

end Sys2Proof.Machine
end

