-- ==== Sys2Proof/Machine/Power.lean ====
section
/-! DEFINITION. The supply while the module runs, the power-fail sequence, and the reset sources (R427 to R435). -/

namespace Sys2Proof.Machine
open Sys2Proof

/-! ### Dips (R430) -/

/-- The ride-through time of a dip that begins now. DEDUCED, log 52. -/
def rideTime (s : State) : Nat := match s.power.lastDipEnd with
  | some t => if t + secT 1 ≤ s.now then msT 10 else msT 2
  | none => msT 10

/-- DIP_START: VIN falls below 18.0 V. DEDUCED, log 52. -/
def execDipStart (vin : Word) (s : State) : Host.Outcome State Fault Refusal :=
  if s.power.mode ≠ .down ∧ s.power.dip.isNone ∧ vin.toNat < 18_000 then
    .next { s with power := { s.power with vin := vin, lowVin := vin, dip := some (s.now, rideTime s) } }
  else .next s

/-- DIP_END: VIN returns to 18.5 V or more within D. -/
def execDipEnd (vin : Word) (s : State) : Host.Outcome State Fault Refusal :=
  match s.power.dip with
  | some (t, d) =>
    if s.power.mode ≠ .down ∧ 18_500 ≤ vin.toNat ∧ s.now < t + d then
      let s := { s with power := { s.power with vin := vin, dip := none, lastDipEnd := some s.now } }
      .next (logEv 0x92 4 0 (viewOf 0) 0 (packD [(4, (s.now - t) / 25_000), (4, s.power.lowVin.toNat)]) s)
    else .next s
  | none => .next s

/-! ### The sequence before a reset (R431, R433) -/

/-- Every output is off: DO, AO and the safety outputs; the CAN transmit lines are recessive (R431 step 2). -/
def outputsOff (s : State) : State :=
  let s := foldS [0, 1] canOff (driveOutputs (pairRestart s))
  { s with field := { s.field with dout := [], ao := [], pend := [] } }

/-- MT at an instant (R439). -/
def mtAtTick (s : State) (t : Nat) : Dword := s.power.mtBase + BitVec.ofNat 64 ((t - s.power.mtAt) / 25)

/-- The PWRFAIL record (R444): the lowest VIN, D, and the step reached at the previous stop. -/
def pwrfailDetail (s : State) : List Byte :=
  packD [(4, s.power.lowVin.toNat), (2, match s.power.dip with
    | some (_, d) => d / 25_000
    | none => 0), (1, s.power.stepReached)]

/-- A record stamped at an instant. -/
def atTick (t : Nat) (f : State → State) (s : State) : State := { f { s with now := t } with now := s.now }

/-- Steps 1 to 5 of R431, with power fail at the instant `t`: a running module records MT and A, and stores its
records. Without a core pair the record waits for the next start. -/
def stopSteps (t : Nat) (s : State) : State :=
  if s.power.mode = .up then
    let s := { s with power := { s.power with
      mtTpf := some (mtAtTick s t), aTpf := t * 32_768 / 25_000_000, tpf := some t } }
    let d := pwrfailDetail s
    let reached := if s.integ.cores = 0 then 3 else 5
    let s := atTick t (logEv 0x91 5 0 viewAll 0 d) s
    { s with power := { s.power with stepReached := reached } }
  else s

/-- Step 6 returns the boot counter to its value from before this start unless service had opened. -/
def restoreBoot (s : State) : State :=
  if s.upd.bootCnt = 0 then s else { s with upd := { s.upd with bootCnt := s.upd.bootPrev } }

/-- The module is held in reset: what is not retained ends with it, and the loops' states are those of their last
completed evaluations (R152). -/
def goDown (cause : Nat) (s : State) : State :=
  let s := outputsOff s
  { s with
    power := { s.power with mode := .down, pfw := true, cause := cause }
    slate := { s.slate with started := false }
    takes := []
    eng := { s.eng with run := [], scene := none, slots := [], waiting := [] }
    loops := { s.loops with open_ := false, rt := keptLoops s, due := s.loops.keptDue }
    integ := { s.integ with issued := [] }
    host := { s.host with svcOpen := false, tenants := false, conns := [] }
    upd := { s.upd with sess := none, restartAt := none }
    keys := { s.keys with root := none, kek := none, working := none }
    rtc := { setRate 0 s |>.rtc with fracHeld := if s.rtc.oscStopped && s.rtc.fracHeld.isNone then some (fracNow s) else s.rtc.fracHeld } }

def auxOff (s : State) : State := { s with power := { s.power with aux := false, auxOffAt := none } }

/-- The whole sequence. -/
def stopSequence (cause t : Nat) (s : State) : State :=
  let s := restoreBoot (stopSteps t s)
  let s := { s with power := { s.power with stepReached := if s.power.stepReached = 5 then 6 else s.power.stepReached } }
  goDown cause s

/-- POWER_FAIL: the dip has outlasted D (R430). DEDUCED, log 52. -/
def execPowerFail (s : State) : Host.Outcome State Fault Refusal :=
  match s.power.dip with
  | some (t, d) =>
    if s.power.mode ≠ .down ∧ t + d ≤ s.now then .next (auxOff (stopSequence 2 (t + d) s)) else .next s
  | none => .next s

/-- RSTN_ASSERT: RSTN is low for at least 10 microseconds: the sequence runs with tpf at the assertion (R434, R435).
AUX3V3 stays on while RSTN holds the module (R428). -/
def execRstnAssert (s : State) : Host.Outcome State Fault Refusal :=
  let t := { s with power := { s.power with rstn := false } }
  if s.power.mode = .down then .next t else .next (stopSequence 3 s.now t)

/-- BOOT_WATCHDOG: service has not opened within 10 s of power-good (R401, R434). Nothing runs before this reset. DEDUCED, log 54. -/
def execBootWatchdog (s : State) : Host.Outcome State Fault Refusal :=
  whenUpAnd s (s.upd.bootCnt != 0 && decide (s.power.goodAt + secT 10 ≤ s.now)) fun s =>
    goDown 4 { s with power := { s.power with mtTpf := none, tpf := none } }

/-- SWRESET: the restart of an UPDRECOVER, a recovery ACTIVATE or a failed reversal: steps 1 to 5 (R434). -/
def execSwreset (s : State) : Host.Outcome State Fault Refusal :=
  let due := match s.upd.restartAt with
    | some t => decide (t ≤ s.now)
    | none => false
  if s.power.mode ≠ .down ∧ due = true then .next (goDown 5 (stopSteps s.now s)) else .next s

/-! ### AUX3V3 (R428) -/

/-- AUX_OVERLOAD: the switch turns off; the onset is recorded with the current at the trip, which lies within the
limit. -/
def execAuxOverload (s : State) : Host.Outcome State Fault Refusal :=
  if s.power.aux then
    let first := !s.power.auxFault
    let s := { s with power := { s.power with aux := false, auxOffAt := some s.now, auxFault := true } }
    if first ∧ s.power.mode = .up then
      let r := drawIn 600 301 s
      .next (logEv 0x93 4 0 (viewOf 0) 0 (packD [(2, r.1)]) r.2)
    else .next s
  else .next s

/-- AUX_RETRY: the switch tries again after 100 ms; `over`: the overload is still there. -/
def execAuxRetry (ovr : Bool) (s : State) : Host.Outcome State Fault Refusal :=
  let due := match s.power.auxOffAt with
    | some t => decide (t + msT 100 ≤ s.now)
    | none => false
  if due = true then
    .next { s with power :=
      if ovr then { s.power with auxOffAt := some s.now }
      else { s.power with aux := true, auxOffAt := none, auxFault := false } }
  else .next s

end Sys2Proof.Machine
end

