-- ==== Sys2Proof/Machine/Recovery.lean ====
section
/-! DEFINITION. The ROM's recovery protocol (R403 to R406). -/

namespace Sys2Proof.Machine
open Sys2Proof

/-- The status codes of R406. -/
def rcOk : Nat := 0
def rcBadmsg : Nat := 1
def rcOrder : Nat := 2
def rcFormat : Nat := 3
def rcIncompat : Nat := 7
def rcNoimage : Nat := 8
def rcNand : Nat := 9
def rcBusy : Nat := 10

/-- A response: the operation with bit 7 set, and the sequence of the request. -/
def respond (host op status : Nat) (sq : Half) (off : Nat) (pay : List Byte) (s : State) : State :=
  emit (.recovery host (op + 128) status sq.toNat off pay) s

/-- What happens only in recovery. -/
def whenRecovery (s : State) (f : State → State) : Host.Outcome State Fault Refusal :=
  if s.power.mode = .recovery then .next (f s) else .next s

/-- RECOVERY_QUERY: ROM, variant, cause, boot counter, station address and the banks, to any host. -/
def execRecoveryQuery (host : Nat) (sq : Half) (s : State) : Host.Outcome State Fault Refusal :=
  whenRecovery s fun s =>
    let kinds := imageKinds.flatMap (fun k =>
      [BitVec.ofNat 8 (b2n (inB s k)), BitVec.ofNat 8 (b2n (bankOk s k false) + 2 * b2n (bankOk s k true)), 0, 0] ++
      bytesLE 4 (bankOf s k false).version.toNat ++ bytesLE 4 (bankOf s k true).version.toNat ++
      bytesLE 4 (floorOf s k).toNat)
    respond host 1 rcOk sq 0 (bytesLE 4 Config.romVersion.toNat ++
      [s.variant, BitVec.ofNat 8 (s.upd.cause.getD 0), BitVec.ofNat 8 s.upd.bootCnt, 0] ++
      bytesLE 6 s.eth.baseMac.toNat ++ [0, 0] ++ kinds) s

/-- The session as a host finds it: one that has been silent for 60 s is over. -/
def recSess (s : State) : Option RecSess :=
  match s.upd.sess with
  | some r => if r.lastSeen + secT 60 ≤ s.now then none else some r
  | none => none

def putSess (r : Option RecSess) (s : State) : State := { s with upd := { s.upd with sess := r } }

/-- Another host holds the session. -/
def heldByOther (s : State) (host : Nat) : Bool :=
  match recSess s with
  | some r => r.host != host
  | none => false

/-- A request of the session: BUSY to others, ORDER where no session is held; a host that holds the session is
heard. -/
def inSession (host op : Nat) (sq : Half) (s : State) (f : RecSess → State → State) : Host.Outcome State Fault Refusal :=
  whenRecovery s fun s =>
    match recSess s with
    | none => respond host op rcOrder sq 0 [] s
    | some r =>
      if r.host ≠ host then respond host op rcBusy sq 0 [] s
      else
        let r := { r with lastSeen := s.now }
        f r (putSess (some r) s)

/-- The bank that a load takes: the invalid bank, else the standby bank; with neither valid, the standby bank. DESIGN CHOICE, log 19. -/
def loadBank (s : State) (kind : Nat) : Bool :=
  if bankOk s kind false == bankOk s kind true then !inB s kind else bankOk s kind false

/-- RECOVERY_BEGIN. DEDUCED, log 50. -/
def execRecoveryBegin (host : Nat) (sq : Half) (kind total : Nat) (s : State) : Host.Outcome State Fault Refusal :=
  whenRecovery s fun s =>
    if heldByOther s host then respond host 2 rcBusy sq 0 [] s
    else
      let r := (recSess s).getD ⟨host, s.now, 0, false, 0, 0, []⟩
      if kind = 0 ∨ 6 < kind then respond host 2 rcBadmsg sq 0 [] (putSess (some { r with lastSeen := s.now, kind := 0 }) s)
      else if bankSize kind < total then
        respond host 2 rcFormat sq 0 [] (putSess (some { r with lastSeen := s.now, kind := 0 }) s)
      else if s.integ.nandOut then
        respond host 2 rcNand sq 0 [] (putSess (some { r with lastSeen := s.now, kind := 0 }) s)
      else
        let b := loadBank s kind
        let new : RecSess :=
          { host := host, lastSeen := s.now, kind := kind, bankB := b, total := total, offset := 0
            loaded := r.loaded.filter (fun e => e.1 != kind) }
        respond host 2 rcOk sq 0 [BitVec.ofNat 8 (b2n b)] (putSess (some new) (putBank kind b Bank.erased s))

/-- RECOVERY_DATA: bytes at the offset expected enter the bank; the answer names the next offset expected. DEDUCED, log 50. -/
def execRecoveryData (host : Nat) (sq : Half) (off : Nat) (bytes : List Byte) (s : State) : Host.Outcome State Fault Refusal :=
  inSession host 3 sq s fun r s =>
    if r.kind = 0 ∨ off ≠ r.offset then respond host 3 rcOrder sq r.offset [] s
    else if 1_024 < bytes.length ∨ r.total < off + bytes.length then respond host 3 rcBadmsg sq r.offset [] s
    else if s.integ.nandOut then respond host 3 rcNand sq r.offset [] s
    else
      let n := off + bytes.length
      let old := (bankOf s r.kind r.bankB).bytes
      respond host 3 rcOk sq n []
        (putSess (some { r with offset := n }) (putBank r.kind r.bankB { Bank.erased with bytes := old ++ bytes } s))

/-- RECOVERY_END: the image is checked (R391). A failed signature is a source of the alarm, which acts at the next
start (R382). -/
def execRecoveryEnd (host : Nat) (sq : Half) (hashOk sigOk : Bool) (s : State) : Host.Outcome State Fault Refusal :=
  inSession host 4 sq s fun r s =>
    if r.kind = 0 ∨ r.offset ≠ r.total then respond host 4 rcOrder sq r.offset [] s
    else
      let bs := (bankOf s r.kind r.bankB).bytes
      let n := imgCheck s r.kind bs hashOk sigOk
      if n = 0 then
        respond host 4 rcOk sq 0 []
          (putSess (some { r with kind := 0, loaded := r.loaded ++ [(r.kind, r.bankB)] })
            (putBank r.kind r.bankB (readImage bs) s))
      else
        let s := putSess (some { r with kind := 0 }) s
        respond host 4 (n + 2) sq 0 [] { s with keys := { s.keys with sigPend := s.keys.sigPend || (n != 1 && !sigOk) } }

/-- The images of a set that are valid fit each other. DEDUCED, log 50. -/
def validFit (s : State) (f : Nat → Bool) : Bool :=
  imageKinds.all (fun x => imageKinds.all (fun y =>
    x == y || !bankOk s x (f x) || !bankOk s y (f y) || accepts (bankOf s x (f x)) y (bankOf s y (f y))))

/-- RECOVERY_ACTIVATE. -/
def execRecoveryActivate (host : Nat) (sq : Half) (mask : BitVec 6) (s : State) : Host.Outcome State Fault Refusal :=
  inSession host 5 sq s fun r s =>
    let ks := maskKinds mask
    let isLoaded := fun (k : Nat) => r.loaded.any (fun e => e.1 == k)
    if !ks.all isLoaded then respond host 5 rcNoimage sq 0 [] s
    else
      let chosen := r.loaded.filter (fun e => ks.contains e.1)
      let bank := fun (k : Nat) => ((chosen.find? (fun e => e.1 == k)).map (fun e => e.2)).getD (inB s k)
      if !validFit s bank then respond host 5 rcIncompat sq 0 [] s
      else
        let s := foldS chosen (fun e => putInB e.1 e.2) s
        respond host 5 rcOk sq 0 []
          { s with upd := { s.upd with bootCnt := 0, restartAt := some (s.now + msT 100), sess := none } }

/-- RECOVERY_SESSION_TIMEOUT: 60 s of silence end the session. -/
def execRecoverySessionTimeout (s : State) : Host.Outcome State Fault Refusal :=
  whenRecovery s fun s => putSess (recSess s) s

end Sys2Proof.Machine
end

