-- ==== Sys2Proof/Machine/Registers.lean ====
section
/-! DEFINITION. A write that reaches a register (R7): a register that is written only through a transaction takes the write
in the open transaction of the stage it belongs to, RO and RC fields ignore it, and W1C bits clear. -/

namespace Sys2Proof.Machine
open Sys2Proof

/-- STGCFG0 to 5 as words. -/
def StgCfg.words (c : StgCfg) : List Word := [c.c0, c.c1, c.c2, c.c3, c.c4, c.c5]

/-- SLATECFG as committed, and CLASSCFGk (R32, R34). -/
def slateWord (s : State) : Word := BitVec.ofNat 32 (b2n s.slate.nom60C * 2 + b2n s.slate.freeC)
def classWord (s : State) (k : Nat) : Word :=
  BitVec.ofNat 32 ((clsCfg s k).outph * 65_536 + b2n (clsCfg s k).en * 8 + (clsCfg s k).n)

/-- The SLATE entry of a transaction, or what is committed as one. -/
def slateEntry (s : State) (t : Tx) : Word × List Word :=
  (t.entries.findSome? (fun e => match e with
    | .slate w cls => some (w, cls)
    | _ => none)).getD (slateWord s, (List.range 4).map (classWord s))

/-- The STGCFG entry of a stage in a transaction, or the configuration in force as one. -/
def stgEntry (s : State) (t : Tx) (st : Nat) : List Word × List (Nat × Word) :=
  (t.entries.findSome? (fun e => match e with
    | .stgcfg n ws pub => if n = st then some (ws, pub) else none
    | _ => none)).getD ((stgCfg s st).words, s.host.logpub)

/-- The KEYPOL and SECPOL entries, likewise. -/
def keypolEntry (s : State) (t : Tx) : Word × Word :=
  (t.entries.findSome? (fun e => match e with
    | .keypol a b => some (a, b)
    | _ => none)).getD (s.keys.pol0, 0)
def secpolEntry (s : State) (t : Tx) : Word × Word :=
  (t.entries.findSome? (fun e => match e with
    | .secpol a b => some (a, b)
    | _ => none)).getD (s.keys.sec0, s.keys.sec1)

/-- The stage through whose transactions a register is written (R32, R175, R252, R282, R300, R381, R384). -/
def regStage (s : State) (r : RegId) : Nat :=
  match r with
  | .liogen0 | .liogen1 | .dicfg _ | .docfg _ | .aicfg _ | .aocfg _ => lioOwner s
  | _ => 0

/-- The entry that a write of a register makes in a transaction; none for a register that no entry holds. -/
def regEntry (s : State) (t : Tx) (r : RegId) (v : Dword) : Option Entry :=
  let w : Word := v.setWidth 32
  match r with
  | .liogen0 | .liogen1 | .dicfg _ | .docfg _ | .aicfg _ | .aocfg _ | .enccfg _ => some (.liocfg [(r, w)])
  | .slatecfg => some (.slate w (slateEntry s t).2)
  | .classcfg k => some (.slate (slateEntry s t).1 ((slateEntry s t).2.set k w))
  | .stgcfg st i => some (.stgcfg st ((stgEntry s t st).1.set i w) (stgEntry s t st).2)
  | .maccfg _ | .filt _ _ | .dscfg _ | .ptpcfg | .ipcfg _ => some (.netcfg [(r, v)] [] [])
  | .cannbt c | .candbt c | .cancfg0 c | .cancfg1 c | .cansync c => some (.cancfg c [(r, w)] [] [])
  | .mslgen => some (.mslgen w)
  | .keypol i => some (if i = 0 then .keypol w (keypolEntry s t).2 else .keypol (keypolEntry s t).1 w)
  | .secpol i => some (if i = 0 then .secpol w (secpolEntry s t).2 else .secpol (secpolEntry s t).1 w)
  | .timecfg | .almcfg _ _ | .maccount _ _ | .canlost _ _ | .cannd _ _ => none

/-- A write joins the open transaction of the register's stage as an entry; without one it reaches nothing. The fields take
effect by their access codes when the transaction applies, at its boundary and past its checks. DEDUCED, log 53. -/
def stageReg (r : RegId) (v : Dword) (s : State) : State :=
  let st := regStage s r
  match txOf s st with
  | none => s
  | some t =>
    match regEntry s t r v with
    | none => s
    | some e =>
      let freed := ((t.entries.filter (sameTarget e)).map (fun x => (entryBytes x).length)).sum
      if stageStatus s st e != stOk || !rushFits s st (stageRush s st + (entryBytes e).length - freed) then s
      else putTx st (some { t with entries := putEntry e t.entries, sigs := [], svcFree := false }) s

/-- An alarm word (R351). -/
def writeAlm (a i : Nat) (w : Word) (s : State) : State :=
  let x := alarmOf s a
  putAlarm a (if i = 0 then { x with w0 := w } else if i = 1 then { x with w1 := w }
    else x.enabling { x with w2 := w &&& 0xFFFF_F07F }) s

/-- LOST of a buffer is cleared by a write of 1, unless the controller sets it in the same clock (R7, R294). -/
def clearLost (c b : Nat) (v : Bool) (s : State) : State :=
  let x := canOf s c
  putCan c { x with buf := Table.upd CanBuf.zero x.buf b (fun y =>
    { y with lost := y.lost && (!v || y.lostAt == some s.now) }) } s

/-- The register takes the write by its field map. TIMECFG and the alarm words are written without a transaction (R349,
R351), TIMECFG only with a word that its operation would take; counters are RO, and ND is cleared by a read. DEDUCED, log 53. -/
def writeReg (r : RegId) (v : Dword) (s : State) : State :=
  match r with
  | .timecfg =>
    let w : Word := v.setWidth 32 &&& 0x00FF_FF07
    if timecfgOk s w then putTimecfg w s else s
  | .almcfg a i => writeAlm a i (v.setWidth 32) s
  | .canlost c b => clearLost c b (v.getLsbD 0) s
  | .maccount _ _ | .cannd _ _ => s
  | r => stageReg r v s

/-- REGISTER_WRITE. DEDUCED, log 53. -/
def execRegisterWrite (r : RegId) (v : Dword) (s : State) : Host.Outcome State Fault Refusal := whenUp s (writeReg r v)

/-- LOST_CLEAR: a write of 1 clears LOST, a write of 0 does nothing (R294). -/
def execLostClear (c buf : Nat) (v : Bool) (s : State) : Host.Outcome State Fault Refusal := whenUp s (clearLost c buf v)

/-- PIN_UPDATE: the input power as measured (P 0x0081). -/
def execPinUpdate (mw : Word) (s : State) : Host.Outcome State Fault Refusal :=
  whenUp s fun s => { s with power := { s.power with pin := mw } }

end Sys2Proof.Machine
end

