-- ==== Sys2Proof/Machine/Start.lean ====
section
/-! DEFINITION. The start from power-good to the first take: the root, the ROM, the self test, the committed
transactions, the start of every stage, and the slate (R372 to R374, R387, R400 to R403, R419, R420, R429, R436 to
R443). The steps take no time on the model's clock. -/

namespace Sys2Proof.Machine
open Sys2Proof

/-! ### The ROM: banks and recovery (R400 to R403) -/

/-- Whether a bank's signature verifies in the ROM's check at this start. -/
def romSig (b : BootFacts) (kind : Nat) (bankB : Bool) : Bool := (if bankB then b.sigB else b.sigA).getLsbD (kind - 1)

/-- The ROM's verdict on an image at this start: it was loaded whole, its checks and its signature pass, and its epoch stands
(R391). -/
def bankValid (s : State) (b : BootFacts) (kind : Nat) (bankB : Bool) : Bool :=
  let x := bankOf s kind bankB
  x.valid && (if bankB then b.validB else b.validA).getLsbD (kind - 1) && romSig b kind bankB &&
    decide ((floorOf s kind).toNat ≤ x.epoch.toNat)

/-- An update whose first step had been activated is undone: its kinds return to the banks of before (R400). -/
def undoUpdate (s : State) : State :=
  match s.upd.upd with
  | none => s
  | some u => if u.activated || !u.doneSteps.isEmpty then foldS u.startSet (fun e => putInB e.1 e.2) s else s

/-- What the rollback of an update records once the firmware runs. -/
def undoRecord (u : Option Upd) (s : State) : State :=
  match u with
  | none => s
  | some u =>
    if u.activated || !u.doneSteps.isEmpty then
      let done := u.doneSteps ++ (if u.activated && !u.rollback then u.cur.toList else [])
      failRecord (if u.rollback then u.failed else u.cur.getD 0) u.code 1
        ((maskKinds u.mask).reverse.filter (fun k => done.contains k)) s
    else putUpd none s

/-- A choice of banks: true is B. -/
def setOf (s : State) (f : Nat → Bool) (kind : Nat) : Bank := bankOf s kind (f kind)

/-- A choice with one kind changed. -/
def chooseBank (f : Nat → Bool) (kind : Nat) (v : Bool) : Nat → Bool := fun x => if x = kind then v else f x

/-- The standby banks, wherever valid, if that set is compatible; else each in turn that keeps it compatible. DEDUCED, log 49. -/
def standbySet (s : State) (b : BootFacts) (f : Nat → Bool) : Nat → Bool :=
  let all := fun (k : Nat) => if bankValid s b k (!f k) then !f k else f k
  if compatible (setOf s all) then all
  else imageKinds.foldl (fun g k =>
    let g' := chooseBank g k (!f k)
    if bankValid s b k (!f k) && compatible (setOf s g') then g' else g) f

/-- The other bank of every kind whose bank in service is not valid. DEDUCED, log 49. -/
def repairedSet (s : State) (b : BootFacts) (f : Nat → Bool) : Nat → Bool :=
  fun k => if !bankValid s b k (f k) && bankValid s b k (!f k) then !f k else f k

/-- The banks that the ROM boots from. DEDUCED, log 49. -/
def bootSet (s : State) (b : BootFacts) : Nat → Bool :=
  let f := inB s
  repairedSet s b (if s.upd.bootCnt = 2 then standbySet s b f else f)

/-- The banks that the ROM checks: each in service, and the other bank where that one is not valid or all standby banks are to
boot (R401, R402). DEDUCED, log 49. -/
def romChecked (s : State) (b : BootFacts) : List (Nat × Bool) :=
  imageKinds.flatMap (fun k =>
    (k, inB s k) :: (if s.upd.bootCnt = 2 || !bankValid s b k (inB s k) then [(k, !inB s k)] else []))

/-- The ROM keeps its verdict on each bank it checks, and a whole image whose signature fails is a source of the alarm, which
acts once the firmware runs (R382, R391). -/
def romJudge (b : BootFacts) (s : State) : State :=
  let l := romChecked s b
  let bad := l.any (fun e => (bankOf s e.1 e.2).valid && !romSig b e.1 e.2)
  let t := foldS l (fun e => putBank e.1 e.2 { bankOf s e.1 e.2 with
    romOk := (if e.2 then b.validB else b.validA).getLsbD (e.1 - 1) && romSig b e.1 e.2 }) s
  { t with keys := { t.keys with sigPend := t.keys.sigPend || bad } }

/-- The set can run. -/
def setRuns (s : State) (b : BootFacts) (f : Nat → Bool) : Bool :=
  imageKinds.all (fun k => bankValid s b k (f k)) && compatible (setOf s f)

/-- Why the ROM enters recovery (R403): 0 RECOV, 1 the counter, 2 the variant code, 3 no set, 4 UPDRECOVER. Of causes that
hold together the first in this order is kept. DESIGN CHOICE, log 50. -/
def recoveryCause (s : State) (b : BootFacts) : Option Nat :=
  if b.recov then some 0
  else if s.upd.bootCnt = 3 then some 1
  else if s.variant = 0 ∨ 3 < s.variant.toNat then some 2
  else if !setRuns s b (bootSet s b) then some 3
  else if s.upd.recover then some 4
  else none

/-- The boot counter, and what a start forgets of loads and sessions. DESIGN CHOICE, log 11. -/
def romStart (s : State) : State :=
  { s with upd := { s.upd with
    bootPrev := s.upd.bootCnt, bootCnt := min 3 (s.upd.bootCnt + 1), load := none, sess := none, restartAt := none } }

/-- Kinds that boot from a bank other than the one in service. -/
def substituted (s : State) (b : BootFacts) : List Nat := imageKinds.filter (fun k => bootSet s b k != inB s k)

/-! ### The self test (R419, R420) -/

/-- Pairs retired for good are not tested (R413). -/
def testedPairs (s : State) : List Nat := (List.range 9).filter (fun p => decide (Table.get 0 s.integ.retCount p < 2))

def pairMask (l : List Nat) : BitVec 9 := BitVec.ofNat 9 (l.foldl (fun a p => a + 2 ^ p) 0)

/-- Cores, loop engine and rows as the test finds them. -/
def testUnits (b : BootFacts) (s : State) : State :=
  let ps := testedPairs s
  { s with
    eng := { s.eng with inService := pairMask ps, retired := ~~~pairMask ps }
    loops := { s.loops with inService := b.loopEngineOk, katDue := false, ddAt := [] }
    integ := { s.integ with
      cores := BitVec.ofNat 4 (b2n b.corePairAOk * 3 + b2n b.corePairBOk * 12)
      spareActive := !b.corePairAOk && b.corePairBOk
      rowSpare := 168 - b.rowsFailing, holdRows := decide (168 < b.rowsFailing), rowHist := []
      rotFailN := false, rotFailS := false, modstate := 0, tested := false, placeCheck := false
      issued := [], ckptAt := s.now } }

/-- The result of a pair's suite. -/
def testPair (b : BootFacts) (p : Nat) (s : State) : State :=
  if b.failNormal.getLsbD p then retirePair p 3 s
  else if b.failShort.getLsbD p then predict (1 + p) s
  else unpredict (1 + p) { s with integ := { s.integ with marginal := Table.set 0 s.integ.marginal p 0 } }

/-- A cause of PREDICT holds or has cleared. -/
def judgeCause (c : Bool) (cause : Nat) (s : State) : State := if c then predict cause s else unpredict cause s

/-- The self test is complete (R419, R422, R423). DESIGN CHOICE, log 5. DEDUCED, log 6. DESIGN CHOICE, log 11. -/
def selfTest (b : BootFacts) (s : State) : State :=
  let s := foldS (testedPairs s) (testPair b) s
  let s := judgeCause (decide (s.integ.rowSpare < 42)) 10 s
  let s := judgeCause s.integ.spareActive 12 s
  let s := judgeCause (decide (pairsIn s < 9)) 13 s
  refreshMod { s with integ := { s.integ with tested := true, bist := some (pairsIn s, b.rowsFailing) } }

/-! ### Keys and the alarm (R372, R373, R382, R387) -/

/-- Sources that fired while the module was down act before the root is regenerated. -/
def pendingSources (s : State) : State :=
  let s := if s.keys.vbatTamper then fireSource 0 { s with keys := { s.keys with vbatTamper := false } } else s
  if s.keys.sigPend then fireSource 5 { s with keys := { s.keys with sigPend := false } } else s

/-- A replacement that a power loss cut short: a staged key is discarded, and under clear write the new key is in force, which
leaves the copies not yet re-encrypted unreadable (R380). -/
def endRepl (s : State) : State :=
  match s.keys.repl with
  | none => s
  | some r =>
    let s := { s with keys := { s.keys with repl := none } }
    if r.staging = r.slot then (if r.kind = 1 then certify true s else s) else putKey r.staging KeySlot.empty s

/-- An erase source present at this start keeps the module from enrolling. -/
def eraseNow (s : State) (b : BootFacts) : Bool :=
  (List.range 6).any (fun i => b.alarmNow.getLsbD i && alarmAction s i == 2)

/-- What one reading of the PUF region regenerates: the root, while no more than 14 % of the 65,536 bits differ from the response
at the enrolment, and else some value (R372). -/
def readRoot (h : Helper) (differ : Nat) (s : State) : BitVec 256 × State :=
  if differ ≤ 9_175 then (h.root, s) else draw256 s

/-- The root by the first of up to three readings that reproduces the check value (R373). -/
def regenRoot (puf : List Nat) (h : Helper) (s : State) : Option (BitVec 256) × State :=
  (puf.take 3).foldl (fun (x : Option (BitVec 256) × State) d =>
    if x.1.isSome then x
    else
      let r := readRoot h d x.2
      (if rootCheck r.1 = h.check then some r.1 else none, r.2)) (none, s)

/-- The unit reads the region at every start, and places the root and the KEK in their registers; a slot that does not hold a
sound key is treated as failed (R372, R373, R375). -/
def readKeys (b : BootFacts) (s : State) : State :=
  match s.keys.helper with
  | none => s
  | some h =>
    let r := regenRoot b.puf h s
    let s := r.2
    { s with keys := { s.keys with
      root := r.1, kek := r.1.map kekOf
      slots := match r.1 with
        | some root => s.keys.slots.map (fun e => (e.1, judgeSlot (kekOf root) e.2))
        | none => s.keys.slots } }

/-- KEYLOSS as it stands. -/
def judgeKeyloss (s : State) : State := { s with keys := { s.keys with keyloss := !deviceKeyOk s } }

/-- The root, the KEK, and KEYLOSS at a start that runs the firmware. -/
def rootStart (b : BootFacts) (s : State) : State :=
  let s := endRepl (pendingSources { s with keys := { s.keys with
    qs := [], qb := [], waitS := [], waitB := [], job := none, lastB := false, working := none, todo := [] } })
  let s := readKeys b s
  let s := if s.keys.helper.isNone then (if eraseNow s b then { s with keys := { s.keys with erased := true } } else enrol s)
    else if s.keys.root.isNone then logEv 0x62 7 0 viewAll 0 [] s
    else s
  judgeKeyloss s

/-! ### What a start resets (R16, R49, R268, R298, R441) -/

/-- Configuration regions with both copies bad take their factory values (R417). -/
def factoryRegion (r : Nat) (s : State) : State :=
  let z := State.reset
  if r = 0 then { s with points := { s.points with tags := [] } }
  else if r = 1 then { s with host := { s.host with stg := [], logpub := [] } }
  else if r = 2 then
    { s with
      field := { s.field with cfg := LioCfg.factory }
      slate := { s.slate with nom60C := false, freeC := false, cls := [] }
      eth := { s.eth with mac := [], dscfg := [], ptpcfg := z.eth.ptpcfg, ip := [], name := [], dev := [] }
      can := []
      msl := { s.msl with gen := 0 }
      rtc := { s.rtc with timecfg := z.rtc.timecfg, alarms := [] }
      keys := { s.keys with pol0 := z.keys.pol0, pol1 := z.keys.pol1, sec0 := z.keys.sec0, sec1 := z.keys.sec1 } }
  else { s with upd := { s.upd with inB := [], floor := [], bootCnt := 0, bootPrev := 0, upd := none, recover := false } }

def factoryRegions (s : State) : State :=
  foldS s.integ.cfgBad factoryRegion { s with integ := { s.integ with cfgBad := [] } }

/-- A controller with its configuration kept. -/
def canStart (x : Can) : Can :=
  { Can.factory with
    nbt := x.nbt, dbt := x.dbt, cfg0 := x.cfg0, cfg1 := x.cfg1, sync := x.sync, dev := x.dev, frame := x.frame }

/-- Networks begin again with their configuration. -/
def resetNets (s : State) : State :=
  let eth := { s.eth with
    mac := s.eth.mac.map (fun e => (e.1, { Mac.zero with cfg := e.2.cfg, filt := e.2.filt })), learned := []
    fwdBytes := 0, ipAddr := none, dhcpAt := none, devRt := [], win := [] }
  let s := { s with eth := eth, can := s.can.map (fun e => (e.1, canStart e.2)) }
  if dhcpMode s then s else { s with eth := { s.eth with ipAddr := staticAddr s } }

/-- The field side and the barrier begin again; the configuration is still to be sent. -/
def resetField (s : State) : State :=
  let f := s.field
  let t := { s with
    field := { State.reset.field with cfg := f.cfg, temp := f.temp }
    bar := State.reset.bar }
  { t with
    saf := { (pairRestart t).saf with hostReq := [], reqTx := 0, cycle := 0 }
    msl := { (mslRestart t).msl with discards := 0, statAt := [], statW := [], opened := [] } }

/-- Sessions, requests and what waits for them are gone; MRAM keeps transactions and commits (R326, R441). -/
def resetHost (s : State) : State :=
  { s with
    host := { s.host with
      conns := [], adm := [], devReq := [], devUsed := 0, opsHigh := 0, discN := [], svcOpen := false, tenants := false
      loginFails := [], swapWait := [] }
    progs := { s.progs with ops := s.progs.ops.filter (fun o => match o with
      | .release _ rq _ _ _ => rq == noCn
      | _ => false) } }

/-- The engines at rest. -/
def resetEngines (s : State) : State :=
  { s with
    takes := []
    eng := { s.eng with
      run := [], scene := none, slots := [], waiting := [], recovered := 0, codeUecc := [] }
    loops := { s.loops with sampled := none, open_ := false }
    points := { s.points with pts := s.points.retained, uecc := [] } }

/-- PTP is not locked, and has not been since the start (R340). -/
def resetClock (s : State) : State :=
  judgeHoldover { s with rtc := { s.rtc with
    ptpLocked := false, lastLock := none, ptpGood := 0, lastSync := none, master := none, ptpStep := none
    startJump := true } }

/-- MT at this start (R439). DEDUCED, log 45. -/
def startMt (s : State) : Dword :=
  match s.power.mtTpf with
  | some m => if s.rtc.osfOutage then m + 1
    else m + BitVec.ofNat 64 ((alwaysOn s - s.power.aTpf) * 1_000_000 / 32_768)
  | none => if s.power.firstPower then 0 else s.power.mtLast + 1

/-! ### Transactions and stages (R326, R436 steps 5 to 7, R441 to R443) -/

/-- A RESTART that was committed and not applied is this start's override (R442, R443). -/
def restartNow (e : Entry) : Entry := match e with
  | .restart b => .restart (b ||| 2)
  | e => e

/-- A stage's program runs again only if its copy can be read (R376): that of the program in force, which a commit that waits
has not replaced yet (R128). -/
def readable (s : State) (st : Nat) : Bool :=
  (progOf s st).isSome && s.progs.lib.any (fun l => l.stage == st && l.inForce && copyOk s l)

/-- The image that a commit loads has no copy that can be read (R376, R388). -/
def imageLost (s : State) (st : Nat) (e : Entry) : Bool :=
  match e with
  | .prog bs => !s.progs.lib.any (fun l => l.stage == st && l.bytes == bs && copyOk s l)
  | .progLib id => !s.progs.lib.any (fun l => l.stage == st && l.imageId == id && copyOk s l)
  | _ => false

/-- A stage is stopped for want of its image. -/
def stopStage (st : Nat) (s : State) : State := putStg st { stgRt s st with state := 0 } (putProg st none s)

/-- The programs as the library gives them: a stage without a readable copy is stopped. -/
def loadStages (s : State) : State :=
  foldS (List.range 32) (fun st t =>
    if readable t st then t else stopStage st t) s

/-- Open transactions are rolled back, and committed ones applied in commit order (R326). A stage whose active image cannot be
read is stopped (R376, R388). -/
def applyPending (s : State) : State :=
  let s := foldS ((List.range 32).filter (fun st => (txOf s st).isSome)) (fun st => rollback st 2) s
  let l := s.host.commits.map (fun c =>
    { c with entries := (c.entries.filter (fun e => !imageLost s c.stage e)).map restartNow })
  let lost := (s.host.commits.filter (fun c => c.entries.any (imageLost s c.stage))).map (fun c => c.stage)
  foldS lost stopStage (applyCommits l { s with host := { s.host with commits := [] } })

/-- The retained state was written under another format (R442). -/
def fmtChanged (s : State) : Bool :=
  (serviceSet s 4).imgfmt != s.upd.fmt4 || (serviceSet s 5).imgfmt != s.upd.fmt5

/-- A stage's start kind (R442). -/
def startKind (s : State) (st : Nat) : StartKind :=
  if fmtChanged s then .cold true
  else match Table.get none s.progs.override st with
    | some b => if b then .cold false else .warm
    | none => if (stgCfg s st).c0.getLsbD 30 then .cold false else .warm

/-- Loops of a stage whose program does not start here (R159, R441). -/
def startLoops (k : StartKind) (st : Nat) (s : State) : State :=
  foldS ((stageLoops s st).filter (fun n => (loopDesc s n).kind == 1)) (fun n t =>
    match k with
    | .cold _ => coldLoop n t
    | _ => warmLoop n t) s

/-- One stage starts. `was`: its program ran before this start; one first loaded by step 5 has just been
initialised. Its counters start at 0 (R437, R438). -/
def startStage (was : List Nat) (st : Nat) (s : State) : State :=
  let k := startKind s st
  let s := if was.contains st && (progOf s st).isSome then startProgram k st s else startLoops k st s
  let r := stgRt s st
  putStg st { StageRt.fresh with state := r.state, lastCold := r.lastCold } s

/-- The first `n` points of a status block; block 0 is none (R249, R299). -/
def statusPts (blk n : Nat) : List Nat := if blk = 0 then [] else (List.range n).map (fun i => blk * 64 + i)

/-- Points whose source is an input, local or networked (R16), the status points of MSL and CAN among them (R249, R299). -/
def inputSources (s : State) : List Nat :=
  localPts s ++ s.eth.dev.flatMap (fun e => match e.2 with
    | some d => d.inPts
    | none => []) ++
  (List.range 2).flatMap (fun c => (canOf s c).rxEntries.flatMap (fun e => e.2.pts)) ++
  statusPts (bitsOf s.msl.gen 31 22) 33 ++ (List.range 2).flatMap (fun c => statusPts (bitsOf (canOf s c).cfg1 31 22) 16)

/-- Every stage starts, and input points are stale until read (R16, R436 steps 6 and 7). -/
def startStages (s : State) : State :=
  let was := (List.range 32).filter (fun st => (progOf s st).isSome)
  let s := applyPending s
  let s := foldS (List.range 32) (startStage was) s
  let s := foldS (inputSources s) (mapQual · (fun q => (q ||| qSTALE) &&& 0x1FE)) s
  lanesGone { s with
    progs := { s.progs with override := [] }
    upd := { s.upd with fmt4 := (serviceSet s 4).imgfmt, fmt5 := (serviceSet s 5).imgfmt } }

/-! ### The slate and the first take (R437, R439) -/

/-- The slate starts with HALFCNT 0, and the first half-period begins. -/
def startSlate (s : State) : State :=
  let z := State.reset.slate
  let c := s.slate
  let s := { s with slate := { z with
    nom60C := c.nom60C, freeC := c.freeC, nom60F := c.nom60C, freeF := c.freeC, cls := c.cls
    mode := if c.freeC then .free else .nominal, started := true, startAt := s.now, halfStart := s.now
    period := if c.nom60C then 416_667 else 500_000, flyPer := if c.nom60C then 416_667 else 500_000 } }
  let s := { s with power := { s.power with mtBase := startMt s, mtAt := s.now, firstPower := false } }
  halfStartPhase (placeAll s)

/-! ### POWER_GOOD -/

/-- The stages started cold, as a mask. -/
def coldMask (s : State) : Nat :=
  ((List.range 32).filter (fun st => stageRuns s st && (stgRt s st).lastCold)).foldl (fun a st => a + 2 ^ st) 0

/-- The cause of the start (R434): 0 POWERON, 1 TIMELOST, 2 POWERFAIL, 3 EXTRESET, 4 WATCHDOG, 5 SWRESET. -/
def startCause (s : State) : Nat := if s.power.cause = 0 ∧ s.rtc.osf = true then 1 else s.power.cause

/-- How long the module was down, in ms. -/
def outageMs (s : State) : Nat := match s.power.tpf with
  | some t => (s.now - t) / 25_000
  | none => 0

/-- Power-good: the rails are up, and the module leaves reset (R429). -/
def railsUp (s : State) : State :=
  { s with power := { s.power with
    mode := .up, rstn := true, goodAt := s.now, pfw := false, aux := true, auxOffAt := none, auxFault := false
    dip := none, lastDipEnd := if s.power.dip.isSome then some s.now else s.power.lastDipEnd } }

/-- The ROM's recovery: no take runs and every output is off (R404). The unit reads the root here too (R372). -/
def enterRecovery (b : BootFacts) (cause : Nat) (s : State) : State :=
  let s := outputsOff (judgeKeyloss (readKeys b s))
  { s with
    power := { s.power with mode := .recovery }
    slate := { s.slate with started := false }
    upd := { s.upd with cause := some cause, recover := false } }

/-- Records of the time before the firmware ran: a PWRFAIL record that its stop could not store (R444), one RETIRE
summary of an interval without cores (R425), the banks substituted (R401), an update undone (R400). -/
def lateRecords (pwr : Option (List Byte)) (noCores : Bool) (subst : List Nat) (u : Option Upd) (s : State) : State :=
  let s := match pwr with
    | some d => logEv 0x91 5 0 viewAll 0 d s
    | none => s
  let s := if noCores then logEv 0x80 4 0 viewAll 0 (packD [(1, 1), (1, 0xFF), (1, 0), (4, s.integ.cores.toNat)]) s else s
  let s := foldS subst (fun k t => logEv 0x72 6 0 (viewOf 0) 0 (packD [(1, k), (1, b2n (inB t k))]) t) s
  undoRecord u s

/-- The house firmware starts, and with it the stages and the slate. DEDUCED, log 54. -/
def firmwareStart (b : BootFacts) (s : State) : State :=
  let cause := startCause s
  let outage := outageMs s
  let forced := fmtChanged s
  let s := startSlate (startStages (loadStages (rootStart b (resetClock s))))
  logEv 0x90 3 0 viewAll 0 (packD [(1, cause), (4, outage), (4, coldMask s), (1, b2n forced)]) s

/-- A start (R436). DESIGN CHOICE, log 11. -/
def startModule (b : BootFacts) (s : State) : State :=
  let noCores := !s.power.firstPower && s.integ.cores == 0
  let pwr := if 0 < s.power.stepReached ∧ s.power.stepReached < 4 then some (pwrfailDetail s) else none
  let s := romStart (undoUpdate (factoryRegions (resumeFrac (recoverRtc (railsUp s)))))
  let s := romJudge b (resetHost (resetField (resetNets (resetEngines s))))
  match recoveryCause s b with
  | some c => enterRecovery b c s
  | none =>
    let subst := substituted s b
    let u := s.upd.upd
    let s := foldS imageKinds (fun k => putInB k (bootSet s b k)) s
    let s := testUnits b s
    if s.integ.cores = 0 then judgeKeyloss (readKeys b { s with slate := { s.slate with started := false } })
    else firmwareStart b (lateRecords pwr noCores subst u (selfTest b s))

/-- POWER_GOOD: every start is counted from here. -/
def execPowerGood (b : BootFacts) (s : State) : Host.Outcome State Fault Refusal :=
  if s.power.mode = .down then .next (startModule b s) else .next s

end Sys2Proof.Machine
end

