-- ==== Sys2Proof/Machine/Dispatch.lean ====
section
/-! DEFINITION. The dispatch of a command to its meaning: one arm per constructor of `Instr`. -/
namespace Sys2Proof.Machine
open Sys2Proof

def exec (i : Instr) (s : State) : Host.Outcome State Fault Refusal :=
  match i with
  | .nop p w => Sys2Proof.Machine.execNop p w s
  | .band p w => Sys2Proof.Machine.execBand p w s
  | .bandn p w => Sys2Proof.Machine.execBandn p w s
  | .bor p w => Sys2Proof.Machine.execBor p w s
  | .born p w => Sys2Proof.Machine.execBorn p w s
  | .bxor p w => Sys2Proof.Machine.execBxor p w s
  | .bxorn p w => Sys2Proof.Machine.execBxorn p w s
  | .bnot p w => Sys2Proof.Machine.execBnot p w s
  | .ba1 p w => Sys2Proof.Machine.execBa1 p w s
  | .ba0 p w => Sys2Proof.Machine.execBa0 p w s
  | .bflg p w => Sys2Proof.Machine.execBflg p w s
  | .pusha p w => Sys2Proof.Machine.execPusha p w s
  | .pushan p w => Sys2Proof.Machine.execPushan p w s
  | .pusho p w => Sys2Proof.Machine.execPusho p w s
  | .pushx p w => Sys2Proof.Machine.execPushx p w s
  | .popc p w => Sys2Proof.Machine.execPopc p w s
  | .stb p w => Sys2Proof.Machine.execStb p w s
  | .stbn p w => Sys2Proof.Machine.execStbn p w s
  | .setb p w => Sys2Proof.Machine.execSetb p w s
  | .clrb p w => Sys2Proof.Machine.execClrb p w s
  | .rise p w => Sys2Proof.Machine.execRise p w s
  | .fall p w => Sys2Proof.Machine.execFall p w s
  | .ton p w => Sys2Proof.Machine.execTon p w s
  | .tof p w => Sys2Proof.Machine.execTof p w s
  | .tp p w => Sys2Proof.Machine.execTp p w s
  | .tonr p w => Sys2Proof.Machine.execTonr p w s
  | .tres p w => Sys2Proof.Machine.execTres p w s
  | .ctu p w => Sys2Proof.Machine.execCtu p w s
  | .ctd p w => Sys2Proof.Machine.execCtd p w s
  | .cld p w => Sys2Proof.Machine.execCld p w s
  | .crs p w => Sys2Proof.Machine.execCrs p w s
  | .lda p w => Sys2Proof.Machine.execLda p w s
  | .sta p w => Sys2Proof.Machine.execSta p w s
  | .xab p w => Sys2Proof.Machine.execXab p w s
  | .sel p w => Sys2Proof.Machine.execSel p w s
  | .addI p w => Sys2Proof.Machine.execAddI p w s
  | .subI p w => Sys2Proof.Machine.execSubI p w s
  | .mulI p w => Sys2Proof.Machine.execMulI p w s
  | .divI p w => Sys2Proof.Machine.execDivI p w s
  | .modI p w => Sys2Proof.Machine.execModI p w s
  | .negI p w => Sys2Proof.Machine.execNegI p w s
  | .absI p w => Sys2Proof.Machine.execAbsI p w s
  | .minI p w => Sys2Proof.Machine.execMinI p w s
  | .maxI p w => Sys2Proof.Machine.execMaxI p w s
  | .ldb p w => Sys2Proof.Machine.execLdb p w s
  | .andw p w => Sys2Proof.Machine.execAndw p w s
  | .orw p w => Sys2Proof.Machine.execOrw p w s
  | .xorw p w => Sys2Proof.Machine.execXorw p w s
  | .notw p w => Sys2Proof.Machine.execNotw p w s
  | .shl p w => Sys2Proof.Machine.execShl p w s
  | .shr p w => Sys2Proof.Machine.execShr p w s
  | .sar p w => Sys2Proof.Machine.execSar p w s
  | .rol p w => Sys2Proof.Machine.execRol p w s
  | .addf p w => Sys2Proof.Machine.execAddf p w s
  | .subf p w => Sys2Proof.Machine.execSubf p w s
  | .mulf p w => Sys2Proof.Machine.execMulf p w s
  | .divf p w => Sys2Proof.Machine.execDivf p w s
  | .negf p w => Sys2Proof.Machine.execNegf p w s
  | .absf p w => Sys2Proof.Machine.execAbsf p w s
  | .minf p w => Sys2Proof.Machine.execMinf p w s
  | .maxf p w => Sys2Proof.Machine.execMaxf p w s
  | .addq p w => Sys2Proof.Machine.execAddq p w s
  | .subq p w => Sys2Proof.Machine.execSubq p w s
  | .mulq p w => Sys2Proof.Machine.execMulq p w s
  | .divq p w => Sys2Proof.Machine.execDivq p w s
  | .itf p w => Sys2Proof.Machine.execItf p w s
  | .fti p w => Sys2Proof.Machine.execFti p w s
  | .itq p w => Sys2Proof.Machine.execItq p w s
  | .qti p w => Sys2Proof.Machine.execQti p w s
  | .ftq p w => Sys2Proof.Machine.execFtq p w s
  | .qtf p w => Sys2Proof.Machine.execQtf p w s
  | .eqi p w => Sys2Proof.Machine.execEqi p w s
  | .nei p w => Sys2Proof.Machine.execNei p w s
  | .gti p w => Sys2Proof.Machine.execGti p w s
  | .gei p w => Sys2Proof.Machine.execGei p w s
  | .lti p w => Sys2Proof.Machine.execLti p w s
  | .lei p w => Sys2Proof.Machine.execLei p w s
  | .eqf p w => Sys2Proof.Machine.execEqf p w s
  | .nef p w => Sys2Proof.Machine.execNef p w s
  | .gtf p w => Sys2Proof.Machine.execGtf p w s
  | .gef p w => Sys2Proof.Machine.execGef p w s
  | .ltf p w => Sys2Proof.Machine.execLtf p w s
  | .lef p w => Sys2Proof.Machine.execLef p w s
  | .jmp p w => Sys2Proof.Machine.execJmp p w s
  | .jt p w => Sys2Proof.Machine.execJt p w s
  | .jf p w => Sys2Proof.Machine.execJf p w s
  | .jz p w => Sys2Proof.Machine.execJz p w s
  | .jnz p w => Sys2Proof.Machine.execJnz p w s
  | .jneg p w => Sys2Proof.Machine.execJneg p w s
  | .jpos p w => Sys2Proof.Machine.execJpos p w s
  | .loopOp p w => Sys2Proof.Machine.execLoopOp p w s
  | .endl p w => Sys2Proof.Machine.execEndl p w s
  | .lexit p w => Sys2Proof.Machine.execLexit p w s
  | .lexitc p w => Sys2Proof.Machine.execLexitc p w s
  | .callS p w => Sys2Proof.Machine.execCallS p w s
  | .ret p w => Sys2Proof.Machine.execRet p w s
  | .retc p w => Sys2Proof.Machine.execRetc p w s
  | .endS p w => Sys2Proof.Machine.execEndS p w s
  | .qset p w => Sys2Proof.Machine.execQset p w s
  | .qclr p w => Sys2Proof.Machine.execQclr p w s
  | .qget p w => Sys2Proof.Machine.execQget p w s
  | .qput p w => Sys2Proof.Machine.execQput p w s
  | .lsp p w => Sys2Proof.Machine.execLsp p w s
  | .lman p w => Sys2Proof.Machine.execLman p w s
  | .ltrk p w => Sys2Proof.Machine.execLtrk p w s
  | .lmode p w => Sys2Proof.Machine.execLmode p w s
  | .lrd p w => Sys2Proof.Machine.execLrd p w s
  | .evt p w => Sys2Proof.Machine.execEvt p w s
  | .lmt p w => Sys2Proof.Machine.execLmt p w s
  | .lmth p w => Sys2Proof.Machine.execLmth p w s
  | .lflt p w => Sys2Proof.Machine.execLflt p w s
  | .lidx p w => Sys2Proof.Machine.execLidx p w s
  | .lstw p w => Sys2Proof.Machine.execLstw p w s
  | .cstw p w => Sys2Proof.Machine.execCstw p w s
  | .sectionBudget p => Sys2Proof.Machine.execSectionBudget p s
  | .blockCheckpoint p agree => Sys2Proof.Machine.execBlockCheckpoint p agree s
  | .sectionDispatch => Sys2Proof.Machine.execSectionDispatch s
  | .sceneStart k j => Sys2Proof.Machine.execSceneStart k j s
  | .halfPeriodStart => Sys2Proof.Machine.execHalfPeriodStart s
  | .handOffPhase k => Sys2Proof.Machine.execHandOffPhase k s
  | .halfPeriodDeadline => Sys2Proof.Machine.execHalfPeriodDeadline s
  | .outputPhase k => Sys2Proof.Machine.execOutputPhase k s
  | .alignedTarget n => Sys2Proof.Machine.execAlignedTarget n s
  | .mainsCrossing amp => Sys2Proof.Machine.execMainsCrossing amp s
  | .missingPeriod => Sys2Proof.Machine.execMissingPeriod s
  | .nominalEntry => Sys2Proof.Machine.execNominalEntry s
  | .idleFrame h => Sys2Proof.Machine.execIdleFrame h s
  | .outcmd h k => Sys2Proof.Machine.execOutcmd h k s
  | .outputApply k => Sys2Proof.Machine.execOutputApply k s
  | .configFrame h off => Sys2Proof.Machine.execConfigFrame h off s
  | .safreq h => Sys2Proof.Machine.execSafreq h s
  | .barrierMslToPair h slot sub => Sys2Proof.Machine.execBarrierMslToPair h slot sub s
  | .statusFrame h supply temp => Sys2Proof.Machine.execStatusFrame h supply temp s
  | .inputFrame h sub meas => Sys2Proof.Machine.execInputFrame h sub meas s
  | .ack h k => Sys2Proof.Machine.execAck h k s
  | .safstat h sub => Sys2Proof.Machine.execSafstat h sub s
  | .barrierMslFromPair h slot sub => Sys2Proof.Machine.execBarrierMslFromPair h slot sub s
  | .eventFrame h => Sys2Proof.Machine.execEventFrame h s
  | .burstDeadline => Sys2Proof.Machine.execBurstDeadline s
  | .linkBad l atField => Sys2Proof.Machine.execLinkBad l atField s
  | .linkRetrain l => Sys2Proof.Machine.execLinkRetrain l s
  | .linkGood l => Sys2Proof.Machine.execLinkGood l s
  | .barrierLoss atField => Sys2Proof.Machine.execBarrierLoss atField s
  | .blholdExpiry => Sys2Proof.Machine.execBlholdExpiry s
  | .diFilterChange n lvl => Sys2Proof.Machine.execDiFilterChange n lvl s
  | .diWireBreak n broken => Sys2Proof.Machine.execDiWireBreak n broken s
  | .diComparatorTest n pass => Sys2Proof.Machine.execDiComparatorTest n pass s
  | .doOverloadLatch n => Sys2Proof.Machine.execDoOverloadLatch n s
  | .doRearm n => Sys2Proof.Machine.execDoRearm n s
  | .doCondition n code present => Sys2Proof.Machine.execDoCondition n code present s
  | .darkTestPulse n => Sys2Proof.Machine.execDarkTestPulse n s
  | .darkTestCheck n low => Sys2Proof.Machine.execDarkTestCheck n low s
  | .fieldOvertemp => Sys2Proof.Machine.execFieldOvertemp s
  | .aiShuntOpen n => Sys2Proof.Machine.execAiShuntOpen n s
  | .aiShuntRetry n ovr => Sys2Proof.Machine.execAiShuntRetry n ovr s
  | .aoDeviation n dev => Sys2Proof.Machine.execAoDeviation n dev s
  | .encoderEdge c a b z => Sys2Proof.Machine.execEncoderEdge c a b z s
  | .loopSample off mis => Sys2Proof.Machine.execLoopSample off mis s
  | .loopOutputWrite off => Sys2Proof.Machine.execLoopOutputWrite off s
  | .loopEngineKat pass => Sys2Proof.Machine.execLoopEngineKat pass s
  | .safetyCycle edm differ => Sys2Proof.Machine.execSafetyCycle edm differ s
  | .testPulse j => Sys2Proof.Machine.execTestPulse j s
  | .testPulseCheck j low rb => Sys2Proof.Machine.execTestPulseCheck j low rb s
  | .discTimeout n => Sys2Proof.Machine.execDiscTimeout n s
  | .feedbackTimeout m => Sys2Proof.Machine.execFeedbackTimeout m s
  | .switchOffPulse q fell => Sys2Proof.Machine.execSwitchOffPulse q fell s
  | .switchQlow q => Sys2Proof.Machine.execSwitchQlow q s
  | .switchQovl q => Sys2Proof.Machine.execSwitchQovl q s
  | .supplyFault => Sys2Proof.Machine.execSupplyFault s
  | .supplyRecovered => Sys2Proof.Machine.execSupplyRecovered s
  | .tempFault => Sys2Proof.Machine.execTempFault s
  | .standinExpiry f => Sys2Proof.Machine.execStandinExpiry f s
  | .lockRelease f => Sys2Proof.Machine.execLockRelease f s
  | .twoHandTimeout f => Sys2Proof.Machine.execTwoHandTimeout f s
  | .safreqLapse => Sys2Proof.Machine.execSafreqLapse s
  | .lockoutOffTest q pass => Sys2Proof.Machine.execLockoutOffTest q pass s
  | .startDiagnostics found => Sys2Proof.Machine.execStartDiagnostics found s
  | .mslOpen slot differ => Sys2Proof.Machine.execMslOpen slot differ s
  | .mslOpened slot differ => Sys2Proof.Machine.execMslOpened slot differ s
  | .mslCheck slot differ => Sys2Proof.Machine.execMslCheck slot differ s
  | .mslData slot differ => Sys2Proof.Machine.execMslData slot differ s
  | .mslOpenRetry slot => Sys2Proof.Machine.execMslOpenRetry slot s
  | .mslTimeout slot => Sys2Proof.Machine.execMslTimeout slot s
  | .mslProducerListen slot => Sys2Proof.Machine.execMslProducerListen slot s
  | .frameReceive m f => Sys2Proof.Machine.execFrameReceive m f s
  | .txDescriptorSubmit m q ds => Sys2Proof.Machine.execTxDescriptorSubmit m q ds s
  | .frameTransmitDone m r => Sys2Proof.Machine.execFrameTransmitDone m r s
  | .rxDescriptorReturn m bufs => Sys2Proof.Machine.execRxDescriptorReturn m bufs s
  | .addressAgeout addr => Sys2Proof.Machine.execAddressAgeout addr s
  | .linkDown m => Sys2Proof.Machine.execLinkDown m s
  | .linkUp m rate => Sys2Proof.Machine.execLinkUp m rate s
  | .rateWindow1s u => Sys2Proof.Machine.execRateWindow1s u s
  | .rateWindow100ms u => Sys2Proof.Machine.execRateWindow100ms u s
  | .queueWaitUpshift u q => Sys2Proof.Machine.execQueueWaitUpshift u q s
  | .rateChangeFail u => Sys2Proof.Machine.execRateChangeFail u s
  | .pauseFrame m quanta => Sys2Proof.Machine.execPauseFrame m quanta s
  | .pauseHoldEnd m => Sys2Proof.Machine.execPauseHoldEnd m s
  | .pauseWatchdog m => Sys2Proof.Machine.execPauseWatchdog m s
  | .pauseBreakEnd m => Sys2Proof.Machine.execPauseBreakEnd m s
  | .ptpSync e leap61 leap59 tai => Sys2Proof.Machine.execPtpSync e leap61 leap59 tai s
  | .ptpSyncTimeout => Sys2Proof.Machine.execPtpSyncTimeout s
  | .exchangeWindowOpen g => Sys2Proof.Machine.execExchangeWindowOpen g s
  | .exrep g r => Sys2Proof.Machine.execExrep g r s
  | .exchangeTimeout g => Sys2Proof.Machine.execExchangeTimeout g s
  | .acyc g node seq data => Sys2Proof.Machine.execAcyc g node seq data s
  | .canFrameSent c => Sys2Proof.Machine.execCanFrameSent c s
  | .canAttemptFail c why => Sys2Proof.Machine.execCanAttemptFail c why s
  | .canFrameReceived c f => Sys2Proof.Machine.execCanFrameReceived c f s
  | .ndRead c buf => Sys2Proof.Machine.execNdRead c buf s
  | .lostClear c buf v => Sys2Proof.Machine.execLostClear c buf v s
  | .headlong c => Sys2Proof.Machine.execHeadlong c s
  | .canRecoveryDone c => Sys2Proof.Machine.execCanRecoveryDone c s
  | .canBusIntegrated c => Sys2Proof.Machine.execCanBusIntegrated c s
  | .discovery port magic => Sys2Proof.Machine.execDiscovery port magic s
  | .dhcpRetry => Sys2Proof.Machine.execDhcpRetry s
  | .dhcpLease addr => Sys2Proof.Machine.execDhcpLease addr s
  | .tcpConnect cn port => Sys2Proof.Machine.execTcpConnect cn port s
  | .tlsHandshakeDone cn key => Sys2Proof.Machine.execTlsHandshakeDone cn key s
  | .loginTimeout cn => Sys2Proof.Machine.execLoginTimeout cn s
  | .sessionIdleTimeout cn => Sys2Proof.Machine.execSessionIdleTimeout cn s
  | .sessionClose cn => Sys2Proof.Machine.execSessionClose cn s
  | .login cn rq stage => Sys2Proof.Machine.execLogin cn rq stage s
  | .logout cn rq => Sys2Proof.Machine.execLogout cn rq s
  | .ping cn rq => Sys2Proof.Machine.execPing cn rq s
  | .read cn rq pts => Sys2Proof.Machine.execRead cn rq pts s
  | .write cn rq ws => Sys2Proof.Machine.execWrite cn rq ws s
  | .subscribe cn rq pts minint => Sys2Proof.Machine.execSubscribe cn rq pts minint s
  | .unsubscribe cn rq sub => Sys2Proof.Machine.execUnsubscribe cn rq sub s
  | .notify cn sub => Sys2Proof.Machine.execNotify cn sub s
  | .loopread cn rq loops => Sys2Proof.Machine.execLoopread cn rq loops s
  | .freeze cn rq pt v => Sys2Proof.Machine.execFreeze cn rq pt v s
  | .release cn rq pt => Sys2Proof.Machine.execRelease cn rq pt s
  | .txbegin cn rq => Sys2Proof.Machine.execTxbegin cn rq s
  | .txstage cn rq e more => Sys2Proof.Machine.execTxstage cn rq e more s
  | .txcommit cn rq => Sys2Proof.Machine.execTxcommit cn rq s
  | .txrollback cn rq => Sys2Proof.Machine.execTxrollback cn rq s
  | .txsign cn rq digest valid => Sys2Proof.Machine.execTxsign cn rq digest valid s
  | .txstatus cn rq => Sys2Proof.Machine.execTxstatus cn rq s
  | .libstore cn rq image => Sys2Proof.Machine.execLibstore cn rq image s
  | .libdel cn rq imageId => Sys2Proof.Machine.execLibdel cn rq imageId s
  | .evread cn rq start back n minsev => Sys2Proof.Machine.execEvread cn rq start back n minsev s
  | .evclear cn rq upto => Sys2Proof.Machine.execEvclear cn rq upto s
  | .statread cn rq => Sys2Proof.Machine.execStatread cn rq s
  | .safreset cn rq f => Sys2Proof.Machine.execSafreset cn rq f s
  | .safack cn rq f => Sys2Proof.Machine.execSafack cn rq f s
  | .mslack cn rq slot => Sys2Proof.Machine.execMslack cn rq slot s
  | .canabort cn rq c => Sys2Proof.Machine.execCanabort cn rq c s
  | .canrecover cn rq c => Sys2Proof.Machine.execCanrecover cn rq c s
  | .devreq cn rq g node toMs txid rxid data => Sys2Proof.Machine.execDevreq cn rq g node toMs txid rxid data s
  | .devreqTimeout g node => Sys2Proof.Machine.execDevreqTimeout g node s
  | .requestDequeue stage => Sys2Proof.Machine.execRequestDequeue stage s
  | .requestAgeShed stage => Sys2Proof.Machine.execRequestAgeShed stage s
  | .shedWindowEnd stage => Sys2Proof.Machine.execShedWindowEnd stage s
  | .txTimeout stage => Sys2Proof.Machine.execTxTimeout stage s
  | .serviceOpen => Sys2Proof.Machine.execServiceOpen s
  | .tenantAdmission => Sys2Proof.Machine.execTenantAdmission s
  | .timeget cn rq => Sys2Proof.Machine.execTimeget cn rq s
  | .setsec cn rq count => Sys2Proof.Machine.execSetsec cn rq count s
  | .setcal cn rq y mo d hh mi ss base => Sys2Proof.Machine.execSetcal cn rq y mo d hh mi ss base s
  | .setofs cn rq ofs => Sys2Proof.Machine.execSetofs cn rq ofs s
  | .dststep cn rq dir at_ => Sys2Proof.Machine.execDststep cn rq dir at_ s
  | .leap cn rq y mo d sign => Sys2Proof.Machine.execLeap cn rq y mo d sign s
  | .almset cn rq al w0 w1 w2 => Sys2Proof.Machine.execAlmset cn rq al w0 w1 w2 s
  | .timecfg cn rq w => Sys2Proof.Machine.execTimecfg cn rq w s
  | .rtcIncrement => Sys2Proof.Machine.execRtcIncrement s
  | .oscillatorStop => Sys2Proof.Machine.execOscillatorStop s
  | .vbatBrownout => Sys2Proof.Machine.execVbatBrownout s
  | .holdoverExpiry => Sys2Proof.Machine.execHoldoverExpiry s
  | .logWindowEnd owner code band => Sys2Proof.Machine.execLogWindowEnd owner code band s
  | .archiveCopy ok => Sys2Proof.Machine.execArchiveCopy ok s
  | .cryptoJobDone => Sys2Proof.Machine.execCryptoJobDone s
  | .keyReplaceDone kat => Sys2Proof.Machine.execKeyReplaceDone kat s
  | .keyRotationDue slot => Sys2Proof.Machine.execKeyRotationDue slot s
  | .tamper => Sys2Proof.Machine.execTamper s
  | .tamperLoopTest isOpen => Sys2Proof.Machine.execTamperLoopTest isOpen s
  | .vglitch => Sys2Proof.Machine.execVglitch s
  | .cglitch => Sys2Proof.Machine.execCglitch s
  | .tglitch => Sys2Proof.Machine.execTglitch s
  | .updstatus cn rq => Sys2Proof.Machine.execUpdstatus cn rq s
  | .updload cn rq kind off bytes last hashOk sigOk => Sys2Proof.Machine.execUpdload cn rq kind off bytes last hashOk sigOk s
  | .updstart cn rq w => Sys2Proof.Machine.execUpdstart cn rq w s
  | .updconfirm cn rq => Sys2Proof.Machine.execUpdconfirm cn rq s
  | .updabort cn rq => Sys2Proof.Machine.execUpdabort cn rq s
  | .updrecover cn rq => Sys2Proof.Machine.execUpdrecover cn rq s
  | .archexport cn rq unit => Sys2Proof.Machine.execArchexport cn rq unit s
  | .updateStepProven met => Sys2Proof.Machine.execUpdateStepProven met s
  | .updateProofTimeout => Sys2Proof.Machine.execUpdateProofTimeout s
  | .recoveryQuery host sq => Sys2Proof.Machine.execRecoveryQuery host sq s
  | .recoveryBegin host sq kind total => Sys2Proof.Machine.execRecoveryBegin host sq kind total s
  | .recoveryData host sq off bytes => Sys2Proof.Machine.execRecoveryData host sq off bytes s
  | .recoveryEnd host sq hashOk sigOk => Sys2Proof.Machine.execRecoveryEnd host sq hashOk sigOk s
  | .recoveryActivate host sq mask => Sys2Proof.Machine.execRecoveryActivate host sq mask s
  | .recoverySessionTimeout => Sys2Proof.Machine.execRecoverySessionTimeout s
  | .rotationTestChunk p okNormal okShort final => Sys2Proof.Machine.execRotationTestChunk p okNormal okShort final s
  | .scrub r => Sys2Proof.Machine.execScrub r s
  | .coreCheckpoint => Sys2Proof.Machine.execCoreCheckpoint s
  | .coreLockstepMismatch => Sys2Proof.Machine.execCoreLockstepMismatch s
  | .ageingMeasure margin => Sys2Proof.Machine.execAgeingMeasure margin s
  | .nandBlockFail => Sys2Proof.Machine.execNandBlockFail s
  | .dipStart vin => Sys2Proof.Machine.execDipStart vin s
  | .dipEnd vin => Sys2Proof.Machine.execDipEnd vin s
  | .powerFail => Sys2Proof.Machine.execPowerFail s
  | .powerGood b => Sys2Proof.Machine.execPowerGood b s
  | .bootWatchdog => Sys2Proof.Machine.execBootWatchdog s
  | .rstnAssert => Sys2Proof.Machine.execRstnAssert s
  | .swreset => Sys2Proof.Machine.execSwreset s
  | .auxOverload => Sys2Proof.Machine.execAuxOverload s
  | .auxRetry ovr => Sys2Proof.Machine.execAuxRetry ovr s
  | .registerWrite r v => Sys2Proof.Machine.execRegisterWrite r v s
  | .safetyFilterChange n lvl samples => Sys2Proof.Machine.execSafetyFilterChange n lvl samples s
  | .badCopy toField badA badB differ => Sys2Proof.Machine.execBadCopy toField badA badB differ s
  | .canReceiveError c lec inc => Sys2Proof.Machine.execCanReceiveError c lec inc s
  | .collision m late => Sys2Proof.Machine.execCollision m late s
  | .backoffExpiry m => Sys2Proof.Machine.execBackoffExpiry m s
  | .reservedEncoding p enc => Sys2Proof.Machine.execReservedEncoding p enc s
  | .unparsableMessage cn => Sys2Proof.Machine.execUnparsableMessage cn s
  | .oscillatorRestart => Sys2Proof.Machine.execOscillatorRestart s
  | .vbatRestore => Sys2Proof.Machine.execVbatRestore s
  | .fieldDieCooled => Sys2Proof.Machine.execFieldDieCooled s
  | .pinUpdate mw => Sys2Proof.Machine.execPinUpdate mw s

end Sys2Proof.Machine
end

