-- ==== Sys2Proof/Safety.lean ====
section
/-! DEFINITION. What counts as a safe run, in the terms that claims use: every step answers a next state. -/

namespace Sys2Proof
open Sys2Proof.Machine

/-- The step at a state completes. -/
def Completes (s : State) : Prop := ∃ t, step s = .next t

/-- A run of `n` steps completes. -/
def SafeFor (n : Nat) (s : State) : Prop := ∃ t, core.run n s = .next t

/-- The point image in its canonical form: keys rise, nothing listed reads as the default, and no stored quality
has a bit above [8:0]: bits [10:9] are reserved and STAGE [15:11] is read from the block tag (R15). -/
structure PointsOk (p : PointS) : Prop where
  ptsWf : Table.wf PV.zero p.pts = true
  retainedWf : Table.wf PV.zero p.retained = true
  frzWf : Table.wf none p.frz = true
  ptsQ : ∀ e ∈ p.pts, e.2.q &&& 0xFE00 = 0
  retainedQ : ∀ e ∈ p.retained, e.2.q &&& 0xFE00 = 0

/-- The tables of the takes, the stages, the loops, the local channels, the safety pair, the hosts and the
updates in their canonical form: keys rise, and
nothing listed is what an unlisted number reads as. -/
structure TablesOk (s : State) : Prop where
  takes : Table.wf ClassTake.idle s.takes = true
  stages : Table.wf StageRt.fresh s.progs.stg = true
  loops : Table.wf LoopRt.fresh s.loops.rt = true
  loopsKept : Table.wf LoopRt.fresh s.loops.kept = true
  di : Table.wf DiS.zero s.field.di = true
  dout : Table.wf DoS.zero s.field.dout = true
  ao : Table.wf AoS.zero s.field.ao = true
  enc : Table.wf EncS.zero s.field.enc = true
  safIn : Table.wf SinS.zero s.saf.ins = true
  safOut : Table.wf SqS.zero s.saf.sq = true
  safFn : Table.wf SfS.zero s.saf.sf = true
  safInB : Table.wf SinS.zero s.saf.insB = true
  safFnB : Table.wf SfS.zero s.saf.sfB = true
  mslSlot : Table.wf MslSlot.zero s.msl.slot = true
  conns : Table.wf none s.host.conns = true
  adm : Table.wf Admit.zero s.host.adm = true
  tx : Table.wf none s.host.tx = true
  bank : Table.wf Bank.erased s.upd.bank = true

end Sys2Proof
end

