-- ==== Sys2Proof/Certificates/Slice0/Obligations.lean ====
section
/-! DEFINITION. The statements for the provers: each `def Obligations.<Name> : Prop` formalises rules of the manual
about what the module does, and the definitions before them name what the statements speak of. -/

namespace Sys2Proof.Machine
open Sys2Proof

/-! ### What the statements about sections speak of -/

/-- The section `r` on pair `p` can execute the instruction of opcode `op` with operand `w`: its code word is sound, the
encoding is not reserved, and the instruction's cycles leave the count below W (R73, R78, R81). -/
abbrev CanRun (op : Nat) (w : BitVec 24) (p : Nat) (r : SecRun) (s : State) : Prop :=
  runOf s p = some r ∧ codeBad s r = false ∧ reservedOp op w = false ∧ r.cycles + cyclesOf op < r.w

/-- `t` is `s` with the section `r'` on pair `p`; nothing else differs, on the other pairs or elsewhere. -/
abbrev Ran (p : Nat) (r' : SecRun) (s t : State) : Prop :=
  runOf t p = some r' ∧ (∀ q, q ≠ p → runOf t q = runOf s q) ∧
    t = { s with eng := { s.eng with run := t.eng.run } }

/-- `r'` is the section `r` after one instruction of opcode `op`, which its machine state and its write buffer alone
show: its cycles are counted (R77), and its stage, number, class, scene and W stay. -/
abbrev Counted (op : Nat) (r r' : SecRun) : Prop :=
  r'.stage = r.stage ∧ r'.secno = r.secno ∧ r'.cls = r.cls ∧ r'.scene = r.scene ∧ r'.w = r.w ∧
    r'.cycles = r.cycles + cyclesOf op

/-- The instruction `i` of opcode `op` and operand `w` completes on pair `p` and turns the section `r` into one with
the machine state `c` and the write buffer `b`, changing nothing else. -/
def Gives (i : Instr) (op p : Nat) (r : SecRun) (s : State) (c : Core) (b : WBuf) : Prop :=
  ∃ t r', exec i s = .next t ∧ Ran p r' s t ∧ Counted op r r' ∧ r'.core = c ∧ r'.buf = b

/-- The machine state `c` with the PC on the next instruction. -/
def Core.next (c : Core) : Core := { c with pc := c.pc + 1 }

/-- The point that a bit operand names, directly or by its index local (R83), and that a word operand names (R85). -/
def bitPoint (c : Core) (w : BitVec 24) : Nat :=
  if w.toNat % 8 < 4 then w.toNat / 256
  else (w.toNat / 256 + (c.local_ (60 + w.toNat % 4)).1.toNat % 65536) % 65536
def wordPoint (c : Core) (w : BitVec 24) : Nat :=
  if w.toNat / 2 ^ 20 ≤ 1 then w.toNat % 65536
  else (w.toNat % 65536 + (c.local_ (60 + w.toNat / 65536 % 4)).1.toNat % 65536) % 65536

/-- The section may read the point: its stage may, an indirect reference is in its declared range, and the image word has no
uncorrectable error; and it may write it: its stage may, an indirect reference is in its declared range, and its write set
holds the point (R73). -/
abbrev ReadsAt (s : State) (r : SecRun) (pt : Nat) (ind : Bool) : Prop :=
  mayRead s r.stage pt = true ∧ (ind = true → inRange s r pt = true) ∧ imageBad s r pt = false
abbrev WritesAt (s : State) (r : SecRun) (pt : Nat) (ind : Bool) : Prop :=
  mayWrite s r.stage pt = true ∧ (ind = true → inRange s r pt = true) ∧ inWrSet s r pt = true

/-- The slot that an operand names is within the stage's allocation (R64, R91). -/
abbrev HasSlot (s : State) (r : SecRun) (ctr : Bool) (n : Nat) : Prop :=
  n < (if ctr then ctrCnt s r.stage else tmrCnt s r.stage)

/-- The operand of a bit instruction can be read, and written: a local word; a slot within the allocation; a point that the
section may read or write (R73, R83, R89). -/
def BitReadable (s : State) (r : SecRun) (w : BitVec 24) : Prop :=
  if w.toNat % 8 = 1 then True
  else if w.toNat % 8 = 3 then HasSlot s r (w.getLsbD 23) (w.toNat / 256 % 8192)
  else ReadsAt s r (bitPoint r.core w) (decide (4 ≤ w.toNat % 8))
def BitWritable (s : State) (r : SecRun) (w : BitVec 24) : Prop :=
  if w.toNat % 8 = 1 then True else WritesAt s r (bitPoint r.core w) (decide (4 ≤ w.toNat % 8))

/-- The operand of a word instruction can be read, and written (R73, R85, R86). -/
def WordReadable (s : State) (r : SecRun) (w : BitVec 24) : Prop :=
  if w.toNat / 2 ^ 20 = 2 ∨ w.toNat / 2 ^ 20 = 3 ∨ w.toNat / 2 ^ 20 = 4 then True
  else if w.toNat / 2 ^ 20 = 6 then HasSlot s r (w.getLsbD 19) (w.toNat % 8192)
  else ReadsAt s r (wordPoint r.core w) (decide (2 ≤ w.toNat / 2 ^ 20))
def WordWritable (s : State) (r : SecRun) (w : BitVec 24) : Prop :=
  if w.toNat / 2 ^ 20 = 2 then True
  else if w.toNat / 2 ^ 20 = 6 then HasSlot s r (w.getLsbD 19) (w.toNat % 8192)
  else WritesAt s r (wordPoint r.core w) (decide (2 ≤ w.toNat / 2 ^ 20))

/-- The value and the quality that a readable bit operand gives: of a local word its bit and its quality, of a slot its status
bit and recorded quality, of a point's quality word a bit with quality 0x01, of a point its bit with the carried quality, all in
the section's view (R55, R67, R83, R84). -/
def bitValue (s : State) (r : SecRun) (w : BitVec 24) : Bool × Byte :=
  let b := w.toNat / 8 % 32
  let pt := bitPoint r.core w
  if w.toNat % 8 = 1 then ((r.core.local_ (w.toNat / 256 % 64)).1.getLsbD b, (r.core.local_ (w.toNat / 256 % 64)).2)
  else if w.toNat % 8 = 3 then
    let t := timerView s r (w.toNat / 256 % 8192)
    let c := counterView s r (w.toNat / 256 % 8192)
    if w.getLsbD 23 then (if b = 0 then c.done else if b = 1 then c.zero else if b = 2 then c.sathi else c.satlo, c.qual)
    else (if b = 0 then t.q else t.run, t.qual)
  else if w.toNat % 8 = 2 then ((viewPV s r pt).q.getLsbD b, 1)
  else ((viewPV s r pt).val.getLsbD b, carried (viewPV s r pt).q)

/-- The same of a word operand: a point or, indirectly, one by its index local; a quality word; a local word; an immediate,
signed or of the upper half; a field of a slot (R67, R85, R86). -/
def wordValue (s : State) (r : SecRun) (w : BitVec 24) : Word × Byte :=
  let m := w.toNat / 2 ^ 20
  let pt := wordPoint r.core w
  if m = 2 then r.core.local_ (w.toNat % 64)
  else if m = 3 then ((w.setWidth 20).signExtend 32, 1)
  else if m = 4 then (BitVec.ofNat 32 (w.toNat % 65536 * 65536), 1)
  else if m = 6 then
    let t := timerView s r (w.toNat % 8192)
    let c := counterView s r (w.toNat % 8192)
    (if w.getLsbD 19 then (if w.toNat / 65536 % 8 = 0 then c.cv else c.pv) else (if w.toNat / 65536 % 8 = 0 then t.et else t.pt), 1)
  else if m = 1 then ((viewPV s r pt).q.setWidth 32, 1)
  else ((viewPV s r pt).val, carried (viewPV s r pt).q)

/-- A word with bit `b` replaced by `x`. -/
abbrev BitReplaced (old new : Word) (b : Nat) (x : Bool) : Prop :=
  ∀ i, i < 32 → new.getLsbD i = if i = b then x else old.getLsbD i

/-- What a bit store of `x` leaves of a section: nothing written without `x`; one bit of a local word, which takes BQ; or one
bit of the underlying value of a point in the section's view, which carries BQ (R68, R89). -/
def BitStored (s : State) (r : SecRun) (w : BitVec 24) (x : Option Bool) (loc : Table (Word × Byte)) (b : WBuf) : Prop :=
  match x with
  | none => loc = r.core.loc ∧ b = r.buf
  | some x =>
    if w.toNat % 8 = 1 then
      b = r.buf ∧ ∃ v, BitReplaced (r.core.local_ (w.toNat / 256 % 64)).1 v (w.toNat / 8 % 32) x ∧
        Table.get (0, 1) loc (w.toNat / 256 % 64) = (v, r.core.bq) ∧
        ∀ k, k ≠ w.toNat / 256 % 64 → Table.get (0, 1) loc k = r.core.local_ k
    else
      loc = r.core.loc ∧ b = { r.buf with pts := b.pts } ∧
        (∃ v, BitReplaced (underView s r (bitPoint r.core w)).val v (w.toNat / 8 % 32) x ∧
          Table.get none b.pts (bitPoint r.core w) = some (v, r.core.bq &&& 0xF7)) ∧
        ∀ k, k ≠ bitPoint r.core w → Table.get none b.pts k = Table.get none r.buf.pts k

/-- A timer as R92 steps it: Q, RUN, the stamp, and whether its timing has ended (TP, TOF). -/
structure TimerSt where
  q : Bool
  run : Bool
  s : Dword
  ended : Bool
  deriving DecidableEq

/-- The steps of R92 by opcode; `i` is the previous input. -/
def timerSteps (op : Nat) (pt : Word) (mt : Dword) (ba i : Bool) (x : TimerSt) : TimerSt :=
  let due (x : TimerSt) : Bool := decide (x.s.toNat + 1000 * pt.toNat ≤ mt.toNat)
  let x := if op = 0x31 && ba then { x with ended := false } else if op = 0x32 && !ba then { x with ended := false } else x
  if op = 0x30 then
    let y : TimerSt := if ba = false then { x with q := false, run := false }
      else if x.run = false ∧ x.q = false then { x with s := mt, run := true } else x
    if y.run && due y then { y with q := true, run := false } else y
  else if op = 0x31 then
    let y : TimerSt := if ba then { x with q := true, run := false }
      else if x.q = true ∧ x.run = false ∧ i = true then { x with s := mt, run := true } else x
    if y.run && due y then { y with q := false, run := false, ended := true } else y
  else if op = 0x32 then
    let y : TimerSt := if ba = true ∧ i = false ∧ x.run = false ∧ pt ≠ 0 then ⟨true, true, mt, false⟩ else x
    if y.run && due y then { y with q := false, run := false, ended := true } else y
  else if op = 0x33 then
    let y : TimerSt := if ba = true ∧ x.run = false then { x with s := mt - x.s, run := true }
      else if ba = false ∧ x.run = true then { x with s := mt - x.s, run := false } else x
    if y.run then (if due y then { y with q := true } else y)
    else if 1000 * pt.toNat ≤ y.s.toNat then { y with q := true } else y
  else if ba then ⟨false, false, 0, false⟩ else x

/-- ET after the steps, by the kind of the slot (R92); `pt` and the state as the steps leave them. -/
def timerEt (kind : Nat) (pt : Word) (mt : Dword) (x : TimerSt) : Nat :=
  let part (us : Nat) : Nat := min pt.toNat (us / 1000)
  if kind = 0x33 then part (if x.run then (mt - x.s).toNat else x.s.toNat)
  else if x.run then part (mt - x.s).toNat
  else if kind = 0x30 ∧ x.q = true then pt.toNat
  else if x.ended then pt.toNat
  else 0

/-- CV, U and D after a counter instruction (R93): the count holds at a limit. -/
def counterSteps (op : Nat) (ba : Bool) (c : Counter) : Int × Bool × Bool :=
  if op = 0x38 then (if ba && !c.u then min (c.cv.toInt + 1) (2 ^ 31 - 1) else c.cv.toInt, ba, c.d)
  else if op = 0x39 then (if ba && !c.d then max (c.cv.toInt - 1) (-2 ^ 31) else c.cv.toInt, c.u, ba)
  else if op = 0x3A then (if ba then c.pv.toInt else c.cv.toInt, c.u, c.d)
  else (if ba then 0 else c.cv.toInt, c.u, c.d)

/-- A word instruction of R94 to R100: its row, the result and quality it gives, and each flag of STW after it. -/
structure WordRow where
  instr : Nat → BitVec 24 → Instr
  op : Nat
  val : BitVec 24 → Core → Word
  qual : Core → Byte
  flag : BitVec 24 → Core → Nat → Bool

/-- The flags after a word result `v`: Z and N follow it, `c` gives C where the instruction sets it, and V, DZ and NAN
are sticky (R59, R95); BA, NC and LCLAMP stay. -/
def wordFlags (c : Core) (z n : Bool) (carry : Option Bool) (v dz nan : Bool) (i : Nat) : Bool :=
  if i = 2 then z else if i = 3 then n
  else if i = 4 then carry.getD (c.flag 4)
  else if i = 5 then c.flag 5 || v else if i = 6 then c.flag 6 || dz else if i = 7 then c.flag 7 || nan
  else c.flag i

/-- An exact integer does not fit in 32 signed bits. -/
def overflows (x : Int) : Bool := decide (x < -2 ^ 31) || decide (2 ^ 31 - 1 < x)

/-- A row whose result is the low 32 bits of an exact integer, with V where it does not fit (R62, R95). -/
def intRow (instr : Nat → BitVec 24 → Instr) (op : Nat) (f : Core → Int) (q : Core → Byte)
    (carry : Core → Option Bool) : WordRow :=
  { instr := instr, op := op, val := fun _ c => BitVec.ofInt 32 (f c), qual := q
    flag := fun _ c => wordFlags c (BitVec.ofInt 32 (f c) == 0) ((BitVec.ofInt 32 (f c)).getLsbD 31) (carry c)
      (overflows (f c)) false false }

/-- A row whose result is a word that a function of the operand field and the accumulators gives (R96). -/
def bitsRow (instr : Nat → BitVec 24 → Instr) (op : Nat) (f : BitVec 24 → Core → Word) (q : Core → Byte) : WordRow :=
  { instr := instr, op := op, val := f, qual := q
    flag := fun w c => wordFlags c (f w c == 0) ((f w c).getLsbD 31) none false false false }

/-- What a word row says of every section that can execute it: the result in WA, its quality in QA, the flags, and
every other part of the machine state and the write buffer as before. -/
def WordRow.holds (x : WordRow) : Prop :=
  ∀ p w r s, CanRun x.op w p r s →
    ∃ stw, Gives (x.instr p w) x.op p r s
        { r.core.next with wa := x.val w r.core, qa := x.qual r.core, stw := stw } r.buf ∧
      ∀ i, i < 16 → stw.getLsbD i = x.flag w r.core i

/-- The quality of a two-operand result (R67, R94). -/
def bothQual (c : Core) : Byte := comb c.qa c.qb

/-- The integer instructions of R94 but DIV and MOD. -/
def intRows : List WordRow :=
  [ intRow .addI 0x44 (fun c => c.wb.toInt + c.wa.toInt) bothQual (fun c => some (decide (2 ^ 32 ≤ c.wb.toNat + c.wa.toNat))),
    intRow .subI 0x45 (fun c => c.wb.toInt - c.wa.toInt) bothQual (fun c => some (decide (c.wb.toNat < c.wa.toNat))),
    intRow .mulI 0x46 (fun c => c.wb.toInt * c.wa.toInt) bothQual (fun _ => none),
    intRow .negI 0x49 (fun c => -c.wa.toInt) (fun c => c.qa) (fun _ => none),
    intRow .absI 0x4A (fun c => c.wa.toInt.natAbs) (fun c => c.qa) (fun _ => none),
    intRow .minI 0x4B (fun c => min c.wb.toInt c.wa.toInt) bothQual (fun _ => none),
    intRow .maxI 0x4C (fun c => max c.wb.toInt c.wa.toInt) bothQual (fun _ => none) ]

/-- A division row of R62 and R94: a zero divisor gives 0, sets DZ and V and adds FAULT; `v` is V's other case. -/
def divRow (instr : Nat → BitVec 24 → Instr) (op : Nat) (f : Int → Int → Int) (v : Core → Bool) : WordRow :=
  let x (c : Core) : Word := if c.wa = 0 then 0 else BitVec.ofInt 32 (f c.wb.toInt c.wa.toInt)
  { instr := instr, op := op, val := fun _ c => x c
    qual := fun c => if c.wa = 0 then bothQual c ||| 0x80 else bothQual c
    flag := fun _ c => wordFlags c (x c == 0) ((x c).getLsbD 31) none (decide (c.wa = 0) || v c) (decide (c.wa = 0)) false }

/-- DIV, whose quotient -2^31 / -1 sets V, and MOD, which then gives 0 and does not (R62, R95). -/
def divRows : List WordRow :=
  [ divRow .divI 0x47 Int.tdiv (fun c => decide (c.wb = 0x8000_0000) && decide (c.wa = 0xFFFF_FFFF)),
    divRow .modI 0x48 Int.tmod (fun _ => false) ]

/-- The bitwise instructions and the shifts of R96. -/
def bitRows : List WordRow :=
  [ bitsRow .andw 0x50 (fun _ c => c.wb &&& c.wa) bothQual, bitsRow .orw 0x51 (fun _ c => c.wb ||| c.wa) bothQual,
    bitsRow .xorw 0x52 (fun _ c => c.wb ^^^ c.wa) bothQual, bitsRow .notw 0x53 (fun _ c => ~~~c.wa) (fun c => c.qa),
    bitsRow .shl 0x54 (fun w c => c.wa <<< (w.toNat % 32)) (fun c => c.qa),
    bitsRow .shr 0x55 (fun w c => c.wa >>> (w.toNat % 32)) (fun c => c.qa),
    bitsRow .sar 0x56 (fun w c => BitVec.ofInt 32 (c.wa.toInt / 2 ^ (w.toNat % 32))) (fun c => c.qa),
    bitsRow .rol 0x57 (fun w c => c.wa <<< (w.toNat % 32) ||| c.wa >>> (32 - w.toNat % 32)) (fun c => c.qa) ]

/-! ### Binary32 values, independently of the machine's arithmetic (R62, R98) -/

/-- The exact value of a binary32 number; that of an infinity lies beyond every finite one. -/
def fVal (w : Word) : Rat := (if fSign w then -1 else 1) * (fMant w : Rat) * (2 : Rat) ^ (fPow w)

/-- The distance of two numbers. -/
def apart (x y : Rat) : Rat := if x ≤ y then y - x else x - y

/-- A finite binary32 number. -/
abbrev Finite (w : Word) : Prop := isNaN w = false ∧ isInf w = false

/-- `w` is the exact `x`, not zero, rounded to binary32: the nearest number, the even one of two as near, with the sign of `x`;
from halfway beyond the greatest number on the infinity of that sign, which sets V (R62, R98). -/
def RoundsTo (x : Rat) (w : Word) (v : Bool) : Prop :=
  fSign w = decide (x < 0) ∧ v = decide ((2 : Rat) ^ 128 - 2 ^ 103 ≤ apart x 0) ∧ isNaN w = false ∧ isInf w = v ∧
    (v = false → ∀ u, Finite u → apart (fVal w) x ≤ apart (fVal u) x ∧
      (apart (fVal u) x = apart (fVal w) x → fVal u ≠ fVal w → w.getLsbD 0 = false))

/-- `n` is the integer nearest to `x`, the even one of two as near (R99). -/
def NearestInt (x : Rat) (n : Int) : Prop := apart n x ≤ 1 / 2 ∧ (apart n x = 1 / 2 → n % 2 = 0)

/-- `w` is the integer `n` limited to 32 signed bits, and V says whether it was (R99). -/
def Limited (n : Int) (w : Word) (v : Bool) : Prop :=
  w.toInt = max (-2 ^ 31) (min (2 ^ 31 - 1) n) ∧ v = overflows n

/-- The instruction `i` completes on every section that can execute it: the result `y` in WA, its quality in QA with FAULT where
`y` says so, and the flags that R95 and R97 to R100 name; every other part of the machine state, the write buffer and the rest of
the machine stay. -/
def Computes (i : Instr) (op p : Nat) (w : BitVec 24) (r : SecRun) (s : State) (y : Alu) (q : Byte) : Prop :=
  CanRun op w p r s → ∃ t r', exec i s = .next t ∧ Ran p r' s t ∧ Counted op r r' ∧ r'.buf = r.buf ∧
    r'.core = { r.core.next with wa := y.val, qa := if y.fault then q ||| 0x80 else q, stw := r'.core.stw } ∧
    ∀ k, k < 16 → r'.core.stw.getLsbD k = wordFlags r.core y.z y.n y.c y.v y.dz y.nan k

/-- STW after a bit enters the chain with the value `ba`: NC is 0 (R60). -/
def chainStw (stw : Half) (ba : Bool) : Half := (stw &&& 0xFFFC) ||| (if ba then 1 else 0)

/-- The machine state after a bit `v` of quality `q` enters the chain under `f` (R60, R67). -/
def entered (f : Bool → Bool → Bool) (v : Bool) (q : Byte) (c : Core) : Core :=
  if c.stw.getLsbD 1 then { c with stw := chainStw c.stw v, bq := q }
  else { c with stw := chainStw c.stw (f (c.stw.getLsbD 0) v), bq := comb c.bq q }

/-- The machine state with NC set, as after an instruction that uses BA (R60). -/
def ncSet (c : Core) : Core := { c with stw := c.stw ||| 2 }

/-- A compare completes on every section that can execute it (R101): Z and N from WB against WA, NAN where it is unordered, and
its result enters the chain as an AND operand with the combined quality, FAULT added where it is unordered; nothing else changes. -/
def Compares (i : Instr) (op p : Nat) (r : SecRun) (s : State) (res z n nan : Bool) : Prop :=
  CanRun op 0 p r s → ∃ t r' stw, exec i s = .next t ∧ Ran p r' s t ∧ Counted op r r' ∧ r'.buf = r.buf ∧
    r'.core = entered and res (if nan then bothQual r.core ||| 0x80 else bothQual r.core) { r.core.next with stw := stw } ∧
    ∀ k, k < 16 → stw.getLsbD k = (if k = 2 then z else if k = 3 then n
      else if k = 7 then r.core.stw.getLsbD 7 || nan else r.core.stw.getLsbD k)

/-- The module runs: the commands of its engines and networks have their effect. -/
abbrev Running (s : State) : Prop := s.power.mode = .up

/-- A slot brings its frame to an end (R169): one copy at least is good with the expected SEQ, any SEQ on a link just trained, and
it does not repeat a frame already used. -/
def Arrives (h : FrameHdr) (e : BarEnd) : Prop :=
  ((h.goodA = true ∧ (e.a.synced = true → h.seq = e.a.expSeq)) ∨ (h.goodB = true ∧ (e.b.synced = true → h.seq = e.b.expSeq))) ∧
    (h.rep = true → e.prevGood = false)

/-- The header of a row of a frame to the field side. -/
def toFieldRow : Instr → Option FrameHdr
  | .idleFrame h => some h
  | .outcmd h _ => some h
  | .configFrame h _ => some h
  | .safreq h => some h
  | .barrierMslToPair h _ _ => some h
  | _ => none

/-- Scene `j` of class `k` is placed in this half-period of its take and is not done (R39). -/
abbrev SceneLeft (s : State) (k j : Nat) : Prop :=
  (j, halfOf s k) ∈ (takeOf s k).place ∧ j ∉ (takeOf s k).doneScenes

/-- The stage runs a program, has not overrun this take of the class, and has sections of it left (R45). -/
abbrev Late (s : State) (k st : Nat) : Prop :=
  stageOn s st = true ∧ stageRuns s st = true ∧ (Table.get StageTake.fresh (takeOf s k).stage st).ovr = false ∧
    sectionsLeft s k st = true

/-- The section `r` as its restart point has it (R69, R70). -/
abbrev atRestart (r : SecRun) : SecRun :=
  { r with core := r.rsCore, buf := r.rsBuf, cycles := r.rsCycles, ckI := 0, ckC := 0 }

/-- The process value and the set-point of loop `n` are usable at this sample (R151, R156). -/
abbrev usable (s : State) (n : Nat) : Prop :=
  (latchPoint s (loopOwner s n) (loopDesc s n).pvpt).2.getLsbD 0 = true ∧ (latchSp s n).2.getLsbD 0 = true

/-- The module runs and so do both halves of its safety pair. -/
abbrev PairUp (s : State) : Prop := Running s ∧ pairRuns s = true

/-- The two halves hold the same inputs and functions, and no telegram of theirs has differed since the last cycle (R198, R234). -/
abbrev HalvesAgree (s : State) : Prop := s.saf.insB = s.saf.ins ∧ s.saf.sfB = s.saf.sf ∧ s.saf.rowDiff = false

/-- What every row of a slot leaves alone: the image, the other slots, the safety functions and outputs. -/
abbrev OnlySlot (slot : Nat) (s t : State) : Prop :=
  t.points = s.points ∧ (∀ m, m ≠ slot → mslOf t m = mslOf s m) ∧ t.saf = s.saf ∧ t.msl.inForce = s.msl.inForce

/-! ### What the statements about hosts speak of -/

/-- The cores have issued one message more. -/
abbrev Issued (o : Out) (s t : State) : Prop := t.integ.issued = o :: s.integ.issued

/-- `c` is connection `cn` with a session. -/
abbrev InSession (cn : Nat) (c : Conn) (s : State) : Prop :=
  Running s ∧ connOf s cn = some c ∧ c.tls = true ∧ c.sess.isSome = true

/-- The session has room for one more operation, and its stage's bucket holds the cost (R20, R312, R331). -/
abbrev Ready (cn cost : Nat) (c : Conn) (s : State) : Prop :=
  InSession cn c s ∧ noRoom s c = false ∧ cost * tokUnit ≤ (filled s c.stage).tok

/-- The request `i` is answered at once with a status, and the image stays. -/
def Answers (i : Instr) (cn rq op status : Nat) (s t : State) : Prop :=
  exec i s = .next t ∧ (∃ pay, Issued (.resp cn rq op status 0 pay) s t) ∧ t.points = s.points

/-- Connection `cn` ends, and no other changes. -/
def Closes (cn : Nat) (s t : State) : Prop :=
  connOf t cn = none ∧ (∀ m, m ≠ cn → connOf t m = connOf s m) ∧ t.points = s.points

/-- The requests that run at once, with their connection, number, operation and cost (R314, R331). -/
def nowRequest : Instr → Option (Nat × Nat × Nat × Nat)
  | .write cn rq ws => some (cn, rq, 0x0011, 1 + (ws.length + 63) / 64)
  | .freeze cn rq _ _ => some (cn, rq, 0x0020, 2)
  | .release cn rq _ => some (cn, rq, 0x0021, 2)
  | .txbegin cn rq => some (cn, rq, 0x0030, 4)
  | .txcommit cn rq => some (cn, rq, 0x0032, 4)
  | .txrollback cn rq => some (cn, rq, 0x0033, 4)
  | .txsign cn rq _ _ => some (cn, rq, 0x0034, 4)
  | .txstatus cn rq => some (cn, rq, 0x0035, 1)
  | .libstore cn rq image => some (cn, rq, 0x0038, 4 + (image.length + 4_095) / 4_096)
  | .libdel cn rq _ => some (cn, rq, 0x0039, 4)
  | .evclear cn rq _ => some (cn, rq, 0x0041, 4)
  | .safreset cn rq _ => some (cn, rq, 0x0060, 2)
  | .safack cn rq _ => some (cn, rq, 0x0061, 2)
  | .mslack cn rq _ => some (cn, rq, 0x0062, 2)
  | .canabort cn rq _ => some (cn, rq, 0x0063, 2)
  | .canrecover cn rq _ => some (cn, rq, 0x0064, 2)
  | .devreq cn rq _ _ _ _ _ _ => some (cn, rq, 0x0070, 4)
  | .timeget cn rq => some (cn, rq, 0x0080, 4)
  | .setsec cn rq _ => some (cn, rq, 0x0081, 4)
  | .updstatus cn rq => some (cn, rq, 0x0090, 4)
  | _ => none

/-- The requests that a stage queues, likewise, with their category: 0 R, 1 S, 2 E, 3 X (R331). -/
def queuedRequest : Instr → Option (Nat × Nat × Nat × Nat × Nat × Req)
  | .read cn rq pts => some (cn, rq, 0x0010, 0, 1 + (pts.length + 63) / 64, .read pts)
  | .subscribe cn rq pts minint => some (cn, rq, 0x0012, 1, 1 + (pts.length + 63) / 64, .subscribe pts minint)
  | .unsubscribe cn rq sub => some (cn, rq, 0x0013, 1, 1, .unsubscribe sub)
  | .loopread cn rq loops => some (cn, rq, 0x0018, 0, 1 + (loops.length + 15) / 16, .loopread loops)
  | .evread cn rq start back n minsev => some (cn, rq, 0x0040, 2, 1 + (n + 15) / 16, .evread start back n minsev)
  | .statread cn rq => some (cn, rq, 0x0050, 3, 4, .statread)
  | _ => none

/-- The stage's queue is empty, takes one request, and the bucket keeps its reserve after serving it (R331). -/
abbrev Served (cn cost : Nat) (c : Conn) (s : State) : Prop :=
  InSession cn c s ∧ noRoom s c = false ∧ (admitOf s c.stage).queue = [] ∧ 1 ≤ qlen s c.stage ∧
    (8 * cost + tokburst s c.stage) * tokUnit ≤ 8 * (filled s c.stage).tok

/-- The session may use the update operations (R304, R393, R399). -/
abbrev MayUpdate (c : Conn) (s : State) : Prop :=
  hasRole c roUpdate = true ∧ c.stage = 0 ∧ (s.keys.locked = false ∨ custodian c.roles = true)

/-- A part of an image of `kind` that continues what its standby bank holds; `bs`: the bytes after it. -/
abbrev PartFits (kind off : Nat) (bytes bs : List Byte) (s : State) : Prop :=
  1 ≤ kind ∧ kind ≤ 6 ∧ s.upd.upd = none ∧ s.integ.nandOut = false ∧ (off = 0 ∨ s.upd.load = some (kind, off)) ∧
    bs = (if off = 0 then [] else (standbyBank s kind).bytes) ++ bytes

/-- The module has stopped: every output is off, no take goes on, sessions have ended, and the image is as it was. -/
abbrev Stopped (s t : State) : Prop :=
  t.power.mode = .down ∧ t.power.pfw = true ∧ t.takes = [] ∧ t.field.dout = [] ∧ t.field.ao = [] ∧ t.eng.run = [] ∧
    t.slate.started = false ∧ t.host.conns = [] ∧ t.host.svcOpen = false ∧ t.integ.issued = [] ∧ t.keys.root = none ∧
    t.points = s.points

/-- A start with these facts boots from the banks in service: the module is down, no update or recovery is pending, and
every image in service is valid and fits the others (R401 to R403). -/
abbrev Bootable (b : BootFacts) (s : State) : Prop :=
  s.power.mode = .down ∧ b.recov = false ∧ s.upd.bootCnt = 0 ∧ s.variant ≠ 0 ∧ s.variant.toNat ≤ 3 ∧ s.upd.recover = false ∧
    s.upd.upd = none ∧ s.integ.cfgBad = [] ∧ setRuns s b (inB s) = true

end Sys2Proof.Machine

open Sys2Proof Sys2Proof.Machine

/-! ## The queue and the whole machine -/

/-- A step takes the command at the front of the queue and executes it on the state with the rest of the queue. -/
def Obligations.StepExecutesFront : Prop :=
  ∀ (c : Instr) (rest : List Instr) (s : State), s.pending = c :: rest → step s = exec c { s with pending := rest }

/-- On an empty queue the block idles, and its clock advances by one tick: the model's choice (log entry 1). -/
def Obligations.EmptyQueueIdles : Prop :=
  ∀ s : State, s.pending = [] → step s = .next { s with now := s.now + 1 }

/-- Every command has an effect in every state: no command stops the block. -/
def Obligations.EveryCommandCompletes : Prop :=
  ∀ (c : Instr) (s : State), ∃ t, exec c s = .next t

/-- A command changes neither the queue behind it nor the clock nor the variant fuses, and it reuses no free value. -/
def Obligations.CommandsKeepQueueClockAndVariant : Prop :=
  ∀ (c : Instr) (s t : State), exec c s = .next t →
    t.pending = s.pending ∧ t.now = s.now ∧ t.variant = s.variant ∧ s.freeCtr ≤ t.freeCtr

/-- Every step keeps the point image and the tables sound: canonical tables, which list nothing that an unlisted number
reads as, and no quality with a bit above [8:0] (R15). -/
def Obligations.EveryStepKeepsImageAndTables : Prop :=
  ∀ s t : State, PointsOk s.points → TablesOk s → step s = .next t → PointsOk t.points ∧ TablesOk t

/-- The point image and the tables are sound at reset. -/
def Obligations.ResetImageAndTables : Prop := PointsOk State.reset.points ∧ TablesOk State.reset

/-! ## Ecmund instructions -/

/-- The integer and bitwise instructions. ADD, SUB, MUL, NEG, ABS, MIN and MAX: the exact integer result modulo 2^32, V
where it does not fit, the carry and the borrow. DIV and MOD by zero give 0, set DZ and V and add FAULT; otherwise the quotient
truncates toward zero, the remainder has the sign of the dividend, and -2^31 / -1 gives -2^31 and sets V. The bitwise
instructions and the shifts by the count in [4:0], 1 cycle each; a count of 0 leaves WA. Nothing else changes (R62, R94 to
R96). -/
def Obligations.IntegerInstructions : Prop :=
  (∀ x ∈ intRows ++ divRows ++ bitRows, x.holds) ∧ (∀ x ∈ bitRows, cyclesOf x.op = 1) ∧
  (∀ x ∈ bitRows, 0x54 ≤ x.op → ∀ c, x.val 0 c = c.wa)

/-- The binary32 and Q16.16 instructions and the conversions, each of which completes on every section that can execute it, with
its result in WA. A binary32 sum, difference, product and quotient is the exact one rounded to nearest; an infinity gives what IEEE
754 gives; division of a number by a zero gives an infinity and sets DZ; a NaN operand gives the canonical quiet NaN, sets NAN and
adds FAULT; NEGF and ABSF change the sign bit alone; MINF and MAXF take the lesser and the greater, -0 below +0. Q16.16 results are
exact, rounded to nearest and limited; a zero divisor gives 0. The conversions round to nearest and saturate (R62, R97 to R100). -/
def Obligations.RealInstructions : Prop :=
  (∀ p w r s,
    Computes (.addf p w) 0x60 p w r s (aluAddF r.core.wb r.core.wa) (bothQual r.core) ∧
    Computes (.subf p w) 0x61 p w r s (aluSubF r.core.wb r.core.wa) (bothQual r.core) ∧
    Computes (.mulf p w) 0x62 p w r s (aluMulF r.core.wb r.core.wa) (bothQual r.core) ∧
    Computes (.divf p w) 0x63 p w r s (aluDivF r.core.wb r.core.wa) (bothQual r.core) ∧
    Computes (.minf p w) 0x66 p w r s (aluMinF r.core.wb r.core.wa) (bothQual r.core) ∧
    Computes (.maxf p w) 0x67 p w r s (aluMaxF r.core.wb r.core.wa) (bothQual r.core) ∧
    Computes (.addq p w) 0x68 p w r s (aluAddQ r.core.wb r.core.wa) (bothQual r.core) ∧
    Computes (.subq p w) 0x69 p w r s (aluSubQ r.core.wb r.core.wa) (bothQual r.core) ∧
    Computes (.mulq p w) 0x6A p w r s (aluMulQ r.core.wb r.core.wa) (bothQual r.core) ∧
    Computes (.divq p w) 0x6B p w r s (aluDivQ r.core.wb r.core.wa) (bothQual r.core) ∧
    Computes (.negf p w) 0x64 p w r s (aluNegF r.core.wa) r.core.qa ∧
    Computes (.absf p w) 0x65 p w r s (aluAbsF r.core.wa) r.core.qa ∧
    Computes (.itf p w) 0x70 p w r s (aluItf r.core.wa) r.core.qa ∧
    Computes (.fti p w) 0x71 p w r s (aluFti r.core.wa) r.core.qa ∧
    Computes (.itq p w) 0x72 p w r s (aluItq r.core.wa) r.core.qa ∧
    Computes (.qti p w) 0x73 p w r s (aluQti r.core.wa) r.core.qa ∧
    Computes (.ftq p w) 0x74 p w r s (aluFtq r.core.wa) r.core.qa ∧
    Computes (.qtf p w) 0x75 p w r s (aluQtf r.core.wa) r.core.qa) ∧
  (∀ b a : Word, (isNaN b = true ∨ isNaN a = true) →
    ∀ f ∈ [aluAddF, aluSubF, aluMulF, aluDivF, aluMinF, aluMaxF],
      (f b a).val = 0x7FC0_0000 ∧ (f b a).nan = true ∧ (f b a).fault = true ∧ (f b a).dz = false ∧ (f b a).v = false) ∧
  (∀ b a : Word, Finite b → Finite a →
    (fVal b + fVal a ≠ 0 → RoundsTo (fVal b + fVal a) (aluAddF b a).val (aluAddF b a).v) ∧
    (fVal b + fVal a = 0 → (aluAddF b a).val = (if fSign b && fSign a then 0x8000_0000 else 0) ∧ (aluAddF b a).v = false) ∧
    (fVal b - fVal a ≠ 0 → RoundsTo (fVal b - fVal a) (aluSubF b a).val (aluSubF b a).v) ∧
    (fVal b * fVal a ≠ 0 → RoundsTo (fVal b * fVal a) (aluMulF b a).val (aluMulF b a).v) ∧
    (fVal a ≠ 0 → fVal b ≠ 0 → RoundsTo (fVal b / fVal a) (aluDivF b a).val (aluDivF b a).v) ∧
    (fVal a = 0 → fVal b ≠ 0 → (aluDivF b a).val = (if fSign b != fSign a then 0xFF80_0000 else 0x7F80_0000) ∧
      (aluDivF b a).dz = true ∧ (aluDivF b a).v = false ∧ (aluDivF b a).fault = false) ∧
    (fVal a = 0 → fVal b = 0 → (aluDivF b a).val = 0x7FC0_0000 ∧ (aluDivF b a).dz = true ∧ (aluDivF b a).nan = true ∧
      (aluDivF b a).fault = true) ∧
    (fVal b * fVal a = 0 → (aluMulF b a).val = (if fSign b != fSign a then 0x8000_0000 else 0) ∧ (aluMulF b a).v = false) ∧
    (fVal a ≠ 0 → fVal b = 0 → (aluDivF b a).val = (if fSign b != fSign a then 0x8000_0000 else 0) ∧
      (aluDivF b a).v = false ∧ (aluDivF b a).dz = false)) ∧
  (∀ b a : Word, isNaN b = false → isNaN a = false →
    (aluMinF b a).val ∈ [b, a] ∧ fVal (aluMinF b a).val ≤ fVal b ∧ fVal (aluMinF b a).val ≤ fVal a ∧
    (aluMaxF b a).val ∈ [b, a] ∧ fVal b ≤ fVal (aluMaxF b a).val ∧ fVal a ≤ fVal (aluMaxF b a).val) ∧
  ((aluMinF 0 0x8000_0000).val = 0x8000_0000 ∧ (aluMinF 0x8000_0000 0).val = 0x8000_0000 ∧
    (aluMaxF 0 0x8000_0000).val = 0 ∧ (aluMaxF 0x8000_0000 0).val = 0) ∧
  (∀ b a : Word, isNaN b = false → isInf a = true →
    (isInf b = false → (aluAddF b a).val = a ∧ (aluAddF b a).v = false ∧ (aluDivF b a).v = false ∧
      fVal (aluDivF b a).val = 0) ∧
    (isInf b = true → fSign b ≠ fSign a → (aluAddF b a).val = 0x7FC0_0000 ∧ (aluAddF b a).nan = true) ∧
    (fVal b ≠ 0 → isInf (aluMulF b a).val = true ∧ (aluMulF b a).v = false ∧
      fSign (aluMulF b a).val = (fSign b != fSign a)) ∧
    (fVal b = 0 → (aluMulF b a).val = 0x7FC0_0000 ∧ (aluMulF b a).nan = true)) ∧
  (∀ a : Word, (aluNegF a).val = a ^^^ 0x8000_0000 ∧ (aluAbsF a).val = a &&& 0x7FFF_FFFF ∧
    ∀ f ∈ [aluNegF, aluAbsF], (f a).v = false ∧ (f a).dz = false ∧ (f a).nan = false ∧ (f a).fault = false) ∧
  (∀ b a : Word, Limited (b.toInt + a.toInt) (aluAddQ b a).val (aluAddQ b a).v ∧
    Limited (b.toInt - a.toInt) (aluSubQ b a).val (aluSubQ b a).v ∧
    (∃ n, NearestInt ((b.toInt : Rat) * a.toInt / 65536) n ∧ Limited n (aluMulQ b a).val (aluMulQ b a).v) ∧
    (a ≠ 0 → ∃ n, NearestInt ((b.toInt : Rat) * 65536 / a.toInt) n ∧ Limited n (aluDivQ b a).val (aluDivQ b a).v) ∧
    (a = 0 → (aluDivQ b a).val = 0 ∧ (aluDivQ b a).dz = true ∧ (aluDivQ b a).v = true ∧ (aluDivQ b a).fault = true)) ∧
  (∀ a : Word,
    (a ≠ 0 → RoundsTo (a.toInt : Rat) (aluItf a).val (aluItf a).v ∧
      RoundsTo ((a.toInt : Rat) / 65536) (aluQtf a).val (aluQtf a).v) ∧
    Limited (a.toInt * 65536) (aluItq a).val (aluItq a).v ∧
    NearestInt ((a.toInt : Rat) / 65536) (aluQti a).val.toInt ∧ (aluQti a).v = false ∧
    (Finite a → (∃ n, NearestInt (fVal a) n ∧ Limited n (aluFti a).val (aluFti a).v) ∧
      ∃ n, NearestInt (fVal a * 65536) n ∧ Limited n (aluFtq a).val (aluFtq a).v) ∧
    (isInf a = true → ∀ f ∈ [aluFti, aluFtq], (f a).val = (if fSign a then 0x8000_0000 else 0x7FFF_FFFF) ∧ (f a).v = true) ∧
    (isNaN a = true → ∀ f ∈ [aluFti, aluFtq], (f a).val = 0 ∧ (f a).nan = true ∧ (f a).fault = true ∧ (f a).v = false))

/-- The compares, each of which completes on every section that can execute it: signed ones of the integers, and those of binary32
by value, -0 equal to +0. An unordered compare of binary32 gives 0, NEF gives 1, with Z and N 0, NAN set and FAULT in the quality
that enters (R101). -/
def Obligations.CompareInstructions : Prop :=
  (∀ p r s,
    let b := r.core.wb.toInt
    let a := r.core.wa.toInt
    Compares (.eqi p 0) 0x80 p r s (decide (b = a)) (decide (b = a)) (decide (b < a)) false ∧
    Compares (.nei p 0) 0x81 p r s (decide (b ≠ a)) (decide (b = a)) (decide (b < a)) false ∧
    Compares (.gti p 0) 0x82 p r s (decide (a < b)) (decide (b = a)) (decide (b < a)) false ∧
    Compares (.gei p 0) 0x83 p r s (decide (a ≤ b)) (decide (b = a)) (decide (b < a)) false ∧
    Compares (.lti p 0) 0x84 p r s (decide (b < a)) (decide (b = a)) (decide (b < a)) false ∧
    Compares (.lei p 0) 0x85 p r s (decide (b ≤ a)) (decide (b = a)) (decide (b < a)) false) ∧
  (∀ p r s, isNaN r.core.wb = false → isNaN r.core.wa = false →
    let b := fVal r.core.wb
    let a := fVal r.core.wa
    Compares (.eqf p 0) 0x88 p r s (decide (b = a)) (decide (b = a)) (decide (b < a)) false ∧
    Compares (.nef p 0) 0x89 p r s (decide (b ≠ a)) (decide (b = a)) (decide (b < a)) false ∧
    Compares (.gtf p 0) 0x8A p r s (decide (a < b)) (decide (b = a)) (decide (b < a)) false ∧
    Compares (.gef p 0) 0x8B p r s (decide (a ≤ b)) (decide (b = a)) (decide (b < a)) false ∧
    Compares (.ltf p 0) 0x8C p r s (decide (b < a)) (decide (b = a)) (decide (b < a)) false ∧
    Compares (.lef p 0) 0x8D p r s (decide (b ≤ a)) (decide (b = a)) (decide (b < a)) false) ∧
  (∀ p r s, isNaN r.core.wb = true ∨ isNaN r.core.wa = true →
    Compares (.eqf p 0) 0x88 p r s false false false true ∧ Compares (.nef p 0) 0x89 p r s true false false true ∧
    Compares (.gtf p 0) 0x8A p r s false false false true ∧ Compares (.gef p 0) 0x8B p r s false false false true ∧
    Compares (.ltf p 0) 0x8C p r s false false false true ∧ Compares (.lef p 0) 0x8D p r s false false false true)

/-- The bit-logic instructions of R87, whole. BAND to BXORN, in every operand form: an operand that can be read enters the
chain, inverted for the N forms. BNOT inverts BA in any NC state and leaves BQ; BA1 and BA0 load a bit of quality 0x01; BFLG enters a flag, inverted
where [4] is 1, and its bit numbers 0, 1 and 9 to 15 are reserved. NC is 0 after each, and each takes 1 cycle (R60, R87). -/
def Obligations.BitLogicInstructions : Prop :=
  (∀ x ∈ ([(.band, 0x10, and, false), (.bandn, 0x11, and, true), (.bor, 0x12, or, false), (.born, 0x13, or, true),
      (.bxor, 0x14, xor, false), (.bxorn, 0x15, xor, true)] :
      List ((Nat → BitVec 24 → Instr) × Nat × (Bool → Bool → Bool) × Bool)),
    ∀ p w r s, CanRun x.2.1 w p r s → BitReadable s r w →
      Gives (x.1 p w) x.2.1 p r s
        (entered x.2.2.1 ((bitValue s r w).1 != x.2.2.2) (bitValue s r w).2 r.core).next r.buf) ∧
  (∀ p r s, CanRun 0x16 0 p r s →
    Gives (.bnot p 0) 0x16 p r s { r.core.next with stw := chainStw r.core.stw (!r.core.stw.getLsbD 0) } r.buf) ∧
  (∀ p r s, CanRun 0x17 0 p r s →
    Gives (.ba1 p 0) 0x17 p r s { r.core.next with stw := chainStw r.core.stw true, bq := 1 } r.buf) ∧
  (∀ p r s, CanRun 0x18 0 p r s →
    Gives (.ba0 p 0) 0x18 p r s { r.core.next with stw := chainStw r.core.stw false, bq := 1 } r.buf) ∧
  (∀ p w r s, CanRun 0x1E w p r s →
    Gives (.bflg p w) 0x1E p r s
      (entered and (r.core.stw.getLsbD (w.toNat % 16) != w.getLsbD 4) 1 r.core).next r.buf) ∧
  (∀ w : BitVec 24, reservedOp 0x1E w = false ↔ w.toNat < 32 ∧ 2 ≤ w.toNat % 16 ∧ w.toNat % 16 ≤ 8) ∧
  (∀ op ∈ [0x10, 0x11, 0x12, 0x13, 0x14, 0x15, 0x16, 0x17, 0x18, 0x1E], cyclesOf op = 1)

/-- The brackets: a push stores BA, BQ, NC and its code and sets NC; POPC combines under the popped code, or lets BA and
BQ stand where the push opened a chain; a 33rd push and a POPC of an empty stack raise STK; each takes 1 cycle (R61,
R88). -/
def Obligations.BracketInstructions : Prop :=
  (∀ x ∈ ([(.pusha, 0x19, 0), (.pushan, 0x1A, 1), (.pusho, 0x1B, 2), (.pushx, 0x1C, 3)] :
      List ((Nat → BitVec 24 → Instr) × Nat × BitVec 2)),
    ∀ p r s, CanRun x.2.1 0 p r s →
      (r.core.br.length < 32 → Gives (x.1 p 0) x.2.1 p r s
        { ncSet r.core.next with
          br := ⟨r.core.stw.getLsbD 0, r.core.bq, r.core.stw.getLsbD 1, x.2.2⟩ :: r.core.br } r.buf) ∧
      (32 ≤ r.core.br.length → exec (x.1 p 0) s = .next (haltSection p r fSTK s))) ∧
  (∀ p r s, CanRun 0x1D 0 p r s →
      (∀ e rest, r.core.br = e :: rest → e.nc = true → Gives (.popc p 0) 0x1D p r s
        { r.core.next with br := rest, stw := chainStw r.core.stw (r.core.stw.getLsbD 0) } r.buf) ∧
      (∀ e rest, r.core.br = e :: rest → e.nc = false → Gives (.popc p 0) 0x1D p r s
        { r.core.next with br := rest, bq := comb e.bq r.core.bq
                           stw := chainStw r.core.stw (
                             if e.op = 0 then e.ba && r.core.stw.getLsbD 0
                             else if e.op = 1 then e.ba && !r.core.stw.getLsbD 0
                             else if e.op = 2 then e.ba || r.core.stw.getLsbD 0
                             else e.ba != r.core.stw.getLsbD 0) } r.buf) ∧
      (r.core.br = [] → exec (.popc p 0) s = .next (haltSection p r fSTK s))) ∧
  (∀ op ∈ [0x19, 0x1A, 0x1B, 0x1C, 0x1D], cyclesOf op = 1)

/-- STB, STBN, SETB and CLRB complete for every operand that the section may write, in each of its forms PNT, LOC and IND:
STB stores BA, STBN its inverse, and SETB and CLRB store 1 and 0 where BA = 1 and nothing where BA = 0; each then sets NC and
takes 1 cycle. A point that may not be written halts the section, in the order of R73, also with BA = 0 (R60, R68, R73, R89). -/
def Obligations.BitStoreInstructions : Prop :=
  (∀ x ∈ ([(.stb, 0x20, fun ba => some ba), (.stbn, 0x21, fun ba => some (!ba)),
      (.setb, 0x22, fun ba => if ba then some true else none), (.clrb, 0x23, fun ba => if ba then some false else none)] :
      List ((Nat → BitVec 24 → Instr) × Nat × (Bool → Option Bool))),
    cyclesOf x.2.1 = 1 ∧ ∀ p w r s, CanRun x.2.1 w p r s →
      (BitWritable s r w → Table.wf (0, 1) r.core.loc = true →
        ∃ loc b, Gives (x.1 p w) x.2.1 p r s { ncSet r.core.next with loc := loc } b ∧
          BitStored s r w (x.2.2 (r.core.stw.getLsbD 0)) loc b) ∧
      (w.toNat % 8 ≠ 1 →
        let pt := bitPoint r.core w
        let ind := decide (4 ≤ w.toNat % 8)
        (mayWrite s r.stage pt = false → exec (x.1 p w) s = .next (haltSection p r (fTAGW pt) s)) ∧
        (mayWrite s r.stage pt = true → ind = true → inRange s r pt = false →
          exec (x.1 p w) s = .next (haltSection p r (fIDX pt) s)) ∧
        (mayWrite s r.stage pt = true → (ind = true → inRange s r pt = true) → inWrSet s r pt = false →
          exec (x.1 p w) s = .next (haltSection p r (fWSET pt) s))))

/-- RISE and FALL complete for every memory point that the section may write: the memory bit of the section's view, forced
under a freeze, gives the edge, BA enters the memory as a bit store and then becomes the edge; NC and BQ stay (R90). -/
def Obligations.EdgeInstructions : Prop :=
  ∀ x ∈ ([(.rise, 0x24, fun ba m => ba && !m), (.fall, 0x25, fun ba m => !ba && m)] :
      List ((Nat → BitVec 24 → Instr) × Nat × (Bool → Bool → Bool))),
    cyclesOf x.2.1 = 1 ∧ ∀ p w r s, CanRun x.2.1 w p r s → BitWritable s r w →
      ∃ loc b, Gives (x.1 p w) x.2.1 p r s
        { r.core.next with stw := (r.core.stw &&& 0xFFFE) ||| (if x.2.2 (r.core.stw.getLsbD 0)
            ((viewPV s r (w.toNat / 256)).val.getLsbD (w.toNat / 8 % 32)) then 1 else 0) } b ∧
        loc = r.core.loc ∧ BitStored s r w (some (r.core.stw.getLsbD 0)) loc b

/-- TON, TOF, TP, TONR and TRES complete for every slot within the stage's allocation. With PW = 1 PT takes WA, 0 and V
where WA is negative; then the slot in the section's view takes the steps of R92 with the take's MT and keeps BA as I; ET
follows, and a TRES gives no ET of a timing that has ended, nor does another kind's instruction; the quality is BQ, combined with QA where PW is 1; NC is set, and each takes 1 cycle. Beyond
the allocation the section halts with OPC (R81, R86, R91, R92). -/
def Obligations.TimerInstructions : Prop :=
  ∀ x ∈ ([(.ton, 0x30), (.tof, 0x31), (.tp, 0x32), (.tonr, 0x33), (.tres, 0x34)] :
      List ((Nat → BitVec 24 → Instr) × Nat)),
    cyclesOf x.2 = 1 ∧ ∀ p (w : BitVec 24) r s, CanRun x.2 w p r s →
      let n := w.toNat % 8192
      let pw := w.getLsbD 23
      let neg := r.core.wa.getLsbD 31
      let ba := r.core.stw.getLsbD 0
      let mt := (takeOf s r.cls).mt
      let v := timerView s r n
      let pt := if pw then (if neg then 0 else r.core.wa) else v.pt
      let new := timerSteps x.2 pt mt ba v.i ⟨v.q, v.run, v.s, v.ended && (x.2 == 0x34 || x.2 == v.kind)⟩
      (n < tmrCnt s r.stage →
        ∃ t r', exec (x.1 p w) s = .next t ∧ Ran p r' s t ∧ Counted x.2 r r' ∧
          r'.core = { r.core.next with stw := (if pw && neg then r.core.stw ||| 0x20 else r.core.stw) ||| 2 } ∧
          (∃ u, Table.get none r'.buf.tmr n = some u ∧ u.pt = pt ∧ (⟨u.q, u.run, u.s, u.ended⟩ : TimerSt) = new ∧ u.i = ba ∧
            u.kind = (if x.2 = 0x34 then v.kind else x.2) ∧ u.qual = (if pw then comb r.core.bq r.core.qa else r.core.bq) ∧
            u.et.toNat = (if x.2 = 0x34 ∧ ba = true then 0
              else timerEt u.kind pt mt { new with ended := new.ended && x.2 != 0x34 })) ∧
          (∀ k, k ≠ n → Table.get none r'.buf.tmr k = Table.get none r.buf.tmr k) ∧
          r'.buf = { r.buf with tmr := r'.buf.tmr }) ∧
      (tmrCnt s r.stage ≤ n → exec (x.1 p w) s = .next (haltSection p r fOPC s))

/-- CTU, CTD, CLD and CRS complete for every slot within the stage's allocation. With PW = 1 PV takes WA; then CTU and CTD
count a rising BA and hold at the limit, CLD loads the preset, CRS clears; the status bits follow the count; the quality is BQ,
combined with QA where PW is 1; NC is set, and each takes 1 cycle. Beyond the allocation the section halts with OPC (R81, R91,
R93). -/
def Obligations.CounterInstructions : Prop :=
  ∀ x ∈ ([(.ctu, 0x38), (.ctd, 0x39), (.cld, 0x3A), (.crs, 0x3B)] : List ((Nat → BitVec 24 → Instr) × Nat)),
    cyclesOf x.2 = 1 ∧ ∀ p (w : BitVec 24) r s, CanRun x.2 w p r s →
      let n := w.toNat % 8192
      let pw := w.getLsbD 23
      let v := counterView s r n
      let pv := if pw then r.core.wa else v.pv
      let new := counterSteps x.2 (r.core.stw.getLsbD 0) { v with pv := pv }
      (n < ctrCnt s r.stage →
        ∃ t r', exec (x.1 p w) s = .next t ∧ Ran p r' s t ∧ Counted x.2 r r' ∧ r'.core = (ncSet r.core).next ∧
          (∃ u, Table.get none r'.buf.ctr n = some u ∧ u.pv = pv ∧ (u.cv.toInt, u.u, u.d) = new ∧
            u.done = decide (pv.toInt ≤ new.1) ∧ u.zero = decide (new.1 = 0) ∧ u.sathi = decide (new.1 = 2 ^ 31 - 1) ∧
            u.satlo = decide (new.1 = -2 ^ 31) ∧ u.qual = (if pw then comb r.core.bq r.core.qa else r.core.bq)) ∧
          (∀ k, k ≠ n → Table.get none r'.buf.ctr k = Table.get none r.buf.ctr k) ∧
          r'.buf = { r.buf with ctr := r'.buf.ctr }) ∧
      (ctrCnt s r.stage ≤ n → exec (x.1 p w) s = .next (haltSection p r fOPC s))

/-- LDA and LDB complete for every operand that the section may read, in each of its forms, and bring its value and quality into
WA and QA or WB and QB. STA completes for every operand that it may write: a local word takes WA and QA; a point enters the
write buffer with WA and the carried QA; CV, PV or PT of a slot takes WA, where a CV moves the status bits at once and a
negative PT is 0 and sets V. XAB exchanges the accumulators; SEL chooses by BA (R67, R68, R85, R86, R94). -/
def Obligations.LoadAndStoreInstructions : Prop :=
  (∀ p w r s, CanRun 0x40 w p r s → WordReadable s r w →
    Gives (.lda p w) 0x40 p r s { r.core.next with wa := (wordValue s r w).1, qa := (wordValue s r w).2 } r.buf) ∧
  (∀ p w r s, CanRun 0x4D w p r s → WordReadable s r w →
    Gives (.ldb p w) 0x4D p r s { r.core.next with wb := (wordValue s r w).1, qb := (wordValue s r w).2 } r.buf) ∧
  (∀ p (w : BitVec 24) r s, CanRun 0x41 w p r s → WordWritable s r w → w.toNat / 2 ^ 20 = 2 → Table.wf (0, 1) r.core.loc = true →
    ∃ loc, Gives (.sta p w) 0x41 p r s { r.core.next with loc := loc } r.buf ∧
      Table.get (0, 1) loc (w.toNat % 64) = (r.core.wa, r.core.qa) ∧
      ∀ k, k ≠ w.toNat % 64 → Table.get (0, 1) loc k = r.core.local_ k) ∧
  (∀ p (w : BitVec 24) r s, CanRun 0x41 w p r s → WordWritable s r w → w.toNat / 2 ^ 20 ≠ 2 → w.toNat / 2 ^ 20 ≠ 6 →
    ∃ pts, Gives (.sta p w) 0x41 p r s r.core.next { r.buf with pts := pts } ∧
      Table.get none pts (wordPoint r.core w) = some (r.core.wa, r.core.qa &&& 0xF7) ∧
      ∀ k, k ≠ wordPoint r.core w → Table.get none pts k = Table.get none r.buf.pts k) ∧
  (∀ p (w : BitVec 24) r s, CanRun 0x41 w p r s → WordWritable s r w → w.toNat / 2 ^ 20 = 6 → w.getLsbD 19 = true →
    ∃ ctr c, Gives (.sta p w) 0x41 p r s r.core.next { r.buf with ctr := ctr } ∧ Table.get none ctr (w.toNat % 8192) = some c ∧
      (let v := counterView s r (w.toNat % 8192)
       if w.toNat / 65536 % 8 = 0 then
         c = { v with cv := r.core.wa, done := decide (v.pv.toInt ≤ r.core.wa.toInt), zero := decide (r.core.wa = 0)
                      sathi := decide (r.core.wa = 0x7FFF_FFFF), satlo := decide (r.core.wa = 0x8000_0000) }
       else c = { v with pv := r.core.wa }) ∧
      ∀ k, k ≠ w.toNat % 8192 → Table.get none ctr k = Table.get none r.buf.ctr k) ∧
  (∀ p (w : BitVec 24) r s, CanRun 0x41 w p r s → WordWritable s r w → w.toNat / 2 ^ 20 = 6 → w.getLsbD 19 = false →
    let neg := r.core.wa.getLsbD 31
    ∃ tmr, Gives (.sta p w) 0x41 p r s { r.core.next with stw := if neg then r.core.stw ||| 0x20 else r.core.stw }
        { r.buf with tmr := tmr } ∧
      Table.get none tmr (w.toNat % 8192) =
        some { timerView s r (w.toNat % 8192) with pt := if neg then 0 else r.core.wa } ∧
      ∀ k, k ≠ w.toNat % 8192 → Table.get none tmr k = Table.get none r.buf.tmr k) ∧
  (∀ p r s, CanRun 0x42 0 p r s → Gives (.xab p 0) 0x42 p r s
    { r.core.next with wa := r.core.wb, wb := r.core.wa, qa := r.core.qb, qb := r.core.qa } r.buf) ∧
  (∀ p r s, CanRun 0x43 0 p r s → Gives (.sel p 0) 0x43 p r s
    { ncSet r.core.next with
      wa := if r.core.stw.getLsbD 0 then r.core.wb else r.core.wa
      qa := comb (if r.core.stw.getLsbD 0 then r.core.qb else r.core.qa) r.core.bq } r.buf)

/-- What the operands of reads give and raise: an immediate gives its sign-extended value, or its upper half, with quality 0x01;
a point that the stage may not read raises TAGR, then an indirect one outside its declared range IDX, then an image word with an
uncorrectable error UECC, in LDA and LDB and in the bit instructions, and the section halts (R67, R73, R85). -/
def Obligations.WordOperandValues : Prop :=
  (∀ s r (v : BitVec 20), wordValue s r (3#4 ++ v) = (v.signExtend 32, 1)) ∧
  (∀ s r (v : BitVec 16), wordValue s r (0x40#8 ++ v) = (v ++ 0#16, 1)) ∧
  (∀ x ∈ ([(.lda, 0x40), (.ldb, 0x4D)] : List ((Nat → BitVec 24 → Instr) × Nat)), ∀ p (w : BitVec 24) r s, CanRun x.2 w p r s →
    w.toNat / 2 ^ 20 ∈ [0, 1, 5] →
    let pt := wordPoint r.core w
    let ind := decide (2 ≤ w.toNat / 2 ^ 20)
    (mayRead s r.stage pt = false → exec (x.1 p w) s = .next (haltSection p r (fTAGR pt) s)) ∧
    (mayRead s r.stage pt = true → ind = true → inRange s r pt = false →
      exec (x.1 p w) s = .next (haltSection p r (fIDX pt) s)) ∧
    (mayRead s r.stage pt = true → (ind = true → inRange s r pt = true) → imageBad s r pt = true →
      exec (x.1 p w) s = .next (haltSection p r fUECC s))) ∧
  (∀ x ∈ ([(.band, 0x10), (.bandn, 0x11), (.bor, 0x12), (.born, 0x13), (.bxor, 0x14), (.bxorn, 0x15)] :
      List ((Nat → BitVec 24 → Instr) × Nat)), ∀ p (w : BitVec 24) r s, CanRun x.2 w p r s →
    w.toNat % 8 ≠ 1 → w.toNat % 8 ≠ 3 →
    let pt := bitPoint r.core w
    let ind := decide (4 ≤ w.toNat % 8)
    (mayRead s r.stage pt = false → exec (x.1 p w) s = .next (haltSection p r (fTAGR pt) s)) ∧
    (mayRead s r.stage pt = true → ind = true → inRange s r pt = false →
      exec (x.1 p w) s = .next (haltSection p r (fIDX pt) s)) ∧
    (mayRead s r.stage pt = true → (ind = true → inRange s r pt = true) → imageBad s r pt = true →
      exec (x.1 p w) s = .next (haltSection p r fUECC s)))

/-- The jumps of R102: a forward target is reached where the condition holds, and the next instruction otherwise; JT and
JF set NC. A target not beyond the jump raises OPC (R103). -/
def Obligations.JumpInstructions : Prop :=
  ∀ x ∈ ([(.jmp, 0x90, false, fun _ => true), (.jt, 0x91, true, fun c => c.stw.getLsbD 0),
      (.jf, 0x92, true, fun c => !c.stw.getLsbD 0), (.jz, 0x93, false, fun c => c.stw.getLsbD 2),
      (.jnz, 0x94, false, fun c => !c.stw.getLsbD 2), (.jneg, 0x95, false, fun c => c.stw.getLsbD 3),
      (.jpos, 0x96, false, fun c => !c.stw.getLsbD 3)] :
      List ((Nat → BitVec 24 → Instr) × Nat × Bool × (Core → Bool))),
    ∀ p (w : BitVec 24) r s, CanRun x.2.1 w p r s →
      (r.core.pc.toNat < w.toNat →
        let c : Core := if x.2.2.1 then ncSet r.core else r.core
        Gives (x.1 p w) x.2.1 p r s
          { c with pc := if x.2.2.2 r.core then w.setWidth 20 else r.core.pc + 1 } r.buf) ∧
      (w.toNat ≤ r.core.pc.toNat → exec (x.1 p w) s = .next (haltSection p r fOPC s))

/-- LOOP, ENDL, LEXIT and LEXITC: the count is WA limited to 0 and B, LCLAMP where it was limited; a count of 0 passes the
loop over; ENDL repeats while iterations are left; an exit drops the top count; a fifth loop, an ENDL that is not the end
of the top loop and an exit without a loop raise STK, an exit backward OPC (R63, R103, R104). -/
def Obligations.LoopInstructions : Prop :=
  (∀ p (w : BitVec 24) r s, CanRun 0x98 w p r s →
    let b : Nat := w.toNat / 4096 + 1
    let d : Nat := w.toNat % 4096
    let n : Nat := (min (max r.core.wa.toInt 0) b).toNat
    let lc := decide (r.core.wa.toInt < 0) || decide ((b : Int) < r.core.wa.toInt)
    let c : Core := { r.core with stw := if lc then r.core.stw ||| 0x100 else r.core.stw }
    (n = 0 → Gives (.loopOp p w) 0x98 p r s { c with pc := BitVec.ofNat 20 (r.core.pc.toNat + d + 1) } r.buf) ∧
    (n ≠ 0 → r.core.lps.length < 4 → Gives (.loopOp p w) 0x98 p r s
      { c.next with lps := ⟨BitVec.ofNat 13 n, r.core.pc + 1, r.core.pc.toNat + d⟩ :: r.core.lps } r.buf) ∧
    (n ≠ 0 → 4 ≤ r.core.lps.length → exec (.loopOp p w) s = .next (haltSection p r fSTK s))) ∧
  (∀ p r s e rest, CanRun 0x99 0 p r s → r.core.lps = e :: rest → e.endl = r.core.pc.toNat →
    (1 < e.cnt.toNat → Gives (.endl p 0) 0x99 p r s
      { r.core with lps := { e with cnt := e.cnt - 1 } :: rest, pc := e.start } r.buf) ∧
    (e.cnt.toNat ≤ 1 → Gives (.endl p 0) 0x99 p r s { r.core.next with lps := rest } r.buf)) ∧
  (∀ p r s, CanRun 0x99 0 p r s → (∀ e rest, r.core.lps = e :: rest → e.endl ≠ r.core.pc.toNat) →
    exec (.endl p 0) s = .next (haltSection p r fSTK s)) ∧
  (∀ p (w : BitVec 24) r s e rest, CanRun 0x9A w p r s → r.core.lps = e :: rest → r.core.pc.toNat < w.toNat →
    Gives (.lexit p w) 0x9A p r s { r.core with lps := rest, pc := w.setWidth 20 } r.buf) ∧
  (∀ p (w : BitVec 24) r s e rest, CanRun 0x9B w p r s → r.core.lps = e :: rest → r.core.pc.toNat < w.toNat →
    Gives (.lexitc p w) 0x9B p r s
      (if r.core.stw.getLsbD 0 then { ncSet r.core with lps := rest, pc := w.setWidth 20 } else (ncSet r.core).next)
      r.buf) ∧
  (∀ x ∈ ([(.lexit, 0x9A), (.lexitc, 0x9B)] : List ((Nat → BitVec 24 → Instr) × Nat)),
    ∀ p (w : BitVec 24) r s, CanRun x.2 w p r s →
      (w.toNat ≤ r.core.pc.toNat → exec (x.1 p w) s = .next (haltSection p r fOPC s)) ∧
      (r.core.pc.toNat < w.toNat → r.core.lps = [] →
        exec (x.1 p w) s = .next (haltSection p r fSTK s)))

/-- CALL pushes the return index and the depths; RET and a taken RETC pop them where the depths agree; RETC with BA = 0 goes
on; a ninth CALL, a return on other depths, and RET or RETC on an empty stack, whatever BA is, raise STK (R63, R105). -/
def Obligations.CallInstructions : Prop :=
  (∀ p (w : BitVec 24) r s, CanRun 0x9C w p r s →
    (r.core.calls.length < 8 → Gives (.callS p w) 0x9C p r s
      { r.core with
        calls := ⟨r.core.pc + 1, r.core.br.length, r.core.lps.length⟩ :: r.core.calls, pc := w.setWidth 20 } r.buf) ∧
    (8 ≤ r.core.calls.length → exec (.callS p w) s = .next (haltSection p r fSTK s))) ∧
  (∀ p r s, CanRun 0x9D 0 p r s →
    (∀ e rest, r.core.calls = e :: rest → e.depth = r.core.br.length → e.lps = r.core.lps.length →
      Gives (.ret p 0) 0x9D p r s { r.core with calls := rest, pc := e.ret } r.buf) ∧
    ((∀ e rest, r.core.calls = e :: rest → e.depth ≠ r.core.br.length ∨ e.lps ≠ r.core.lps.length) →
      exec (.ret p 0) s = .next (haltSection p r fSTK s))) ∧
  (∀ p r s e rest, CanRun 0x9E 0 p r s → r.core.calls = e :: rest →
    (r.core.stw.getLsbD 0 = false → Gives (.retc p 0) 0x9E p r s (ncSet r.core).next r.buf) ∧
    (r.core.stw.getLsbD 0 = true → e.depth = r.core.br.length → e.lps = r.core.lps.length →
      Gives (.retc p 0) 0x9E p r s { ncSet r.core with calls := rest, pc := e.ret } r.buf) ∧
    (r.core.stw.getLsbD 0 = true → e.depth ≠ r.core.br.length ∨ e.lps ≠ r.core.lps.length →
      exec (.retc p 0) s = .next (haltSection p r fSTK s))) ∧
  (∀ p r s, CanRun 0x9E 0 p r s → r.core.calls = [] → exec (.retc p 0) s = .next (haltSection p r fSTK s))

/-- QSET and QCLR set and clear quality bits of BQ, QA or QB; QGET brings the quality into WA; QPUT replaces it, bit 3
cleared. Target 3 and a mask with bit 3 set are reserved, and each takes 1 cycle (R106). -/
def Obligations.QualityInstructions : Prop :=
  (∀ p (w : BitVec 24) r s, CanRun 0xA0 w p r s → Gives (.qset p w) 0xA0 p r s
    (if w.toNat / 256 = 0 then { r.core.next with bq := r.core.bq ||| w.setWidth 8 }
      else if w.toNat / 256 = 1 then { r.core.next with qa := r.core.qa ||| w.setWidth 8 }
      else { r.core.next with qb := r.core.qb ||| w.setWidth 8 }) r.buf) ∧
  (∀ p (w : BitVec 24) r s, CanRun 0xA1 w p r s → Gives (.qclr p w) 0xA1 p r s
    (if w.toNat / 256 = 0 then { r.core.next with bq := r.core.bq &&& ~~~(w.setWidth 8) }
      else if w.toNat / 256 = 1 then { r.core.next with qa := r.core.qa &&& ~~~(w.setWidth 8) }
      else { r.core.next with qb := r.core.qb &&& ~~~(w.setWidth 8) }) r.buf) ∧
  (∀ p r s, CanRun 0xA2 0 p r s → Gives (.qget p 0) 0xA2 p r s
    { r.core.next with wb := r.core.wa, qb := r.core.qa, wa := r.core.qa.setWidth 32, qa := 1 } r.buf) ∧
  (∀ p r s, CanRun 0xA3 0 p r s → Gives (.qput p 0) 0xA3 p r s
    { r.core.next with wa := r.core.wb, qa := r.core.wa.setWidth 8 &&& 0xF7 } r.buf) ∧
  (∀ op ∈ [0xA0, 0xA1], ∀ w : BitVec 24, reservedOp op w = false ↔ w.toNat < 2 ^ 10 ∧ w.toNat / 256 ≠ 3 ∧ w.getLsbD 3 = false) ∧
  (∀ op ∈ [0xA0, 0xA1, 0xA2, 0xA3], cyclesOf op = 1)

/-- LSP, LMAN, LTRK and LMODE enter a command for an owned loop into the write buffer, leaving its other commands; LRD
loads a loop value of the take's input phase; a loop of another stage raises TAGW or TAGR, and so does LRD of an extension,
which is the model's choice (R107, R108, R139; log entry 63). -/
def Obligations.LoopCommandInstructions : Prop :=
  (∀ x ∈ ([(.lsp, 0xB0, fun v e => { e with sp := some v }), (.lman, 0xB1, fun v e => { e with man := some v }),
      (.ltrk, 0xB2, fun v e => { e with trk := some v })] :
      List ((Nat → BitVec 24 → Instr) × Nat × (Word × Byte → LoopCmd → LoopCmd))),
    ∀ p (w : BitVec 24) r s, CanRun x.2.1 w p r s →
      (ownsLoop s r.stage w.toNat = true →
        let e := x.2.2 (r.core.wa, r.core.qa) (Table.get LoopCmd.none r.buf.cmds w.toNat)
        Gives (x.1 p w) x.2.1 p r s r.core.next { r.buf with cmds := Table.set LoopCmd.none r.buf.cmds w.toNat e }) ∧
      (ownsLoop s r.stage w.toNat = false → exec (x.1 p w) s = .next (haltSection p r ⟨1, 2, w.toNat⟩ s))) ∧
  (∀ p (w : BitVec 24) r s, CanRun 0xB3 w p r s → ownsLoop s r.stage (w.toNat % 1024) = true →
    let e := { Table.get LoopCmd.none r.buf.cmds (w.toNat % 1024) with mode := some (w.toNat / 2 ^ 21) }
    Gives (.lmode p w) 0xB3 p r s r.core.next
      { r.buf with cmds := Table.set LoopCmd.none r.buf.cmds (w.toNat % 1024) e }) ∧
  (∀ p (w : BitVec 24) r s, CanRun 0xB4 w p r s →
    (ownsLoop s r.stage (w.toNat % 1024) = true → (loopDesc s (w.toNat % 1024)).kind ≠ 2 →
      let v := loopValue (Table.get LoopRt.fresh (takeOf s r.cls).loops (w.toNat % 1024)) (w.toNat / 2 ^ 21)
      Gives (.lrd p w) 0xB4 p r s { r.core.next with wa := v.1, qa := v.2 } r.buf) ∧
    (ownsLoop s r.stage (w.toNat % 1024) = false ∨ (loopDesc s (w.toNat % 1024)).kind = 2 →
      exec (.lrd p w) s = .next (haltSection p r ⟨2, 2, w.toNat % 1024⟩ s)))

/-- EVT: with BA = 1 and fewer than 16 entries an event entry of the section joins the buffer; with BA = 0 none does;
NC is set (R109). -/
def Obligations.EventInstruction : Prop :=
  ∀ p (w : BitVec 24) r s, CanRun 0xC0 w p r s →
    (r.core.stw.getLsbD 0 = false → Gives (.evt p w) 0xC0 p r s (ncSet r.core).next r.buf) ∧
    (r.core.stw.getLsbD 0 = true → r.buf.evs.length < 16 → Gives (.evt p w) 0xC0 p r s (ncSet r.core).next
      { r.buf with evs := r.buf.evs ++ [{ stage := r.stage, secno := r.secno, sev := w.toNat / 2 ^ 21
                                          code := w.setWidth 16, wa := r.core.wa, qa := r.core.qa
                                          mt := (takeOf s r.cls).mt }] }) ∧
    (r.core.stw.getLsbD 0 = true → 16 ≤ r.buf.evs.length →
      ∃ t r', exec (.evt p w) s = .next t ∧ Ran p r' s t ∧ r'.buf.evs = r.buf.evs ∧
        r'.buf.dropped.length = r.buf.dropped.length + 1)

/-- NOP and the system instructions (R110): LMT, LMTH, LFLT, LIDX, LSTW and CSTW. -/
def Obligations.SystemInstructions : Prop :=
  (∀ p r s, CanRun 0x01 0 p r s → Gives (.nop p 0) 0x01 p r s r.core.next r.buf) ∧
  (∀ p r s, CanRun 0xD0 0 p r s → Gives (.lmt p 0) 0xD0 p r s
    { r.core.next with wa := BitVec.ofNat 32 (takeOf s r.cls).mt.toNat, qa := 1 } r.buf) ∧
  (∀ p r s, CanRun 0xD1 0 p r s → Gives (.lmth p 0) 0xD1 p r s
    { r.core.next with wa := BitVec.ofNat 32 ((takeOf s r.cls).mt.toNat / 2 ^ 32), qa := 1 } r.buf) ∧
  (∀ p r s, CanRun 0xD2 0 p r s → Gives (.lflt p 0) 0xD2 p r s
    { r.core.next with
      wa := BitVec.ofNat 32 ((fltOf s r.stage r.secno).code.toNat + (fltOf s r.stage r.secno).execs.toNat * 256)
      qa := 1 } r.buf) ∧
  (∀ p r s, CanRun 0xD3 0 p r s →
    (∀ e rest, r.core.lps = e :: rest → Gives (.lidx p 0) 0xD3 p r s
      { r.core.next with wa := e.cnt.setWidth 32 - 1, qa := 1 } r.buf) ∧
    (r.core.lps = [] → exec (.lidx p 0) s = .next (haltSection p r fSTK s))) ∧
  (∀ p r s, CanRun 0xD4 0 p r s → Gives (.lstw p 0) 0xD4 p r s
    { r.core.next with wa := r.core.stw.setWidth 32, qa := 1 } r.buf) ∧
  (∀ p (w : BitVec 24) r s, CanRun 0xD5 w p r s → Gives (.cstw p w) 0xD5 p r s
    { r.core.next with stw := r.core.stw &&& ~~~(w.setWidth 16) } r.buf)

/-- A word that is a reserved encoding, in its opcode's row or in RESERVED_ENCODING, and an instruction that reaches W, in
its opcode's row or in SECTION_BUDGET, halt the section with OPC and with BUDGET (R73, R78, R81). -/
def Obligations.EncodingAndBudgetFaults : Prop :=
  (∀ p enc r s, runOf s p = some r → reservedWord enc = true →
    exec (.reservedEncoding p enc) s = .next (haltSection p r fOPC s)) ∧
  (∀ p r s, runOf s p = some r → opAtPc s r ≠ 0x9F → r.w ≤ r.cycles + cyclesOf (opAtPc s r) →
    exec (.sectionBudget p) s = .next (haltSection p r fBUDGET s)) ∧
  (∀ p (w : BitVec 24) r s, runOf s p = some r → codeBad s r = false → w ≠ 0 →
    exec (.nop p w) s = .next (haltSection p r fOPC s)) ∧
  (∀ p r s, runOf s p = some r → codeBad s r = false → r.w ≤ r.cycles + 1 →
    exec (.nop p 0) s = .next (haltSection p r fBUDGET s))

/-- What a halt does: the buffer is discarded, so points, timers, counters and loops stay as they were; the fault record
takes the code with a count of 0; TAGW and TAGR count in TAGVIOL; the pair is free for another section (R74, R75). -/
def Obligations.HaltDiscardsSection : Prop :=
  ∀ p r s (e : SFault), 1 ≤ e.code → e.code ≤ 8 →
    let t := haltSection p r e s
    (s.eng.waiting = [] → t.eng.run = Table.set none s.eng.run p none) ∧
      fltOf t r.stage r.secno = ⟨BitVec.ofNat 8 e.code, 0⟩ ∧
      t.points = s.points ∧ t.eng.timers = s.eng.timers ∧ t.eng.counters = s.eng.counters ∧ t.loops = s.loops ∧
      t.progs = (if e.code ≤ 2 then
        (putStg r.stage { stgRt s r.stage with tagViol := (stgRt s r.stage).tagViol + 1 } s).progs else s.progs)

/-- END with empty stacks within W: the section is complete, its pair free, its buffer kept for the merge where other
sections of the scene are still to run, and one more execution counted since its last halt; with the last section the
scene is done and its writes have merged; with a stack not empty the section halts with STK (R57, R77, R105, R110). -/
def Obligations.EndCompletesSection : Prop :=
  (∀ p r s k j, runOf s p = some r → codeBad s r = false → r.cycles + 5 ≤ r.w →
    r.core.br = [] → r.core.calls = [] → r.core.lps = [] → s.eng.scene = some (k, j) →
    let left := ∃ sl ∈ s.eng.slots, ¬ (sl.stage = r.stage ∧ sl.secno = r.secno) ∧ (sl.st = .waiting ∨ sl.st = .running)
    ∃ t, exec (.endS p 0) s = .next t ∧ t.points = s.points ∧
      ((fltOf s r.stage r.secno).code ≠ 0 →
        (fltOf t r.stage r.secno).code = (fltOf s r.stage r.secno).code ∧
        (fltOf t r.stage r.secno).execs.toNat = min ((fltOf s r.stage r.secno).execs.toNat + 1) (2 ^ 24 - 1)) ∧
      (s.eng.waiting = [] → t.eng.run = Table.set none s.eng.run p none) ∧
      (left → t.takes = s.takes ∧ t.eng.scene = some (k, j) ∧ t.eng.slots.length = s.eng.slots.length ∧
        ∀ sl ∈ t.eng.slots, sl.stage = r.stage → sl.secno = r.secno → sl.st = .done ∧ sl.buf = r.buf) ∧
      (¬ left → t.eng.scene = none ∧ j ∈ (takeOf t k).doneScenes)) ∧
  (∀ p r s, runOf s p = some r → codeBad s r = false → r.cycles + 5 ≤ r.w →
    (r.core.br ≠ [] ∨ r.core.calls ≠ [] ∨ r.core.lps ≠ []) →
    exec (.endS p 0) s = .next (haltSection p r fSTK s))

/-! ## Lane pairs, scenes and takes -/

/-- SCENE_START completes for a scene that may start (R37, R39): the module runs, the class's take is active and its image is
built, its SAFSTAT part in or 48 us over, no scene is in execution, a pair serves, the scene is the lowest of this half-period that is left, and no lower class has
one left. It puts the scene's sections in wait, in ascending stage and section number; a scene that has none is done at once;
otherwise it changes nothing. SECTION_DISPATCH completes where a section waits and a pair is free: the first waiting section goes
to the lowest-numbered free pair in service that is not the double, with 8 cycles counted and a fresh machine state (R58, R69,
R77, R410). -/
def Obligations.ScenesAndDispatch : Prop :=
  (∀ k j s, (sceneSlots s k j).Pairwise (fun a b => a.stage < b.stage ∨ (a.stage = b.stage ∧ a.secno ≤ b.secno))) ∧
  (∀ k j s, sceneMayStart s k j = true ↔
    (takeOf s k).active = true ∧ s.eng.scene = none ∧ 0 < pairsIn s ∧
      ((takeOf s k).startHalf = s.slate.halfcnt → s.bar.burstDone = true ∧
        (satWhole s.bar.satBurst = true ∨ s.field.latAt + 1_200 ≤ s.now)) ∧
      SceneLeft s k j ∧ (∀ i, SceneLeft s k i → j ≤ i) ∧
      ∀ k', k' < k → (takeOf s k').active = true → ∀ i, ¬ SceneLeft s k' i) ∧
  (∀ k j s, Running s → sceneMayStart s k j = true → sceneSlots s k j ≠ [] →
    exec (.sceneStart k j) s =
      .next { s with eng := { s.eng with scene := some (k, j), slots := sceneSlots s k j, recovered := 0 } }) ∧
  (∀ k j s, Running s → sceneMayStart s k j = true → sceneSlots s k j = [] →
    ∃ t, exec (.sceneStart k j) s = .next t ∧ t.eng.scene = none ∧ j ∈ (takeOf t k).doneScenes ∧ t.points = s.points) ∧
  (∀ k j s, sceneMayStart s k j = false → exec (.sceneStart k j) s = .next s) ∧
  (∀ s k j a sl b d p, s.eng.scene = some (k, j) → s.eng.slots = a ++ sl :: b → (∀ x ∈ a, x.st ≠ .waiting) →
    sl.st = .waiting → secDef s sl.stage sl.secno = some d →
    p < 9 → s.eng.inService.getLsbD p = true → runOf s p = none → (p = 8 → s.eng.inService ≠ 0x1FF) →
    (∀ q, q < p → s.eng.inService.getLsbD q = true → runOf s q ≠ none) →
    ∃ t r, exec .sectionDispatch s = .next t ∧ runOf t p = some r ∧ (∀ q, q ≠ p → runOf t q = runOf s q) ∧
      r.stage = sl.stage ∧ r.secno = sl.secno ∧ r.cls = k ∧ r.scene = j ∧ r.w = d.w ∧ r.cycles = 8 ∧
      r.core = Core.start (BitVec.ofNat 20 d.first) ∧ r.buf = WBuf.empty ∧
      (∀ x ∈ t.eng.slots, x.stage = sl.stage → x.secno = sl.secno → x.st = .running) ∧
      t.points = s.points ∧ t.takes = s.takes) ∧
  (∀ s, (∀ sl ∈ s.eng.slots, sl.st ≠ .waiting) → exec .sectionDispatch s = .next s)

/-- BLOCK_CHECKPOINT completes on every pair with a section. Where the lanes agree and the block has ended, by 2,048
instructions, before the one that would pass 4,096 cycles or at END, the state becomes the restart point. Where they disagree the pair is retired; in a
scene's first disagreement with nine pairs in service the free double continues from the restart point, and with the double gone
the lowest free pair in service does, or the section waits for one. Points, timers and counters stay (R69, R70, R410). -/
def Obligations.BlockCheckpoints : Prop :=
  (∀ p r s, runOf s p = some r → (2048 ≤ r.ckI ∨ 4096 < r.ckC + cyclesOf (opAtPc s r) ∨ opAtPc s r = 0x9F) →
    exec (.blockCheckpoint p true) s = .next (putRun p
      { r with ckI := 0, ckC := 0, rsCore := r.core, rsBuf := r.buf, rsCycles := r.cycles } s)) ∧
  (∀ p r s, runOf s p = some r → r.ckI < 2048 → r.ckC + cyclesOf (opAtPc s r) ≤ 4096 → opAtPc s r ≠ 0x9F →
    exec (.blockCheckpoint p true) s = .next s) ∧
  (∀ p r s, runOf s p = some r → p < 8 → s.eng.inService = 0x1FF → s.eng.recovered = 0 → runOf s 8 = none →
    ∃ t, exec (.blockCheckpoint p false) s = .next t ∧
      t.eng.run = Table.set none (Table.set none s.eng.run p none) 8 (some (atRestart r)) ∧
      t.eng.inService = 0x1FF &&& ~~~(1#9 <<< p) ∧ t.eng.retired = s.eng.retired ||| (1#9 <<< p) ∧
      t.points = s.points ∧ t.eng.timers = s.eng.timers ∧ t.eng.counters = s.eng.counters) ∧
  (∀ p r s, runOf s p = some r → p < 9 → s.eng.inService.getLsbD p = true → s.eng.inService ≠ 0x1FF →
    ∃ t, exec (.blockCheckpoint p false) s = .next t ∧
      t.eng.inService = s.eng.inService &&& ~~~(1#9 <<< p) ∧ t.eng.retired = s.eng.retired ||| (1#9 <<< p) ∧
      (∀ q, q < 9 → t.eng.inService.getLsbD q = true → runOf s q = none →
        (∀ i, i < q → t.eng.inService.getLsbD i = true → runOf s i ≠ none) →
        t.eng.run = Table.set none (Table.set none s.eng.run p none) q (some (atRestart r)) ∧
          t.eng.waiting = s.eng.waiting) ∧
      ((∀ q, q < 9 → t.eng.inService.getLsbD q = true → runOf s q ≠ none) →
        t.eng.run = Table.set none s.eng.run p none ∧ t.eng.waiting = s.eng.waiting ++ [atRestart r]) ∧
      t.points = s.points ∧ t.eng.timers = s.eng.timers ∧ t.eng.counters = s.eng.counters)

/-- HALF_PERIOD_START completes at the end of the half-period in progress, where the slate runs and no ride-through is over: its
number counts up, it begins at the instant the last one ended, and at an even number the next slate period begins, SLATEPER
giving the length of the one that ended. Every class whose take begins there takes the image as it stands: its points, its
system points, its loops and its time, all seen by every section of the take; before that instant, and with the slate at rest,
nothing happens (R25, R33, R34, R38, R55). -/
def Obligations.HalfPeriodStart : Prop :=
  (∀ s, Running s → s.slate.started = true → (∀ t0 d, s.power.dip = some (t0, d) → s.now < t0 + d) →
    let due := s.slate.halfStart +
      (if s.slate.halfcnt.getLsbD 0 then s.slate.period / 2 else (s.slate.period + 1) / 2)
    (due ≤ s.now → ∃ u, exec .halfPeriodStart s = .next (halfStartPhase u) ∧ u.slate.halfcnt = s.slate.halfcnt + 1 ∧
      u.slate.halfStart = due ∧ u.takes = (endHalf s).takes ∧ u.points.uecc = [] ∧
      (u.slate.halfcnt.getLsbD 0 = true → u.slate.period = s.slate.period ∧ u.slate.slatePer = s.slate.slatePer) ∧
      (u.slate.halfcnt.getLsbD 0 = false → u.slate.slatePer = BitVec.ofNat 32 (s.slate.period * 40))) ∧
    (s.now < due → exec .halfPeriodStart s = .next s)) ∧
  (∀ s, s.slate.started = false → exec .halfPeriodStart s = .next s) ∧
  (∀ u k, k < 4 →
    let t := halfStartPhase u
    (clsCfg t k).en = true → t.slate.halfcnt.toNat % 2 ^ (clsCfg t k).n = 0 →
    let x := takeOf t k
    x.active = true ∧ x.startHalf = t.slate.halfcnt ∧ x.mt = mtNow t ∧ x.snap = t.points.pts ∧ x.loops = t.loops.rt ∧
      x.merged = [] ∧ x.doneScenes = [] ∧ x.handed = false ∧ x.out = false) ∧
  (∀ s k, k < 4 → (clsCfg s k).en = true → beginsTake s s.slate.halfcnt k = true →
    (∀ j, j < 4 → (clsCfg s j).en = false → (takeOf s j).active = false) → (takeOf (takesPhase s) k).sys = snapSys s) ∧
  (∀ s k, k < 4 → (clsCfg s k).en = true → beginsTake s s.slate.halfcnt k = false →
    takeOf (takesPhase s) k = takeOf s k)

/-- HALF_PERIOD_DEADLINE completes from offset 2,040 of a half-period that is not the last of a class's take: each stage with
sections left overruns, its merged writes are gone and its count rises to at most 255; other stages stay. HAND_OFF_PHASE completes
at offset OUTPH - 8 of the last half-period of a take, once: it discards what has not completed, and a digital output of the class
goes to the field side with the value that its stage wrote in the take, or the value that stands. Points, timers, counters and
loops stay (R40, R45). -/
def Obligations.DeadlinesAndHandOff : Prop :=
  (∀ s, Running s → 2040 ≤ offsetNow s → ∃ t, exec .halfPeriodDeadline s = .next t ∧ t.points = s.points ∧
    t.eng.timers = s.eng.timers ∧ t.eng.counters = s.eng.counters ∧ t.loops = s.loops) ∧
  (∀ s k, Running s → 2040 ≤ offsetNow s →
    (∀ j, (j ∈ classesOn s ∧ (takeOf s j).active = true ∧ lastHalfOf s s.slate.halfcnt j = false) ↔ j = k) →
    ∃ t, exec .halfPeriodDeadline s = .next t ∧
      (∀ st, st < 32 → Late s k st → (Table.get StageTake.fresh (takeOf t k).stage st).ovr = true ∧
        Table.get 0 (stgRt t st).ovc k = min (Table.get 0 (stgRt s st).ovc k + 1) 255) ∧
      (∀ st, st < 32 → ¬ Late s k st → stgRt t st = stgRt s st ∧
        Table.get StageTake.fresh (takeOf t k).stage st = Table.get StageTake.fresh (takeOf s k).stage st)) ∧
  (∀ s, offsetNow s < 2040 → exec .halfPeriodDeadline s = .next s) ∧
  (∀ s k, Running s → (takeOf s k).active = true → lastHalfOf s s.slate.halfcnt k = true → (takeOf s k).handed = false →
    offsetNow s + 8 = (clsCfg s k).outph →
    ∃ t, exec (.handOffPhase k) s = .next t ∧ (takeOf t k).handed = true ∧ t.points = s.points ∧
      t.eng.timers = s.eng.timers ∧ t.eng.counters = s.eng.counters ∧ t.loops = s.loops ∧
      ((∀ st, st < 32 → ¬ Late s k st) → fallbackNow s k (lioOwner s) = false →
        (Table.get StageTake.fresh (takeOf s k).stage (lioOwner s)).ovr = false →
        ∀ n, n < 16 → isLoopOut s (0x120 + n) = false → outObjClass s (0x120 + n) = some k → frozen s (0x120 + n) = none →
        ∃ c, Table.get none t.bar.outTx k = some (c, false) ∧ c.doMask.getLsbD n = true ∧
          c.doVal.getLsbD n = (match Table.get none (mergedOf s k (lioOwner s)).pts (0x120 + n) with
            | some e => e.1
            | none => (rawPoint s (0x120 + n)).val).getLsbD 0)) ∧
  (∀ s k, (takeOf s k).handed = true ∨ offsetNow s + 8 ≠ (clsCfg s k).outph → exec (.handOffPhase k) s = .next s) ∧
  (∀ s k st, let t := overrunStage k st s
    (Table.get 0 (stgRt t st).ovc k = min (Table.get 0 (stgRt s st).ovc k + 1) 255) ∧
      (Table.get StageTake.fresh (takeOf t k).stage st).ovr = true ∧ t.points = s.points)

/-- What a stage publishes at its output phase: the last write of each point, with the quality of a store over the
point's own FROZEN and UNDELIV; a point that it has not written stays (R38, R57, R68). The premise on the image is
`Obligations.EveryStepKeepsImageAndTables`. -/
def Obligations.PublishedWrites : Prop :=
  ∀ s k st, PointsOk s.points → (stgRt s st).state ≠ 2 →
    (∀ l r pt v c, (mergedOf s k st).pts = l ++ (pt, some (v, c)) :: r → (∀ e ∈ r, e.1 ≠ pt) → isRelRW pt = false →
      rawPoint (publishStage k st s) pt = ⟨v, storeQual (rawPoint s pt).q c &&& 0x1FF⟩) ∧
    (∀ pt, (∀ e ∈ (mergedOf s k st).pts, e.1 ≠ pt) → rawPoint (publishStage k st s) pt = rawPoint s pt)

/-- OUTPUT_PHASE completes at offset OUTPH of the last half-period of a take that has been handed off: its count rises, it
cannot run twice, and the image is retained as it then stands (R17, R37, R38, R44, R438). -/
def Obligations.OutputPhase : Prop :=
  (∀ s k, Running s → (takeOf s k).active = true → lastHalfOf s s.slate.halfcnt k = true → (takeOf s k).handed = true →
    (takeOf s k).out = false → offsetNow s = (clsCfg s k).outph →
    ∃ t, exec (.outputPhase k) s = .next t ∧ (takeOf t k).out = true ∧ (takeOf t k).takecnt = (takeOf s k).takecnt + 1 ∧
      t.points.retained = t.points.pts ∧ t.slate = s.slate ∧ t.points.tags = s.points.tags) ∧
  (∀ s k, (takeOf s k).handed = false ∨ (takeOf s k).out = true ∨ offsetNow s ≠ (clsCfg s k).outph →
    exec (.outputPhase k) s = .next s)

/-! ## The slate -/

/-- The mains. A crossing below 8 V or within 5 ms of the last changes no mode; the first is only noted; one that closes a
plausible period measures it and counts it, an implausible one counts in IMPLAUS and puts LOCKED and RELOCK into FLYWHEEL. A
period is plausible from 45 Hz to 65 Hz, and after the first within 5 % of the last. MISSING_PERIOD counts an absence once, a
departure from LOCKED is counted, and NOMINAL_ENTRY ends FLYWHEEL 2 s after the last plausible crossing (R27 to R30, R33,
R194). -/
def Obligations.MainsRows : Prop :=
  (∀ amp s, s.slate.mode = .free → exec (.mainsCrossing amp) s = .next s) ∧
  (∀ amp s t0, s.slate.lastCross = some t0 → s.now < t0 + 125_000 → exec (.mainsCrossing amp) s = .next s) ∧
  (∀ amp s, Running s → s.slate.started = true → s.slate.mode ≠ .free → s.slate.lastCross = none → 8 * 65536 ≤ amp.toNat →
    ∃ t, exec (.mainsCrossing amp) s = .next t ∧
      t.slate = { s.slate with lastCross := some s.now, missing := false, phErr := BitVec.ofInt 32 (phaseError s) } ∧
      t.points = s.points ∧ t.takes = s.takes) ∧
  (∀ amp s t0, Running s → s.slate.started = true → s.slate.mode ≠ .free → s.slate.lastCross = some t0 →
    t0 + 125_000 ≤ s.now → amp.toNat < 8 * 65536 →
    exec (.mainsCrossing amp) s = .next { s with slate := { s.slate with mainsAmp := amp } }) ∧
  (∀ amp s t0, Running s → s.slate.started = true → s.slate.mode ≠ .free → s.slate.lastCross = some t0 →
    t0 + 125_000 ≤ s.now → 8 * 65536 ≤ amp.toNat → s.slate.missing = false →
    let p := s.now - t0
    ∃ t, exec (.mainsCrossing amp) s = .next t ∧ t.points = s.points ∧ t.takes = s.takes ∧
      t.slate.lastCross = some s.now ∧ t.slate.lastPer = some p ∧ t.slate.mainsAmp = amp ∧
      t.slate.halfcnt = s.slate.halfcnt ∧ t.slate.period = s.slate.period ∧
      (plausible s p = true → t.slate.mainsPer = BitVec.ofNat 32 (p * 40) ∧ t.slate.run8 = s.slate.run8 + 1 ∧
        t.slate.lastPlaus = some s.now ∧ t.slate.implaus = s.slate.implaus) ∧
      (plausible s p = false → t.slate.mainsPer = s.slate.mainsPer ∧ t.slate.run8 = 0 ∧
        t.slate.implaus = s.slate.implaus + 1 ∧
        t.slate.mode = (if s.slate.mode = .locked ∨ s.slate.mode = .relock then .flywheel else s.slate.mode))) ∧
  (∀ s p, plausible s p = true → 384_615 ≤ p ∧ p ≤ 555_556 ∧
    ∀ l, s.slate.firstAfter = false → s.slate.lastPer = some l → 20 * (max p l - min p l) ≤ l) ∧
  (∀ s t0, Running s → s.slate.started = true → s.slate.mode ≠ .free → s.slate.lastCross = some t0 →
    s.slate.missing = false → t0 + 555_556 ≤ s.now →
    ∃ t, exec .missingPeriod s = .next t ∧ t.slate.missing = true ∧ t.slate.run8 = 0 ∧
      t.slate.implaus = s.slate.implaus + 1 ∧ t.points = s.points ∧
      t.slate.mode = (if s.slate.mode = .locked ∨ s.slate.mode = .relock then .flywheel else s.slate.mode) ∧
      t.slate.lockLoss = (if s.slate.mode = .locked then s.slate.lockLoss + 1 else s.slate.lockLoss)) ∧
  (∀ s, s.slate.missing = true → exec .missingPeriod s = .next s) ∧
  (∀ s t0, Running s → s.slate.mode = .flywheel → s.slate.lastPlaus = some t0 →
    (t0 + 50_000_000 ≤ s.now → ∃ t, exec .nominalEntry s = .next t ∧ t.slate = { s.slate with mode := .nominal, lockRun := 0 } ∧
      t.points = s.points ∧ t.takes = s.takes) ∧
    (s.now < t0 + 50_000_000 → exec .nominalEntry s = .next s))


/-! ## The barrier and the local I/O -/

/-- A slot acts at its receiver exactly where a copy is good with the expected SEQ (any SEQ, on a link just trained) and it is not
the repetition of a frame already used. The rows to the field side complete on such a slot: IDLE brings HALFCNT and the slate
period, the STAMP sets the follower; OUTCMD leaves its command pending, in place of what was pending for its channels, and what
its ACK will carry; CONFIG leaves its bytes; SAFREQ its bits; an MSL fragment joins its telegram, and a whole one is the pair's.
On every other slot nothing but the end changes (R166, R168 to R170, R212, R244). -/
def Obligations.FramesToField : Prop :=
  (∀ h now (e : BarEnd), (e.slot h false now).1 = true ↔ Arrives h e) ∧
  (∀ ok q now (x : LinkEnd), (ok = true ∧ (x.synced = true → q = x.expSeq) → (x.slot ok q now).1 = true ∧
      (x.slot ok q now).2.expSeq = q + 1 ∧ (x.slot ok q now).2.noGood = 0 ∧ (x.slot ok q now).2.synced = true) ∧
    (ok = false ∨ (x.synced = true ∧ q ≠ x.expSeq) → (x.slot ok q now).1 = false ∧
      (x.slot ok q now).2.expSeq = x.expSeq + 1 ∧ (x.slot ok q now).2.noGood = x.noGood + 1)) ∧
  (∀ h s, Running s → Arrives h s.bar.field →
    let e := (s.bar.field.slot h false s.now).2.2.2
    (∃ t, exec (.idleFrame h) s = .next t ∧ t.bar.field = e ∧ t.bar.core = s.bar.core ∧ t.points = s.points ∧
      t.field = { s.field with folHalf := s.slate.halfcnt.setWidth 16, folPer := s.slate.slatePer, folAt := s.now
                               folStep := phaseNow s / 4096, folFrac := phaseNow s % 4096 } ∧
      t.bar.wireF = frameBytes false h.rep 0x00 0 h.seq (phaseNow s)
        (bytesLE 2 s.slate.halfcnt.toNat ++ wordBytes [s.slate.slatePer])) ∧
    (∀ k c ok, Table.get none s.bar.outTx k = some (c, ok) → ∃ t, exec (.outcmd h k) s = .next t ∧ t.bar.field = e ∧
      (k, c) ∈ t.field.pend ∧
      (∀ x ∈ t.field.pend, x = (k, c) ∨ (x.2.doMask &&& c.doMask = 0 ∧ x.2.aoMask &&& c.aoMask = 0)) ∧
      (∀ x ∈ s.field.pend, x.2.complete = true ∨ x.2.doMask &&& ~~~c.doMask ≠ 0 → (x.1, x.2.without c) ∈ t.field.pend) ∧
      Table.get none t.field.acked k = some ⟨c, h.seq, (willApply c s).1, (willApply c s).2⟩ ∧
      (h.rep = false → Table.get none t.bar.outSeq k = some h.seq) ∧
      t.field.dout = s.field.dout ∧ t.field.ao = s.field.ao ∧ t.points = s.points) ∧
    (∀ off, ∃ t, exec (.configFrame h off) s = .next t ∧ t.bar.field = e ∧ t.points = s.points ∧
      t.field.held = (holdBytes off (configBytes s off) s).field.held ∧ (off < 0x8000 → t.saf = s.saf ∧ t.msl = s.msl)) ∧
    (∃ t, exec (.safreq h) s = .next t ∧ t.bar.field = e ∧ t.saf.lastSafreq = s.now ∧ t.saf.safreqLost = false ∧
      t.points = s.points ∧ (TablesOk s → ∀ f, f < 8 →
        (sfOf t f).reqR.lvl = s.saf.reqTx.getLsbD (3 * f) ∧ (sfOf t f).reqA.lvl = s.saf.reqTx.getLsbD (3 * f + 1) ∧
        (sfOf t f).reqU = s.saf.reqTx.getLsbD (3 * f + 2) ∧ (sfOf t f).st = (sfOf s f).st ∧
        (sfOf t f).gotReset = ((sfOf s f).gotReset || ((sfOf s f).reqR.lvl && !s.saf.reqTx.getLsbD (3 * f) &&
          decide ((sfOf s f).reqR.since + 2_500_000 ≤ s.now) && decide (s.now < (sfOf s f).reqR.since + 125_000_000))))) ∧
    (∀ slot sub,
      let tg := Table.get [] s.msl.toPair slot
      let got := joinFragment (Table.get [] s.msl.rxPair slot) tg sub
      ∃ t, exec (.barrierMslToPair h slot sub) s = .next t ∧ t.bar.field = e ∧ t.points = s.points ∧ t.saf = s.saf ∧
        (got ≠ [] → got.length = tg.length → t.msl = { s.msl with
          rxPair := Table.set [] s.msl.rxPair slot [], toPair := Table.set [] s.msl.toPair slot []
          inbox := s.msl.inbox ++ [(slot, got)] }) ∧
        (got = [] ∨ got.length ≠ tg.length → t.msl = { s.msl with rxPair := Table.set [] s.msl.rxPair slot got }))) ∧
  (∀ i h s, toFieldRow i = some h → Running s → ¬ Arrives h s.bar.field → ∃ t, exec i s = .next t ∧
    t = { s with bar := t.bar } ∧ t.bar.field = (s.bar.field.slot h false s.now).2.2.2 ∧ t.bar.core = s.bar.core ∧
    t.bar.outTx = s.bar.outTx)

/-- The rows to the core complete on a slot that acts there: STATUS brings the supply, the temperature, the field side's judgement
of the links and whether its configuration matches; ACK confirms the command that it names by SEQ, with the states that will
apply; EVENT enters the log; INPUT joins its burst, and the one that completes it within 48 us of the latch makes the input phase;
SAFSTAT brings eight points; MSL a fragment, and a whole telegram goes out. BAD_COPY completes in every slot: at its end a bad
copy and a differing pair are counted, and the slots without a good one (R168, R169, R171, R173, R179, R224). -/
def Obligations.FramesToCore : Prop :=
  (∀ h s, Running s → Arrives h s.bar.core →
    let e := (s.bar.core.slot h false s.now).2.2.2
    (∀ supply temp, ∃ t, exec (.statusFrame h supply temp) s = .next t ∧ t.power.vin = supply ∧ t.field.temp = temp ∧
      t.bar.core = e ∧ t.bar.field = s.bar.field ∧ t.bar.cfgResend = !cfgMatch s ∧ t.bar.repA = s.bar.field.a.bad ∧
      t.bar.repB = s.bar.field.b.bad ∧ t.points = s.points ∧
      (s.bar.field.a.bad = true → s.bar.retrainA = none → t.bar.retrainA = some (s.now, false)) ∧
      (s.bar.field.b.bad = true → s.bar.retrainB = none → t.bar.retrainB = some (s.now, false)) ∧
      (s.bar.field.a.bad = false → t.bar.retrainA = s.bar.retrainA)) ∧
    (∀ k a, Table.get none s.bar.outTx k = some (a.cmd, false) → Table.get none s.field.acked k = some a →
      sentWith s k a.seq = true → ∃ t, exec (.ack h k) s = .next t ∧ Table.get none t.bar.outTx k = some (a.cmd, true) ∧
        t.bar.ackDo = a.dout ∧ t.bar.ackAo = a.ao ∧ t.bar.core = e ∧ t.points = s.points ∧ t.field = s.field ∧
        (a.cmd.complete = true → t.bar.startFull = false ∧
          (s.bar.ret = .sendFull → t.bar.ret = .await ∧ t.bar.ackAt = s.now))) ∧
    (∀ x rest, s.field.events = x :: rest → (∀ n, n < 16 → (doOf s n).pulse = none) → ∃ t u, exec (.eventFrame h) s = .next t ∧
      t = logEv x.code x.sev x.owner x.view x.src x.detail u ∧ u.field = { s.field with events := rest } ∧
      u.bar.core = e ∧ (s.bar.core.loss = false → u.log = s.log) ∧ t.field = u.field ∧ t.points = s.points) ∧
    (∀ sub meas, sub < 7 →
      let s' := if sub = 1 ∧ h.rep = false then { s with field := { s.field with latAi := meas } } else s
      let b := s.bar.burst.filter (fun e => e.1 != sub) ++ [(sub, inputWords s' sub meas)]
      (burstWhole b = false → ∃ t, exec (.inputFrame h sub meas) s = .next t ∧ t.points = s.points ∧ t.bar.burst = b ∧
        t.bar.core = e ∧ t.bar.burstDone = s.bar.burstDone) ∧
      (burstWhole b = true → s.now < s.field.latAt + 1200 → s.bar.burstDone = false → s.bar.ret = .ok →
        ∃ t, exec (.inputFrame h sub meas) s = .next t ∧ t.bar.burstDone = true ∧ t.bar.lastBurst = b ∧
          t.bar.lastHalf = s.field.latHalf ∧ t.bar.judged = [] ∧ t.bar.ret = .ok ∧
          (0 < s.now → ∀ k ∈ keysNow s, Table.get Fresh.start t.bar.fresh k = Fresh.got s.now))) ∧
    (∀ sub, sub < 4 → ∃ t, exec (.safstat h sub) s = .next t ∧ t.bar.core = e ∧ (s.bar.ret ≠ .ok → t.points = s.points) ∧
      t.bar.satBurst = s.bar.satBurst.filter (fun e => e.1 != sub) ++
        [(sub, (List.range 8).map (fun i => safWord s (8 * sub + i)))]) ∧
    (∀ slot sub,
      let tg := Table.get [] s.msl.fromPair slot
      let got := joinFragment (Table.get [] s.msl.rxCore slot) tg sub
      (tg ≠ [] → got.length = tg.length → ∃ t u, exec (.barrierMslFromPair h slot sub) s = .next t ∧ t = mslSend slot tg u ∧
        u.bar.core = e ∧ u.points = s.points ∧ u.msl = { s.msl with
          fromPair := Table.set [] s.msl.fromPair slot [], rxCore := Table.set [] s.msl.rxCore slot [] }) ∧
      (tg = [] ∨ got.length ≠ tg.length → ∃ t, exec (.barrierMslFromPair h slot sub) s = .next t ∧ t.points = s.points ∧
        t.out = s.out ∧ t.msl = { s.msl with rxCore := Table.set [] s.msl.rxCore slot got }))) ∧
  (∀ toField badA badB y s, Running s →
    let x := if toField then s.bar.field else s.bar.core
    let a := decide (badA = false ∧ (x.a.synced = true → y.seq = x.a.expSeq))
    let b := decide (badB = false ∧ (x.b.synced = true → y.seq = x.b.expSeq))
    ∃ t, exec (.badCopy toField badA badB y) s = .next t ∧ t.points = s.points ∧
      (toField = true → t.bar.core = s.bar.core ∧ t.bar.copiesA = s.bar.copiesA ∧ t.bar.copiesB = s.bar.copiesB) ∧
      (toField = false → t.bar.field = s.bar.field ∧
        t.bar.copiesA = s.bar.copiesA + (if a then 0 else 1) ∧ t.bar.copiesB = s.bar.copiesB + (if b then 0 else 1)) ∧
      let z := if toField then t.bar.field else t.bar.core
      z.noGood = (if (a || b) && !(y.differ && a && b) then 0 else x.noGood + 1) ∧
      z.a.noGood = (if a then 0 else x.a.noGood + 1) ∧ z.b.noGood = (if b then 0 else x.b.noGood + 1) ∧
      z.diffs.toNat = (if y.differ && a && b then min 255 (x.diffs.toNat + 1) else x.diffs.toNat))

/-- BURST_DEADLINE completes 48 us after the latch while the burst of the half-period is not complete: segment 0 discards its
next complete burst, every class whose input phase this was goes one miss further, and the half-period has had its one input
phase; at another time it changes nothing. A missed point keeps its value and is STALE, and a substitute is SUBST without VALID
(R48, R49, R51, R173). -/
def Obligations.MissedBursts : Prop :=
  (∀ s, Running s → s.slate.started = true → s.bar.burstDone = false → s.field.latAt + 1200 ≤ s.now →
    ∃ t, exec .burstDeadline s = .next t ∧ t.bar.burstDone = true ∧ t.bar.ret = .discard ∧ t.bar.judged = [] ∧
      t.bar.lastBurst = s.bar.lastBurst ∧ t.slate = s.slate ∧ t.field = s.field ∧
      ∀ k ∈ keysNow s,
        (Table.get Fresh.start t.bar.fresh k).held = (Table.get Fresh.start s.bar.fresh k).held + 1) ∧
  (∀ s, s.bar.burstDone = true ∨ s.now < s.field.latAt + 1200 → exec .burstDeadline s = .next s) ∧
  (∀ s pt, PointsOk s.points → rawPoint (stalePt pt s) pt = ⟨(rawPoint s pt).val, ((rawPoint s pt).q ||| 2) &&& 0x1FF⟩ ∧
    (rawPoint (substPt pt s) pt).q.getLsbD 0 = false ∧ (rawPoint (substPt pt s) pt).q.getLsbD 2 = true)

/-- LINK_BAD completes at an end whose link has had four slots without a good copy, or 16 bad copies within 1 ms: the core's own
judgement starts retraining, the field side's waits for STATUS. LINK_RETRAIN completes 1 ms after the judgement or the last
attempt, LINK_GOOD after an attempt, at both ends. BARRIER_LOSS completes after 25 slots without a good copy on either link: the
field side holds its outputs, each standing as it was, until BLHOLD_EXPIRY, which completes when the hold is over and takes every
output that is not held to its barrier-loss state; the core counts the loss (R171 to R173, R184, R191). The premise on the tables
is `Obligations.EveryStepKeepsImageAndTables`. -/
def Obligations.LinksAndLoss : Prop :=
  (∀ l s, Running s → (s.bar.core.link l).bad = false →
    4 ≤ (s.bar.core.link l).noGood ∨ 16 ≤ ((s.bar.core.link l).badAt.filter (fun x => s.now < x + 25_000)).length →
    ∃ t, exec (.linkBad l false) s = .next t ∧ (t.bar.core.link l).bad = true ∧ t.bar.field = s.bar.field ∧
      (retrainOf s l = none → retrainOf t l = some (s.now, false)) ∧ t.points = s.points) ∧
  (∀ l s, Running s → (s.bar.field.link l).bad = false →
    4 ≤ (s.bar.field.link l).noGood ∨ 16 ≤ ((s.bar.field.link l).badAt.filter (fun x => s.now < x + 25_000)).length →
    ∃ t, exec (.linkBad l true) s = .next t ∧ t = { s with bar := { s.bar with field := t.bar.field } } ∧
      (t.bar.field.link l).bad = true) ∧
  (∀ l s t0 d, Running s → retrainOf s l = some (t0, d) →
    (t0 + 25_000 ≤ s.now → exec (.linkRetrain l) s = .next (setRetrain l (some (s.now, true)) s)) ∧
    (s.now < t0 + 25_000 → exec (.linkRetrain l) s = .next s)) ∧
  (∀ l s t0, Running s → retrainOf s l = some (t0, true) →
    ∃ t, exec (.linkGood l) s = .next t ∧ t.bar.field.link l = LinkEnd.good ∧ t.bar.core.link l = LinkEnd.good ∧
      retrainOf t l = none ∧ t.points = s.points) ∧
  (∀ l s t0, retrainOf s l = some (t0, false) → exec (.linkGood l) s = .next s) ∧
  (∀ s, Running s → TablesOk s → s.bar.field.loss = false → 25 ≤ s.bar.field.noGood →
    ∃ t, exec (.barrierLoss true) s = .next t ∧ t.bar.field.loss = true ∧ t.field.blState = true ∧ t.field.needFull = true ∧
      t.field.pend = [] ∧ t.field.blHoldTo = some (s.now + blhold s * 25_000 * 97 / 100) ∧ t.bar.core = s.bar.core ∧
      t.points = s.points ∧
      ∀ n, n < 16 → (doOf t n).cmd = (doOf s n).cmd ∧ (doOf t n).appl = (doOf s n).appl ∧ (doOf t n).pend = none) ∧
  (∀ s, Running s → s.bar.core.loss = false → 25 ≤ s.bar.core.noGood →
    ∃ t, exec (.barrierLoss false) s = .next t ∧ t.bar.core.loss = true ∧ t.bar.ret = .discard ∧
      t.bar.losses.toNat = min 255 (s.bar.losses.toNat + 1) ∧ t.bar.field = s.bar.field ∧ t.points = s.points ∧
      t.field = s.field) ∧
  (∀ s, s.bar.core.noGood < 25 → exec (.barrierLoss false) s = .next s) ∧
  (∀ s t0, Running s → TablesOk s → s.field.blHoldTo = some t0 → t0 ≤ s.now →
    ∃ t, exec .blholdExpiry s = .next t ∧ t.field.blHoldTo = none ∧ t.field.blState = s.field.blState ∧
      (∀ n, n < 16 → bitsOf (docfg s n) 4 3 = 0 → (doOf t n).cmd = false ∧ (doOf t n).appl = false) ∧
      (∀ n, n < 16 → bitsOf (docfg s n) 4 3 ≠ 0 → doOf t n = doOf s n) ∧
      (∀ n, n < 4 → (aocfg s n).getLsbD 0 = false → (aoOf t n).mv = bitsOf (aocfg s n) 31 16) ∧ t.points = s.points)

/-- The rows of the local channels complete, each on its own channel and none on the image: DI_FILTER_CHANGE after five samples for each 0.1 ms of FILT, DI_WIRE_BREAK where
WBEN is set or the break is over, DI_COMPARATOR_TEST; DO_OVERLOAD_LATCH turns off an output that is on, DO_REARM lets it take the
next command to on, 1 s later and after it was commanded off; DO_CONDITION; DARK_TEST_PULSE of an output that is on, with its check
from 250 us; FIELD_OVERTEMP turns every output off, and FIELD_DIE_COOLED lets them be as commanded; AI_SHUNT_OPEN in mode 2 and
AI_SHUNT_RETRY 1 s later; AO_DEVIATION (R182, R183, R185, R186, R188, R190, R191, R221, R456). The premise on the tables is
`Obligations.EveryStepKeepsImageAndTables`. -/
def Obligations.LocalChannels : Prop :=
  (∀ n x s, Running s → exec (.diFilterChange n x) s = .next
    (if 5 * bitsOf (dicfg s n) 7 0 ≤ x.samples then putDi n { diOf s n with filt := x.lvl } s else s)) ∧
  (∀ n b s, Running s → exec (.diWireBreak n b) s =
    .next (if b = false ∨ (dicfg s n).getLsbD 9 = true then putDi n { diOf s n with wbrk := b } s else s)) ∧
  (∀ n pass s, Running s → exec (.diComparatorTest n pass) s = .next (putDi n { diOf s n with cmpFault := !pass } s)) ∧
  (∀ n s, Running s → TablesOk s → (doOf s n).appl = true → ∃ t, exec (.doOverloadLatch n) s = .next t ∧
    (doOf t n).latchedAt = some s.now ∧ (doOf t n).appl = false ∧ (doOf t n).offSince = false ∧
    doCode t.field.overtemp (doOf t n) = 1 ∧ (∀ m, m ≠ n → doOf t m = doOf s m) ∧ t.points = s.points) ∧
  (∀ n s t0, Running s → TablesOk s → (doOf s n).latchedAt = some t0 →
    (((doOf s n).offSince = false ∨ s.now < t0 + 25_000_000) → exec (.doRearm n) s = .next s) ∧
    ((doOf s n).offSince = true → t0 + 25_000_000 ≤ s.now → ∃ t, exec (.doRearm n) s = .next t ∧
      (doOf t n).latchedAt = none ∧ (doOf t n).cmd = false ∧ (doOf t n).appl = false ∧
      (doOf t n).cond.getLsbD 1 = false ∧ (∀ m, m ≠ n → doOf t m = doOf s m) ∧ t.points = s.points)) ∧
  (∀ n code s, Running s → TablesOk s → condApplies s n code = true → ∃ t, exec (.doCondition n code true) s = .next t ∧
    doOf t n = (doOf s n).setCond code true ∧ (doOf t n).cond.getLsbD code = true ∧ (∀ m, m ≠ n → doOf t m = doOf s m) ∧
    t.points = s.points) ∧
  (∀ n code s, Running s → TablesOk s → code = 2 ∨ code = 3 ∨ code = 5 ∨ code = 6 →
    ∃ t, exec (.doCondition n code false) s = .next t ∧ (doOf t n).cond.getLsbD code = false ∧
      (doOf t n).appl = (doOf s n).appl ∧ t.points = s.points) ∧
  (∀ n low s t0, Running s → TablesOk s → (doOf s n).pulse = some t0 → (doOf s n).low = none → t0 + 6_250 ≤ s.now →
    s.now < t0 + 7_500 → ∃ t, exec (.darkTestCheck n low) s = .next t ∧ doOf t n = { doOf s n with low := some low } ∧
      (∀ m, m ≠ n → doOf t m = doOf s m) ∧ t.points = s.points) ∧
  (∀ now low t0 (d : DoS), d.pulse = some t0 → d.low = some low → t0 + 7_500 ≤ now →
    d.endPulse now = { d.setCond 4 (!low) with pulse := none, low := none }) ∧
  (∀ hot v (d : DoS), v ≠ d.cmd → (d.command hot v).pulse = none ∧ (d.command hot v).low = none ∧
    (d.command hot v).cond = d.cond) ∧
  (∀ n s, Running s → TablesOk s → (docfg s n).getLsbD 6 = true → (doOf s n).appl = true → pulseBarred s = false → n < 16 →
    (∀ m, m < 16 → (doOf s m).pulse = none ∧ ∀ t0, (doOf s m).lastPulse = some t0 → t0 + 32_500 ≤ s.now) →
    (∀ t0, (doOf s n).lastPulse = some t0 → t0 / (dtper s * 25_000_000) ≠ s.now / (dtper s * 25_000_000)) →
    ∃ t, exec (.darkTestPulse n) s = .next t ∧ t.points = s.points ∧ (doOf t n).pulse = some s.now ∧
      (doOf t n).conducts s.now = false ∧ (∀ m, m ≠ n → doOf t m = doOf s m)) ∧
  (∀ n s, (doOf s n).appl = false → exec (.darkTestPulse n) s = .next s) ∧
  (∀ s, Running s → TablesOk s → s.field.overtemp = false → ∃ t, exec .fieldOvertemp s = .next t ∧ t.field.overtemp = true ∧
    t.points = s.points ∧ ∀ n, n < 16 → (doOf t n).appl = false ∧ (doOf t n).cmd = (doOf s n).cmd) ∧
  (∀ s, Running s → TablesOk s → ∃ t, exec .fieldDieCooled s = .next t ∧ t.field.overtemp = false ∧ t.saf.tempBad = false ∧
    t.points = s.points ∧ (s.field.overtemp = false → t.field = s.field) ∧
    (s.field.overtemp = true → ∀ n, n < 16 → (doOf t n).cmd = (doOf s n).cmd ∧
      (doOf t n).appl = ((doOf s n).cmd && (doOf s n).latchedAt.isNone))) ∧
  (∀ n s, Running s → bitsOf (aicfg s n) 2 0 = 2 → exec (.aiShuntOpen n) s = .next
    { s with field := { s.field with aiShunt := Table.set none s.field.aiShunt n (some s.now) } }) ∧
  (∀ n ovr s t0, Running s → Table.get none s.field.aiShunt n = some t0 →
    (t0 + 25_000_000 ≤ s.now → exec (.aiShuntRetry n ovr) s = .next { s with field := { s.field with
      aiShunt := Table.set none s.field.aiShunt n (if ovr then some s.now else none) } }) ∧
    (s.now < t0 + 25_000_000 → exec (.aiShuntRetry n ovr) s = .next s)) ∧
  (∀ n dev s, Running s → exec (.aoDeviation n dev) s = .next (putAo n { aoOf s n with dev := dev } s))

/-- ENCODER_EDGE completes on a channel that is not off, at levels that have lasted GLITCH, and acts on that channel alone: a transition and its opposite count
opposite ways, and the four of one quadrature cycle one way; in mode 1 a transition of both inputs counts an error and no position,
and POS bears FAULT until the next Z; Z counts, and is latched where the channel asks for it (R192, R193). The premise on the
tables is `Obligations.EveryStepKeepsImageAndTables`. -/
def Obligations.EncoderEdges : Prop :=
  (∀ c a b z s, Running s → TablesOk s → bitsOf (enccfg s c) 2 0 ≠ 0 → bitsOf (enccfg s c) 15 8 ≤ z.held →
    ∃ t, exec (.encoderEdge c a b z) s = .next t ∧
    t = { s with field := { s.field with enc := t.field.enc } } ∧ (∀ d, d ≠ c → encOf t d = encOf s d) ∧
    (encOf t c).a = a ∧ (encOf t c).b = b ∧ (encOf t c).z = z.z ∧
    (encOf t c).pos = (encOf s c).pos + BitVec.ofInt 32
      ((if (enccfg s c).getLsbD 4 then -1 else 1) * (encCount (bitsOf (enccfg s c) 2 0) (encOf s c) a b).1)) ∧
  (∀ c a b z s, bitsOf (enccfg s c) 2 0 = 0 ∨ z.held < bitsOf (enccfg s c) 15 8 →
    exec (.encoderEdge c a b z) s = .next s) ∧
  (∀ a b, quadStep a b a b = 0 ∧ quadStep a b (!a) (!b) = 0) ∧
  (∀ a b a' b', quadStep a b a' b' = - quadStep a' b' a b) ∧
  (quadStep false false true false = 1 ∧ quadStep true false true true = 1 ∧ quadStep true true false true = 1 ∧
    quadStep false true false false = 1) ∧
  (∀ c a b z s t, Running s → TablesOk s → bitsOf (enccfg s c) 2 0 = 1 → bitsOf (enccfg s c) 15 8 ≤ z.held →
    exec (.encoderEdge c a b z) s = .next t →
    (a ≠ (encOf s c).a → b ≠ (encOf s c).b → (encOf t c).pos = (encOf s c).pos ∧ (encOf t c).qerr = (encOf s c).qerr + 1 ∧
      (z.z = false → (encOf t c).posFault = true)) ∧
    (z.z = true → (encOf s c).z = false → (encOf t c).zcnt = (encOf s c).zcnt + 1 ∧ (encOf t c).posFault = false ∧
      ((enccfg s c).getLsbD 3 = true → (encOf t c).zlat = (encOf t c).pos)))

/-! ## The loop engine and the outputs -/

/-- The loop engine. LOOP_SAMPLE completes at an offset not sampled yet, where the slot's loops are evaluated: a loop outside a
group makes one output due at the sample's phase step plus LAT, beside what is still due under an earlier timing; with usable inputs it is what the mode and the range [OLO, OHI]
give, a frozen output point making the loop track its forced value, and with unusable ones it stays until PVTO; the image and every
other loop keep what they hold. A double disagreement gives no output, and the third within 1 s takes the engine out of service.
LOOP_OUTPUT_WRITE completes at the step at which outputs are due, after the first take of class 0: one alone changes its output
point's value and quality, and no other point. LOOP_ENGINE_KAT completes after a double disagreement and keeps the engine in service
or takes it out (R143 to R147, R151, R156, R159, R414). The premise on the image is `Obligations.EveryStepKeepsImageAndTables`. -/
def Obligations.LoopEngineRows : Prop :=
  (∀ s off, sampleDue s off = true ↔ offsetNow s = off ∧ (∀ h o, s.loops.sampled = some (h, o) → h ≠ s.slate.halfcnt ∨ o < off) ∧
    ∀ k ∈ classesOn s, ¬ (outputDue s k = true ∧ (clsCfg s k).outph = off)) ∧
  (∀ off n s, Running s → s.loops.open_ = true → s.loops.inService = true → sampleDue s off = true →
    (loopNums s).filter (samplesAt s off) = [n] → groupOf s n = [n] →
    let d := loopDesc s n
    let f := (loopRt s n).force
    let up := (loopRt s n).uprev.toInt
    (∃ t o, exec (.loopSample off []) s = .next t ∧ t.loops.due = s.loops.due.filter (fun x => x.loop != n || x.step != absStep s off + d.lat) ++ [o] ∧
      t.loops.sampled = some (s.slate.halfcnt, off) ∧ o.loop = n ∧ o.outpt = d.outpt ∧
      o.step = absStep s off + d.lat ∧ t.points = s.points ∧ t.field = s.field ∧ t.bar = s.bar ∧
      (∀ m, m ≠ n → loopRt t m = loopRt s m) ∧
      (usable s n → ∀ w, frozen s d.outpt = some w → o.val = BitVec.ofInt 32 (clampO d w.toInt)) ∧
      (usable s n → frozen s d.outpt = none →
        (f.mode = 0 → d.rate.toInt ≤ 0 → d.olo.toInt ≤ d.ohi.toInt → d.olo.toInt ≤ o.val.toInt ∧ o.val.toInt ≤ d.ohi.toInt) ∧
        (f.mode = 0 → 0 < d.rate.toInt → ∃ v, o.val = BitVec.ofInt 32 v ∧ up - d.rate.toInt ≤ v ∧ v ≤ up + d.rate.toInt) ∧
        (f.mode = 1 → d.rate.toInt ≤ 0 → o.val = BitVec.ofInt 32 (clampO d f.man.1.toInt) ∧ o.q = f.man.2 &&& 0xF7) ∧
        (f.mode = 2 → o.val = BitVec.ofInt 32 (clampO d f.trk.1.toInt) ∧ o.q = f.trk.2 &&& 0xF7) ∧
        (f.mode = 3 → o.val = (loopRt s n).uprev) ∧ (f.mode = 4 → o.val = BitVec.ofInt 32 (clampO d d.offval.toInt))) ∧
      (¬ usable s n → d.pvto = 0 → o.val = (loopRt s n).uprev ∧ o.q.getLsbD 0 = false)) ∧
    (∃ t, exec (.loopSample off [(n, false)]) s = .next t ∧
      let third := 3 ≤ ((s.now :: s.loops.ddAt).filter (fun t => decide (s.now < t + 25_000_000))).length
      t.loops.katDue = true ∧ (f.mode ≤ 4 → (loopRt t n).status.getLsbD 15 = true) ∧ (loopRt t n).uprev = (loopRt s n).uprev ∧
      (third → t.loops.inService = false ∧ t.loops.due = []) ∧
      (¬ third → t.loops.inService = true ∧ t.loops.due = s.loops.due ∧ t.points = s.points))) ∧
  (∀ off mis s, s.loops.open_ = false ∨ s.loops.inService = false ∨ sampleDue s off = false →
    exec (.loopSample off mis) s = .next s) ∧
  (∀ off s o, Running s → s.loops.inService = true → s.loops.open_ = true → offsetNow s = off → PointsOk s.points →
    s.loops.due.filter (fun o => o.step % 2 ^ 43 == absStep s off % 2 ^ 43) = [o] →
    ∃ t, exec (.loopOutputWrite off) s = .next t ∧
      rawPoint t o.outpt = ⟨o.val, storeQual (rawPoint s o.outpt).q o.q⟩ ∧
      (∀ p, p ≠ o.outpt → rawPoint t p = rawPoint s p) ∧ t.points.frz = s.points.frz ∧
      t.loops.due = s.loops.due.filter (fun o => o.step % 2 ^ 43 != absStep s off % 2 ^ 43) ∧ t.field = s.field ∧
      (isDO o.outpt = true → frozen s o.outpt = none → ∃ c, Table.get none t.bar.outTx 4 = some (c, false) ∧ c.ph = off ∧
        c.doMask.getLsbD (o.outpt - 0x120) = true ∧ c.doVal.getLsbD (o.outpt - 0x120) = o.val.getLsbD 0)) ∧
  (∀ off s, s.loops.inService = false ∨ s.loops.open_ = false ∨ offsetNow s ≠ off →
    exec (.loopOutputWrite off) s = .next s) ∧
  (∀ s, Running s → s.loops.katDue = true → s.loops.inService = true →
    exec (.loopEngineKat true) s = .next { s with loops := { s.loops with katDue := false } } ∧
    ∃ t, exec (.loopEngineKat false) s = .next t ∧ t.loops.inService = false ∧ t.loops.katDue = false ∧ t.loops.due = [] ∧
      t.loops.desc = s.loops.desc ∧ ∀ p, (∀ n ∈ loopNums s, (loopDesc s n).kind = 1 → (loopDesc s n).outpt ≠ p) →
        rawPoint t p = rawPoint s p) ∧
  (∀ pass s, s.loops.katDue = false ∨ s.loops.inService = false → exec (.loopEngineKat pass) s = .next s)

/-- OUTPUT_APPLY completes when the follower reaches the step that an output command names: the channels it names take its values,
an aligned one is armed for its target step, the others keep theirs, and in the barrier-loss state only the complete command acts
and ends it. ALIGNED_TARGET completes when the follower reaches the target, and before it nothing happens (R42, R170, R174, R191).
The premise on the tables is `Obligations.EveryStepKeepsImageAndTables`. -/
def Obligations.OutputApplication : Prop :=
  (∀ k s c l r, Running s → TablesOk s → s.field.pend = l ++ (k, c) :: r → folReached s (c.half.toNat * 2048 + c.ph) = true →
    (∀ x ∈ l, x.1 = k → folReached s (x.2.half.toNat * 2048 + x.2.ph) = false) →
    (s.field.blState = false ∨ c.complete = true →
      ∃ t, exec (.outputApply k) s = .next t ∧ t.points = s.points ∧ t.bar = s.bar ∧ t.field.pend = l ++ r ∧
        (∀ n, c.doMask.getLsbD n = false → doOf t n = doOf s n) ∧ (∀ n, c.aoMask.getLsbD n = false → aoOf t n = aoOf s n) ∧
        (∀ n, n < 16 → c.doMask.getLsbD n = true → (docfg s n).getLsbD 7 = false ∨ s.slate.mode = .free →
          (doOf t n).cmd = c.doVal.getLsbD n ∧
          (doOf t n).appl = ((doOf t n).cmd && (doOf s n).latchedAt.isNone && !s.field.overtemp)) ∧
        (∀ n, n < 16 → c.doMask.getLsbD n = true → (docfg s n).getLsbD 7 = true → s.slate.mode ≠ .free →
          (doOf t n).cmd = (doOf s n).cmd ∧
          (doOf t n).pend = (if c.doVal.getLsbD n = (doOf s n).cmd then none else some (c.doVal.getLsbD n,
            alignTarget (c.half.toNat * 2048 + c.ph)
              (if c.doVal.getLsbD n then bitsOf (docfg s n) 31 20 else bitsOf (docfg s n) 19 8)))) ∧
        (∀ n, n < 4 → c.aoMask.getLsbD n = true → (aoOf t n).mv = (aoMv (c.aoVal.getD n 0)).1) ∧
        (c.complete = true → t.field.needFull = false ∧ (cfgMatch s = true → t.field.blState = false)) ∧
        (c.complete = false → t.field.needFull = s.field.needFull ∧ t.field.blState = s.field.blState)) ∧
    (s.field.blState = true → c.complete = false →
      exec (.outputApply k) s = .next { s with field := { s.field with pend := l ++ r } })) ∧
  (∀ k s, (∀ x ∈ s.field.pend, x.1 = k → folReached s (x.2.half.toNat * 2048 + x.2.ph) = false) →
    exec (.outputApply k) s = .next s) ∧
  (∀ n s v at_, Running s → TablesOk s → (doOf s n).pend = some (v, at_) →
    (folReached s at_ = true → ∃ t, exec (.alignedTarget n) s = .next t ∧ (doOf t n).cmd = v ∧ (doOf t n).pend = none ∧
      (doOf t n).appl = (v && (doOf s n).latchedAt.isNone && !s.field.overtemp) ∧
      (∀ m, m ≠ n → doOf t m = doOf s m) ∧ t.points = s.points) ∧
    (folReached s at_ = false → exec (.alignedTarget n) s = .next s)) ∧
  (∀ n s, (doOf s n).pend = none → exec (.alignedTarget n) s = .next s) ∧
  (∀ lead at_, (alignTarget at_ lead + lead) % 2048 = 0 ∧ at_ ≤ alignTarget at_ lead ∧
    alignTarget at_ lead < at_ + 2048)

/-! ## The safety pair -/

/-- The rows between safety cycles complete where they say, change the state of their own input, channel or request bits, or detect
one fault that the next cycle judges. SAFETY_FILTER_CHANGE completes once the samples of one half, with the at most two that a pulse of the channel's own
source masks, fill SFILT; TEST_PULSE at the place of its source in the frame, TEST_PULSE_CHECK once from 60 us into that pulse, which
lasts 100 us; DISC_TIMEOUT and FEEDBACK_TIMEOUT when the time has run out; SWITCH_OFF_PULSE at the check of its place in the second,
SWITCH_QLOW and LOCKOUT_OFF_TEST; SAFREQ_LAPSE after 200 ms. A request is accepted when its bit falls after [100 ms, 5 s) (R196, R201, R202, R204, R206, R212, R217, R221). The premise on the
tables is `Obligations.EveryStepKeepsImageAndTables`. -/
def Obligations.SafetyDetectionRows : Prop :=
  (∀ n chB lvl samples s, PairUp s → TablesOk s → 2 * sinFilt ((safSet s).sinOf n) ≤ samples →
    (∃ t, exec (.safetyFilterChange ⟨false, n, chB⟩ lvl samples) s = .next t ∧
      t = { s with saf := { s.saf with ins := t.saf.ins } } ∧ (∀ m, m ≠ n → sinOf t m = sinOf s m) ∧
      (sinOf t n).a = (if chB then (sinOf s n).a else lvl) ∧ (sinOf t n).b = (if chB then lvl else (sinOf s n).b) ∧
      ((sinOf t n).disAt.isSome = true → inDisagrees ((safSet s).sinOf n) (sinOf t n) = true) ∧
      (inDisagrees ((safSet s).sinOf n) (sinOf t n) = true → (sinOf s n).failA = false → (sinOf s n).failB = false →
        (sinOf s n).failAll = false → (sinOf t n).disAt = some ((sinOf s n).disAt.getD s.now))) ∧
    (∃ t, exec (.safetyFilterChange ⟨true, n, chB⟩ lvl samples) s = .next t ∧
      t = { s with saf := { s.saf with insB := t.saf.insB } } ∧
      (∀ m, m ≠ n → sinOf (swapHalves t) m = sinOf (swapHalves s) m) ∧
      (sinOf (swapHalves t) n).a = (if chB then (sinOf (swapHalves s) n).a else lvl) ∧
      (sinOf (swapHalves t) n).b = (if chB then lvl else (sinOf (swapHalves s) n).b))) ∧
  (∀ halfB n chB lvl samples s, samples + maskedSamples s ⟨halfB, n, chB⟩ < 2 * sinFilt ((safSet s).sinOf n) →
    exec (.safetyFilterChange ⟨halfB, n, chB⟩ lvl samples) s = .next s) ∧
  (∀ x s, maskedSamples s x ≤ 2 ∧ (sinKind ((safSet s).sinOf x.input) ≠ 1 → maskedSamples s x = 0)) ∧
  (∀ j s, PairUp s → j < 4 → (framePos s = 31_250 * j → ∃ t, exec (.testPulse j) s = .next t ∧
      t = { s with saf := { s.saf with pulseAt := t.saf.pulseAt, pulseSeen := t.saf.pulseSeen } } ∧
      t.saf.pulseAt = Table.set none s.saf.pulseAt j (some s.now) ∧ t.saf.pulseSeen.getLsbD j = false ∧
      ∀ i, i ≠ j → t.saf.pulseSeen.getLsbD i = s.saf.pulseSeen.getLsbD i) ∧
    (framePos s ≠ 31_250 * j → exec (.testPulse j) s = .next s)) ∧
  (∀ j s t0, Table.get none s.saf.pulseAt j = some t0 → pairRuns s = true →
    (sourceHigh s j = false ↔ s.now < t0 + 2_500)) ∧
  (∀ j low rb s, j < 4 → s.saf.pulseSeen.getLsbD j = true → exec (.testPulseCheck j low rb) s = .next s) ∧
  (∀ j low rb s t0, PairUp s → j < 4 → Table.get none s.saf.pulseAt j = some t0 → s.saf.pulseSeen.getLsbD j = false →
    (s.now < t0 + 1_500 → exec (.testPulseCheck j low rb) s = .next s) ∧
    (t0 + 1_500 ≤ s.now → ∃ t, exec (.testPulseCheck j low rb) s = .next t ∧ t.points = s.points ∧ t.saf.sf = s.saf.sf ∧
      t.saf.pulseAt = s.saf.pulseAt ∧ t.saf.pulseSeen.getLsbD j = true ∧
      (rb = false → s.saf.srcBad.getLsbD j = false → (0x05, j, t0 + 500) ∈ t.saf.pendF) ∧
      (rb = true → t.saf.srcBad.getLsbD j = false) ∧
      (rb = true → ∀ n, n < 8 → sinKind ((safSet s).sinOf n) = 1 → sinTsa ((safSet s).sinOf n) = j → (sinOf s n).a = true →
        low.getLsbD (2 * n) = false → (sinOf s n).missA = 1 → (sinOf s n).failA = false →
        (0x02, n, t0 + 1_500) ∈ t.saf.pendF) ∧
      (rb = true → ∀ n, n < 8 → sinKind ((safSet s).sinOf n) = 1 → sinTsa ((safSet s).sinOf n) ≠ j → (sinOf s n).a = true →
        low.getLsbD (2 * n) = true → (sinOf s n).failAll = false → (0x04, n, t0 + 1_500) ∈ t.saf.pendF) ∧
      (rb = true → (∀ n, n < 8 → sinKind ((safSet s).sinOf n) = 1 →
          low.getLsbD (2 * n) = decide (sinTsa ((safSet s).sinOf n) = j) ∧
          low.getLsbD (2 * n + 1) = decide (sinTsb ((safSet s).sinOf n) = j)) →
        t.saf.pendF = s.saf.pendF ∧ t.saf.faults = s.saf.faults))) ∧
  (∀ n s t0, PairUp s → sinKind ((safSet s).sinOf n) ≠ 0 → (sinOf s n).disAt = some t0 →
    inDisagrees ((safSet s).sinOf n) (sinOf s n) = true → (sinOf s n).failA = false → (sinOf s n).failB = false → (sinOf s n).failAll = false →
    let due := t0 + 250_000 * sinDisc ((safSet s).sinOf n)
    (due ≤ s.now → exec (.discTimeout n) s = .next (raiseFault 0x01 n due s)) ∧
    (s.now < due → exec (.discTimeout n) s = .next s)) ∧
  (∀ m s, PairUp s → sqMode ((safSet s).sqOf m) = 1 →
    let fb := 25_000 * sqFbtime ((safSet s).sqOf m)
    ((sqOf s m).appl = true → (sqOf s m).edm = true → max (sqOf s m).onAt (sqOf s m).edmSince + fb ≤ s.now →
      (sqOf s m).fail = false ∨ (0, 0x11) ∉ (sqOf s m).marks →
      exec (.feedbackTimeout m) s = .next (raiseFault 0x11 m s.now s)) ∧
    ((sqOf s m).appl = true → (sqOf s m).edm = false → exec (.feedbackTimeout m) s = .next s) ∧
    ((sqOf s m).appl = false → (sqOf s m).fbDone = false → (sqOf s m).edm = false → (sqOf s m).offAt + fb ≤ s.now →
      exec (.feedbackTimeout m) s = .next (raiseFault 0x10 m s.now (putSq m { sqOf s m with fbDone := true } s)))) ∧
  (∀ q s, PairUp s → conducts s (q / 2) (q % 2) = true →
    (offCheckNow s q = true →
      (∃ x, exec (.switchOffPulse q true) s = .next (putSq (q / 2) x (pulsedOff q s)) ∧
        x.dark = Table.set 0 (sqOf s (q / 2)).dark (q % 2) 0 ∧
        x.rbLow = Table.set false (sqOf s (q / 2)).rbLow (q % 2) false) ∧
      (Table.get 0 (sqOf s (q / 2)).dark (q % 2) = 1 → (q % 2, 0x13) ∉ (sqOf s (q / 2)).marks →
        ∃ t, exec (.switchOffPulse q false) s = .next t ∧ t.saf.pendF = s.saf.pendF ++ [(0x13, q, s.now)]) ∧
      (Table.get 0 (sqOf s (q / 2)).dark (q % 2) = 0 → ∃ t, exec (.switchOffPulse q false) s = .next t ∧
        t.saf.pendF = s.saf.pendF)) ∧
    (offCheckNow s q = false → ∀ fell, exec (.switchOffPulse q fell) s = .next s) ∧
    (Table.get false (sqOf s (q / 2)).rbLow (q % 2) = false → ∃ x, exec (.switchQlow q) s =
      .next (raiseFault 0x14 q s.now (putSq (q / 2) x s)) ∧ Table.get false x.rbLow (q % 2) = true) ∧
    (Table.get false (sqOf s (q / 2)).rbLow (q % 2) = true → exec (.switchQlow q) s = .next s)) ∧
  (∀ q s, conducts s (q / 2) (q % 2) = false → (∀ fell, exec (.switchOffPulse q fell) s = .next s) ∧
    exec (.switchQlow q) s = .next s ∧ exec (.switchQovl q) s = .next s ∧
    (PairUp s → (sqOf s (q / 2)).fail = true ∨ (sqOf s (q / 2)).failH = true ∨ (sqOf s (q / 2)).failL = true ∨
        listedSwitch s q = true → ∀ pass,
      (Table.get 0 s.saf.nextTest q ≤ s.saf.cycle →
        ∃ x, exec (.lockoutOffTest q pass) s = .next (putSq (q / 2) x (testedOff q s)) ∧
          x = { sqOf s (q / 2) with okTests := x.okTests } ∧
          (pass = true → Table.get 0 x.okTests (q % 2) = min (Table.get 0 (sqOf s (q / 2)).okTests (q % 2) + 1) 2)) ∧
      (s.saf.cycle < Table.get 0 s.saf.nextTest q → exec (.lockoutOffTest q pass) s = .next s))) ∧
  (∀ s, PairUp s → TablesOk s → s.saf.lastSafreq + 5_000_000 ≤ s.now → ∃ t, exec .safreqLapse s = .next t ∧
    t.saf.safreqLost = true ∧ t.points = s.points ∧ ∀ f, f < 8 → (sfOf t f).reqU = false ∧
      (sfOf t f).reqR = ⟨false, s.now⟩ ∧ (sfOf t f).reqA = ⟨false, s.now⟩ ∧ (sfOf t f).st = (sfOf s f).st) ∧
  (∀ s, s.now < s.saf.lastSafreq + 5_000_000 → exec .safreqLapse s = .next s) ∧
  (∀ (r : ReqS) now, (r.next false now).2 = true ↔ r.lvl = true ∧ r.since + 2_500_000 ≤ now ∧ now < r.since + 125_000_000) ∧
  (∀ code idx at_ s, let t := raiseFault code idx at_ s
    t.saf.pendF = s.saf.pendF ++ [(code, idx, at_)] ∧ t.saf.faults = s.saf.faults + 1 ∧ t.points = s.points ∧
      t.saf.sf = s.saf.sf)

/-- SAFETY_CYCLE completes 500 us after the last cycle and keeps the promises of the states: a function makes one transition in a
cycle, so one that made its own since the last evaluation stays; of the others, one with a demand is not in RUN at its end, RUN is entered only from ARMED and there only by a reset, an automatic reset that is not the first, or the two hands,
LOCKOUT is left only by an acknowledgement, every channel that a function outside RUN switches is off, and functions without new
faults take the transitions of their demand. Halves that agree still do at its end; a second disagreement in a row, and a clock or
check of a half that fails, put every such function in LOCKOUT; a telegram of which the halves' copies differ is not sent (R196, R198, R207, R213 to R217, R219, R234). The premise on the tables is
`Obligations.EveryStepKeepsImageAndTables`. -/
def Obligations.SafetyCycleKeepsItsPromises : Prop :=
  (∀ edm x s, s.now < s.saf.cycAt + 12_500 → exec (.safetyCycle edm x) s = .next s) ∧
  ∀ edm differ slots clkB failed s, PairUp s → TablesOk s → s.saf.cycAt + 12_500 ≤ s.now →
    ∃ t, exec (.safetyCycle edm ⟨differ, slots, clkB, failed⟩) s = .next t ∧
    t.saf.cycle = s.saf.cycle + 1 ∧ t.saf.cycAt = s.now ∧ t.points = s.points ∧ (∀ e ∈ t.saf.pendF, e.1 = 0x12) ∧
    (∀ f ∈ usedFns s, (sfOf s f).moved = true → (sfOf t f).st = (sfOf s f).st ∧ (sfOf t f).moved = false ∧
      (sfOf t f).gotReset = false ∧ (sfOf t f).gotAck = false) ∧
    (∀ f ∈ usedFns s, (sfOf s f).moved = false → ((sfOf t f).demand = true → (sfOf t f).st ≠ .run) ∧
      ((sfOf t f).st = .run → (sfOf s f).st = .run ∨ (sfOf s f).st = .armed ∧
        ((sfOf s f).gotReset = true ∨ (fnCfg s f).rstauto = true ∧ (sfOf s f).firstRun = false ∨ (fnCfg s f).type = 4)) ∧
      ((sfOf s f).st = .lockout → (sfOf t f).st ≠ .lockout → (sfOf s f).gotAck = true) ∧
      ((sfOf s f).st = .init → (sfOf t f).st = .init ∨ (sfOf t f).st = .lockout) ∧
      (sfOf t f).gotReset = false ∧ (sfOf t f).gotAck = false ∧
      ∀ m, m ∈ (fnCfg s f).outList → sqMode ((safSet s).sqOf m) ≠ 3 → (sfOf t f).st ≠ .run →
        (sqOf t m).appl = false ∧ (sqOf t m).cmd = false) ∧
    (differ = true → s.saf.lastDiffer = true → ∀ f ∈ usedFns s, (sfOf s f).moved = false →
      (sfOf s f).st ≠ .lockout → (sfOf t f).st = .lockout) ∧
    (differ = true → s.saf.lastDiffer = false → t.saf.lastDiffer = true ∧ t.saf.cmpcnt = s.saf.cmpcnt + 1) ∧
    (∀ slot, slot < 32 → slots.getLsbD slot = true →
      Table.get [] t.msl.fromPair slot = Table.get [] s.msl.fromPair slot) ∧
    (clkB < 12_250 ∨ 12_750 < clkB ∨ failed ≠ 0 → s.saf.selfBad = false → t.saf.mfcode = 0x33 ∧
      ∀ f ∈ usedFns s, (sfOf s f).moved = false → (sfOf s f).st ≠ .lockout → (sfOf t f).st = .lockout) ∧
    (differ = false → HalvesAgree s → t.saf.lastDiffer = false ∧ (slots = 0 → HalvesAgree t)) ∧
    (differ = false → HalvesAgree s → 12_250 ≤ clkB → clkB ≤ 12_750 → failed = 0 → s.saf.pendF = [] →
      (∀ g, (sfOf s g).gotAck = false) → s.saf.supplyBad = false →
      ∀ f ∈ usedFns s, (sfOf s f).moved = false → (sfOf s f).held = [] → (fnCfg s f).type ≠ 3 → (fnCfg s f).type ≠ 4 →
        ((sfOf s f).st = .run → (sfOf t f).st = if fnDemand s f then .safe else .run) ∧
        ((sfOf s f).st = .armed → fnDemand s f = true → (sfOf t f).st = .safe) ∧
        ((sfOf s f).st = .armed → fnDemand s f = false → (sfOf s f).gotReset = true → (sfOf t f).st = .run) ∧
        ((sfOf s f).st = .armed → fnDemand s f = false → (sfOf s f).gotReset = false → (fnCfg s f).rstauto = false →
          (sfOf t f).st = .armed) ∧
        ((sfOf s f).st = .safe → (sfOf t f).st = if fnDemand s f then .safe else .armed))

/-- The rows that move a function between cycles. SWITCH_QOVL completes on a conducting switch and turns its channel off;
SUPPLY_FAULT takes every function in ARMED or RUN that has not moved in this cycle to SAFE and SUPPLY_RECOVERED ends it; TEMP_FAULT is
judged by the next evaluation, and no function leaves INIT but for LOCKOUT while it lasts;
STANDIN_EXPIRY locks its function at the end of the stand-in; LOCK_RELEASE completes once the function's channels have been off for
LOCKDLY and its mirror contacts are released; TWO_HAND_TIMEOUT ends the window in SAFE; START_DIAGNOSTICS completes with a set in
force and takes functions out of INIT, into LOCKOUT where the retained list names them, a fault was found or a mirror contact is not
released (R206, R215, R216, R219, R220, R222). The premise on the tables is `Obligations.EveryStepKeepsImageAndTables`. -/
def Obligations.SafetyFunctionRows : Prop :=
  (∀ q s, PairUp s → TablesOk s → q < 8 → conducts s (q / 2) (q % 2) = true → ∃ t, exec (.switchQovl q) s = .next t ∧
    (sqOf t (q / 2)).appl = false ∧ (0x15, q, s.now) ∈ t.saf.pendF ∧ t.points = s.points) ∧
  (∀ s, PairUp s → TablesOk s → s.saf.supplyBad = false → ∃ t, exec .supplyFault s = .next t ∧ t.saf.supplyBad = true ∧
    t.saf.mfcode = 0x32 ∧ t.points = s.points ∧ ∀ f ∈ usedFns s, (sfOf t f).st =
      (if ((sfOf s f).st = .armed ∨ (sfOf s f).st = .run) ∧ (sfOf s f).moved = false then .safe else (sfOf s f).st) ∧
      (sfOf t f).fcode = (sfOf s f).fcode ∧
      (sfOf t f).si = (sfOf s f).si) ∧
  (∀ s, Running s → exec .supplyRecovered s = .next { s with saf := { s.saf with supplyBad := false } }) ∧
  (∀ s, PairUp s → TablesOk s → s.saf.tempBad = false → ∃ t, exec .tempFault s = .next t ∧ t.saf.tempBad = true ∧
    t.saf.mfcode = 0x34 ∧ t.saf.pendF = s.saf.pendF ++ [(0x34, 0, s.now)] ∧ t.saf.sf = s.saf.sf ∧ t.points = s.points ∧
    ∀ f, faultActs s f (0x34, 0, s.now) = true) ∧
  (∀ f s, PairUp s → TablesOk s → (sfOf s f).si = true → (sfOf s f).siEnd ≤ s.now →
    ∃ t, exec (.standinExpiry f) s = .next t ∧ (sfOf t f).st = .lockout ∧ (sfOf t f).siexp = true ∧ (sfOf t f).si = false ∧
      t.points = s.points ∧ (f, (sfOf s f).fcode, true) ∈ t.saf.lockList ∧ ∀ g, g ≠ f → (sfOf t g).st = (sfOf s g).st) ∧
  (∀ f s, (sfOf s f).si = false ∨ s.now < (sfOf s f).siEnd → exec (.standinExpiry f) s = .next s) ∧
  (∀ f s, PairUp s → TablesOk s → (fnCfg s f).type = 3 → (sfOf s f).reqU = true → (sfOf s f).st ≠ .init →
    (∀ m ∈ (fnCfg s f).outList, (sqOf s m).appl = false ∧ (sqMode ((safSet s).sqOf m) = 1 → (sqOf s m).edm = true) ∧
      (sqOf s m).offAt + 25_000_000 * (fnCfg s f).lockdly ≤ s.now) →
    ((sfOf s f).offSince + 25_000_000 * (fnCfg s f).lockdly ≤ s.now → ∃ t, exec (.lockRelease f) s = .next t ∧
      (sfOf t f).unlock = true ∧ (sfOf t f).lockOut = true ∧ (sfOf t f).st = (sfOf s f).st ∧ t.points = s.points) ∧
    (s.now < (sfOf s f).offSince + 25_000_000 * (fnCfg s f).lockdly → exec (.lockRelease f) s = .next s)) ∧
  (∀ f s, (∃ m ∈ (fnCfg s f).outList, (sqOf s m).appl = true ∨ s.now < (sqOf s m).offAt + 25_000_000 * (fnCfg s f).lockdly) →
    exec (.lockRelease f) s = .next s) ∧
  (∀ f s t1, PairUp s → TablesOk s → (sfOf s f).st = .armed → (sfOf s f).t1 = some t1 → (sfOf s f).moved = false →
    (∀ e ∈ s.saf.pendF, faultActs s f e = false) →
    (t1 + 12_500_000 ≤ s.now → ∃ t, exec (.twoHandTimeout f) s = .next t ∧ (sfOf t f).st = .safe ∧ (sfOf t f).t1 = none ∧
      t.points = s.points ∧ ∀ g, g ≠ f → sfOf t g = sfOf s g) ∧
    (s.now < t1 + 12_500_000 → exec (.twoHandTimeout f) s = .next s)) ∧
  (∀ s, PairUp s → TablesOk s → s.saf.inForce.isSome = true → ∃ t, exec (.startDiagnostics []) s = .next t ∧
    t.saf.diag = true ∧ t.points = s.points ∧ ∀ f ∈ usedFns s, ((sfOf s f).st ≠ .init ∨ fnVerified s f = false →
        (sfOf t f).st = (sfOf s f).st) ∧
      ((sfOf s f).st = .init → fnVerified s f = true → (∃ e ∈ s.saf.lockList, e.1 = f) ∨ (sfOf s f).initF.isSome = true ∨
        (∃ m ∈ (fnCfg s f).outList, sqMode ((safSet s).sqOf m) = 1 ∧ (sqOf s m).edm = false) ∨ s.saf.tempBad = true ∨
        s.saf.selfBad = true ∨ (∃ e ∈ s.saf.pendF, faultActs s f e = true) → (sfOf t f).st = .lockout) ∧
      ((sfOf s f).st = .init → fnVerified s f = true → (∀ e ∈ s.saf.lockList, e.1 ≠ f) → (sfOf s f).initF = none →
        (∀ e ∈ s.saf.pendF, faultActs s f e = false) → s.saf.tempBad = false → s.saf.selfBad = false →
        (∀ m ∈ (fnCfg s f).channels, sqMode ((safSet s).sqOf m) = 1 → (sqOf s m).edm = true) →
        (sfOf t f).st = if fnDemand s f || s.saf.supplyBad then .safe else .armed)) ∧
  (∀ s found, PairUp s → TablesOk s → s.saf.inForce.isSome = true → (∃ e ∈ found, 0x30 ≤ e.1) →
    ∃ t, exec (.startDiagnostics found) s = .next t ∧
      ∀ f ∈ usedFns s, (sfOf s f).st = .init → fnVerified s f = true → (sfOf t f).st = .lockout)


/-! ## The safety layer -/

/-- The slots of the safety layer. MSL_OPENED, MSL_DATA, MSL_OPEN and MSL_CHECK complete on the oldest telegram of their slot: one
that the slot's state does not take is dropped, one that the halves judge differently is dropped and counts as a disagreement. An
input slot: an OPENED that answers its OPEN in time opens it without a permit, a DATA in sequence that echoes the last CHECK in time
decides its stop state, one that does not can only stop it, MSL_TIMEOUT stops it and the cycle that follows opens it anew, and the
second CRC failure within an hour halts it; MSL_OPEN_RETRY sends a new OPEN with a start value other than 0. An output slot: a good
OPEN is answered by an OPENED that echoes it and starts a new sequence, a good CHECK in its time asks for the next DATA and renews
the time of the slot, whose end, MSL_PRODUCER_LISTEN, returns it to LISTEN (R231 to R240). The premise on the tables is
`Obligations.EveryStepKeepsImageAndTables`. -/
def Obligations.SafetyLayerRows : Prop :=
  (∀ (last : Word) n, (1 ≤ n → n ≤ 64 → seqOf last ((last + BitVec.ofNat 32 n).setWidth 16) = .good (last + BitVec.ofNat 32 n)) ∧
    (64 < n → n ≤ 32768 → seqOf last ((last + BitVec.ofNat 32 n).setWidth 16) = .failure) ∧
    (1 ≤ n → n < 32768 → seqOf last ((last - BitVec.ofNat 32 n).setWidth 16) = .repeated) ∧
    seqOf last (last.setWidth 16) = .repeated) ∧
  (∀ slot differ s, inboxOf s slot = none → exec (.mslOpened slot differ) s = .next s ∧ exec (.mslData slot differ) s = .next s ∧
    exec (.mslOpen slot differ) s = .next s ∧ exec (.mslCheck slot differ) s = .next s) ∧
  (∀ slot differ s tg, Running s → inboxOf s slot = some tg →
    (16 ≤ slot ∨ (mslOf s slot).st ≠ .opening → exec (.mslOpened slot differ) s = .next (dropInbox slot s)) ∧
    (16 ≤ slot ∨ (mslOf s slot).st ≠ .run → exec (.mslData slot differ) s = .next (dropInbox slot s)) ∧
    (slot < 16 ∨ setsVerified s = false → exec (.mslOpen slot differ) s = .next (dropInbox slot s)) ∧
    (slot < 16 ∨ (mslOf s slot).st ≠ .run → exec (.mslCheck slot differ) s = .next (dropInbox slot s))) ∧
  (∀ slot tg s, Running s → TablesOk s → slot < 16 → (mslOf s slot).st = .opening →
    let e := mslEnt s slot
    let u := dropInbox slot s
    (inboxOf s slot = some tg →
      exec (.mslOpened slot true) s = .next { u with saf := { u.saf with rowDiff := true } } ∧
      (tgGood e 2 ((tgStart tg).toNat / 65536) tg = false → exec (.mslOpened slot false) s = .next (crcFailure slot u)) ∧
      (tgGood e 2 ((tgStart tg).toNat / 65536) tg = true → tgTexp tg ≠ e.texp ∨ tgLen tg ≠ 4 →
        exec (.mslOpened slot false) s = .next (putMsl slot { mslOf s slot with err := 4 } u)) ∧
      (tgGood e 2 ((tgStart tg).toNat / 65536) tg = true → tgTexp tg = e.texp → tgLen tg = 4 →
        tgEcho tg ≠ (mslOf s slot).c0.setWidth 16 ∨ (mslOf s slot).openAt + openWait e ≤ s.now →
        exec (.mslOpened slot false) s = .next u) ∧
      (tgGood e 2 ((tgStart tg).toNat / 65536) tg = true → tgEcho tg = (mslOf s slot).c0.setWidth 16 → tgTexp tg = e.texp →
        tgLen tg = 4 → s.now < (mslOf s slot).openAt + openWait e →
        ∃ t, exec (.mslOpened slot false) s = .next t ∧ OnlySlot slot s t ∧ (mslOf t slot).st = .run ∧
          (mslOf t slot).peer = tgStart tg ∧ (mslOf t slot).expTo = s.now + 25_000 * e.texp ∧ (mslOf t slot).chkDue = true ∧
          (mslOf t slot).lastChk = none ∧ mslStop t slot = true)) ∧
    (s.now < (mslOf s slot).openAt + openWait e → ∀ differ, exec (.mslOpenRetry ⟨slot, differ⟩) s = .next s) ∧
    ((mslOf s slot).openAt + openWait e ≤ s.now →
      (∃ t v, exec (.mslOpenRetry ⟨slot, false⟩) s = .next t ∧ OnlySlot slot s t ∧
        v ≠ 0 ∧ (mslOf t slot).st = .opening ∧ (mslOf t slot).c0 = v ∧ (mslOf t slot).openAt = s.now ∧
        t.msl.fromPair = Table.set [] s.msl.fromPair slot (telegram e 1 false v 0 (bytesLE 4 v.toNat))) ∧
      ∃ t, exec (.mslOpenRetry ⟨slot, true⟩) s = .next t ∧ t.saf.rowDiff = true ∧ (mslOf t slot).st = .opening ∧
        t.msl.fromPair = s.msl.fromPair)) ∧
  (∀ slot tg s, Running s → TablesOk s → slot < 16 → (mslOf s slot).st = .run →
    let e := mslEnt s slot
    let u := dropInbox slot s
    (inboxOf s slot = some tg →
      exec (.mslData slot true) s = .next { u with saf := { u.saf with rowDiff := true } } ∧
      (judgeSeq e 4 (mslOf s slot).peer tg = .failure → exec (.mslData slot false) s = .next (crcFailure slot u)) ∧
      (judgeSeq e 4 (mslOf s slot).peer tg = .repeated → exec (.mslData slot false) s = .next (repetition slot u)) ∧
      (∀ n, judgeSeq e 4 (mslOf s slot).peer tg = .good n → ∃ t, exec (.mslData slot false) s = .next t ∧ OnlySlot slot s t ∧
        (mslOf t slot).st = .run ∧ (mslOf t slot).peer = n ∧
        ((mslOf s slot).lastChk = some (tgEcho tg) → s.now < (mslOf s slot).expTo →
          (mslOf t slot).expTo = s.now + 25_000 * e.texp ∧ mslStop t slot = (tgPasv tg || !dataBit (tgData tg) e.pbit)) ∧
        ((mslOf s slot).lastChk ≠ some (tgEcho tg) ∨ (mslOf s slot).expTo ≤ s.now →
          (mslOf t slot).expTo = (mslOf s slot).expTo ∧ (mslStop s slot = true → mslStop t slot = true) ∧
          ((tgPasv tg || !dataBit (tgData tg) e.pbit) = true → mslStop t slot = true)))) ∧
    (s.now < (mslOf s slot).expTo → exec (.mslTimeout slot) s = .next s) ∧
    ((mslOf s slot).expTo ≤ s.now → (mslOf s slot).late = false → ∃ t, exec (.mslTimeout slot) s = .next t ∧
      OnlySlot slot s t ∧ (mslOf t slot).tocnt = (mslOf s slot).tocnt + 1 ∧ (mslOf t slot).err = 3 ∧
      (mslOf t slot).late = true ∧ mslStop t slot = true) ∧
    ((mslOf s slot).expTo ≤ s.now → slotUsed s slot = true → ∀ found, ∃ v, v ≠ 0 ∧
      let t := slotCycle false found slot s
      (mslOf t slot).st = .opening ∧ (mslOf t slot).c0 = v ∧ mslStop t slot = true ∧
      (mslOf t slot).tocnt = (if (mslOf s slot).late then (mslOf s slot).tocnt else (mslOf s slot).tocnt + 1) ∧
      t.msl.fromPair = Table.set [] s.msl.fromPair slot (telegram e 1 false v 0 (bytesLE 4 v.toNat)) ∧
      let t := slotCycle true found slot s
      (mslOf t slot).st = .opening ∧ mslStop t slot = true ∧ t.msl.fromPair = s.msl.fromPair ∧ t.saf.rowDiff = true)) ∧
  (∀ slot s, (mslOf s slot).st ≠ .run → exec (.mslTimeout slot) s = .next s) ∧
  (∀ slot s, TablesOk s →
    (mslOf (crcFailure slot s) slot).crccnt = (mslOf s slot).crccnt + 1 ∧ (mslOf (crcFailure slot s) slot).crcAt = some s.now ∧
    (∀ t0, (mslOf s slot).crcAt = some t0 → s.now < t0 + 3600 * 25_000_000 → (mslOf (crcFailure slot s) slot).st = .halt) ∧
    ((mslOf s slot).crcAt = none → (mslOf (crcFailure slot s) slot).st = (mslOf s slot).st) ∧
    (mslOf (repetition slot s) slot).st = (mslOf s slot).st ∧ (mslOf (repetition slot s) slot).peer = (mslOf s slot).peer) ∧
  (∀ slot tg s, Running s → TablesOk s → 16 ≤ slot → inboxOf s slot = some tg → slotUsed s slot = true →
    slotVerified s slot = true → (mslOf s slot).st = .idle ∨ (mslOf s slot).st = .run →
    let e := mslEnt s slot
    let u := dropInbox slot s
    exec (.mslOpen slot true) s = .next { u with saf := { u.saf with rowDiff := true } } ∧
    (tgGood e 1 ((tgStart tg).toNat / 65536) tg = false → exec (.mslOpen slot false) s = .next (crcFailure slot u)) ∧
    (tgGood e 1 ((tgStart tg).toNat / 65536) tg = true → tgTexp tg ≠ e.texp ∨ tgLen tg ≠ 4 →
      exec (.mslOpen slot false) s = .next u) ∧
    (tgGood e 1 ((tgStart tg).toNat / 65536) tg = true → tgTexp tg = e.texp → tgLen tg = 4 →
      ∃ t v, exec (.mslOpen slot false) s = .next t ∧ OnlySlot slot s t ∧ v ≠ 0 ∧ (mslOf t slot).st = .run ∧
        (mslOf t slot).own = v ∧ (mslOf t slot).peer = tgStart tg ∧ (mslOf t slot).lastGood = s.now ∧
        t.msl.fromPair = Table.set [] s.msl.fromPair slot
          (telegram e 2 false v ((tgStart tg).setWidth 16) (bytesLE 4 v.toNat)))) ∧
  (∀ slot tg s, Running s → TablesOk s → 16 ≤ slot → (mslOf s slot).st = .run →
    let e := mslEnt s slot
    let u := dropInbox slot s
    (inboxOf s slot = some tg → (mslOf s slot).lastGood + 50_000 * e.texp ≤ s.now →
      exec (.mslCheck slot false) s = .next u) ∧
    (inboxOf s slot = some tg → s.now < (mslOf s slot).lastGood + 50_000 * e.texp →
      (judgeSeq e 3 (mslOf s slot).peer tg = .failure → exec (.mslCheck slot false) s = .next (crcFailure slot u)) ∧
      (judgeSeq e 3 (mslOf s slot).peer tg = .repeated → exec (.mslCheck slot false) s = .next (repetition slot u)) ∧
      (∀ n, judgeSeq e 3 (mslOf s slot).peer tg = .good n → ∃ t, exec (.mslCheck slot false) s = .next t ∧ OnlySlot slot s t ∧
        (mslOf t slot).st = .run ∧ (mslOf t slot).peer = n ∧ (mslOf t slot).echo = tgSeq tg ∧
        (mslOf t slot).lastGood = s.now ∧ (mslOf t slot).dataDue = true ∧ t.msl.fromPair = s.msl.fromPair)) ∧
    (s.now < (mslOf s slot).lastGood + 50_000 * e.texp → exec (.mslProducerListen slot) s = .next s) ∧
    ((mslOf s slot).lastGood + 50_000 * e.texp ≤ s.now → ∃ t, exec (.mslProducerListen slot) s = .next t ∧
      OnlySlot slot s t ∧ (mslOf t slot).st = .idle ∧ (mslOf t slot).dataDue = false)) ∧
  (∀ (e : MslEnt) kind last tg n, judgeSeq e kind last tg = .good n → tgKind tg = kind ∧ tgLen tg = e.len ∧
    (n - last).toNat ≤ 64 ∧ 1 ≤ (n - last).toNat ∧ n.setWidth 16 = tgSeq tg ∧
    wordAt tg (12 + e.len) = crc32c (implicitBlock e (n.toNat / 65536) ++ tg.take (12 + e.len)))

/-! ## The networks -/

/-- The Ethernet MACs. FRAME_RECEIVE completes on every frame: one that is not good counts in its class and goes nowhere, one that
overran the FIFO is gone, a good one is filtered and delivered into a ring of at least 16 descriptors or counted; an uplink learns source addresses and forwards what is not for the module.
TX_DESCRIPTOR_SUBMIT lets a complete frame start where the MAC is idle, on a segment an
acyclic one only outside the windows, and sends a frame of the host port by the uplink on which its
address is learned. FRAME_TRANSMIT_DONE completes for a frame in progress: it is on the wire with the MAC's own address, or comes back
with a code, and what follows starts; COLLISION on a mixing segment backs off, to BACKOFF_EXPIRY, or gives up. RX_DESCRIPTOR_RETURN
gives a buffer back. ADDRESS_AGEOUT, LINK_UP, LINK_DOWN, RATE_WINDOW_1S, RATE_WINDOW_100MS, QUEUE_WAIT_UPSHIFT and
RATE_CHANGE_FAIL complete under their conditions and change their own entry, link or rate; PAUSE_FRAME, PAUSE_HOLD_END,
PAUSE_WATCHDOG and PAUSE_BREAK_END hold the queues and let them go (R251, R253, R256 to R258, R260 to R268). -/
def Obligations.EthernetRows : Prop :=
  (∀ m f s, Running s → macLive s m = true → 2 ≤ m →
    (∀ i, rxClass f = some i → exec (.frameReceive m f) s = .next (countMac m i 1 s)) ∧
    (rxClass f = none → f.pcp = none → f.etype ≠ 0x8808 →
      let u := putMac m ((macOf s m).rxGood f.len f.da) s
      let n := (f.len + 511) / 512
      (f.fifoOverrun = true → exec (.frameReceive m f) s = .next (countMac m 0x17 1 u)) ∧
      (filterMatch u m f.da = none → f.fifoOverrun = false → exec (.frameReceive m f) s = .next (countMac m 0x15 1 u)) ∧
      (∀ mt, filterMatch u m f.da = some mt → f.fifoOverrun = false →
        (macOf u m).rx.length < 16 ∨ (macOf u m).rx.length < n → exec (.frameReceive m f) s = .next (countMac m 0x16 1 u)) ∧
      (∀ mt, filterMatch u m f.da = some mt → f.fifoOverrun = false → 16 ≤ (macOf u m).rx.length →
        n ≤ (macOf u m).rx.length →
        (∀ d ∈ (macOf u m).rx.take n, d.own = true) → f.srcIp = 0 → f.etype ≠ 0x88B5 →
        ∃ t l, exec (.frameReceive m f) s = .next t ∧ (macOf t m).rx = (macOf u m).rx.drop n ++ l ∧ l.length = n ∧
          (∀ d ∈ l, d.own = false) ∧ l.map (fun d => d.buf) = ((macOf u m).rx.take n).map (fun d => d.buf) ∧
          t.points = s.points ∧ t.msl = s.msl))) ∧
  (∀ m f s, Running s → m < 2 → (macOf s m).linkUp = true → f.fcsOk = true →
    s.eth.learned.length < 1024 → ∃ t, exec (.frameReceive m f) s = .next t ∧ t.points = s.points ∧
      (f.sa, m, s.now) ∈ t.eth.learned) ∧
  (∀ m f s, Running s → m < 2 → (macOf s m).linkUp = true → rxClass f = none → isLinkLocal f = false →
    f.da ≠ macAddr s 0 → isGroup f.da = false → f.sa ≠ f.da →
    (f.fifoOverrun = true → ∃ t, exec (.frameReceive m f) s = .next t ∧ t.eth.fwdBytes = s.eth.fwdBytes ∧
      t.msl = s.msl ∧ macOf t (1 - m) = macOf s (1 - m) ∧
      Table.get 0 (macOf t m).cnt 0x17 = Table.get 0 (macOf s m).cnt 0x17 + 1) ∧
    (f.fifoOverrun = false → (macOf s (1 - m)).linkUp = true → learnedOn s f.da ≠ some m → ringOf (macOf s (1 - m)) (fwdQueue f) = [] →
      f.len ≤ 49_152 → s.eth.fwdBytes + f.len ≤ 196_608 → ∃ t, exec (.frameReceive m f) s = .next t ∧
        t.eth.fwdBytes = s.eth.fwdBytes + f.len ∧ t.msl = s.msl ∧ t.points = s.points) ∧
    (f.fifoOverrun = false → learnedOn s f.da = some m → ∃ t, exec (.frameReceive m f) s = .next t ∧ t.eth.fwdBytes = s.eth.fwdBytes ∧
      t.msl = s.msl ∧ macOf t (1 - m) = macOf s (1 - m))) ∧
  (∀ m q d s, Running s → 2 ≤ m → m < 7 → q < 4 → macLive s m = true → d.fs = true → d.ls = true → 1 ≤ d.len → d.len ≤ 1518 →
    (macOf s m).busy = none → (macOf s m).hold = none → ringOf (macOf s m) q = [] →
    (∀ k, headFrame (macOf s m) k = none) →
    (isFs m = true → (winOf s (m - 1)).cur = none ∧ (q < 2 → acycFits s (m - 1) ((wireLen d.len + 22) * 20) = true)) →
    ∃ t, exec (.txDescriptorSubmit m q [d]) s = .next t ∧
      (macOf t m).busy = some q ∧ headFrame (macOf t m) q = some [⟨d, true, 0, 0, none, s.now, none⟩] ∧ t.points = s.points) ∧
  (∀ g n s, s.slate.started = true → acycFits s g n = true → (winOf s g).isOpen = false ∧
    ((winOf s g).ready = true → s.now + n ≤ offsetTick s 32)) ∧
  (∀ m q d s, Running s → m < 2 → q < 4 → d.fs = true →
    (∀ u, isGroup d.da = false → learnedOn s d.da = some u →
      exec (.txDescriptorSubmit m q [d]) s = .next (submitTo u q [d] s)) ∧
    (learnedOn s d.da = none → exec (.txDescriptorSubmit m q [d]) s = .next (submitTo 1 q [d] (submitTo 0 q [d] s)))) ∧
  (∀ m q s f, Running s → m < 7 → (macOf s m).busy = some q → (macOf s m).backoff = none →
    headFrame (macOf s m) q = some f →
    (∀ deferred, ∃ t, exec (.frameTransmitDone m (.sent deferred)) s = .next t ∧ t.points = s.points ∧
      ∃ sa bytes bufs, t.out = .frame m q (frameDa f) sa (max (frameLen f) 60 + 4) bytes bufs :: s.out ∧
        (frameFwd f = false → sa = macAddr s m)) ∧
    (exec (.frameTransmitDone m .underrun) s = .next (finishFrame m 4 (countMac m 0x28 1 s)) ∧
      exec (.frameTransmitDone m .linkDown) s = .next (finishFrame m 5 (countMac m 0x29 1 s)) ∧
      (isFs m = true → exec (.collision m true) s = .next (finishFrame m 3 (countMac m 0x26 1 s)) ∧
        (15 ≤ (macOf s m).colls → exec (.collision m false) s = .next (finishFrame m 2 (countMac m 0x27 1 s))))) ∧
    (isFs m = true → (macOf s m).colls < 15 → ∃ r, r < 2 ^ min ((macOf s m).colls + 1) 10 ∧
      exec (.collision m false) s = .next (putMac m
        { macOf s m with colls := (macOf s m).colls + 1, backoff := some (s.now + r * 1280) }
        { s with freeCtr := s.freeCtr + 1 }))) ∧
  (∀ m s, (macOf s m).busy = none → (∀ r, exec (.frameTransmitDone m r) s = .next s) ∧
    ∀ late, exec (.collision m late) s = .next s) ∧
  (∀ m s t0, Running s → (macOf s m).backoff = some t0 →
    (t0 ≤ s.now → exec (.backoffExpiry m) s = .next (putMac m { macOf s m with backoff := none } s)) ∧
    (s.now < t0 → exec (.backoffExpiry m) s = .next s)) ∧
  (∀ m b s, Running s → m < 7 → (b.toNat % 512 ≠ 0 → exec (.rxDescriptorReturn m [b]) s = .next s) ∧
    (b.toNat % 512 = 0 → (∃ d ∈ (macOf s m).rx, d.buf = b) → exec (.rxDescriptorReturn m [b]) s = .next (putMac m
      { macOf s m with rx := (macOf s m).rx.map (fun d => if d.buf == b then { d with own := true, stat := 0 } else d) } s)) ∧
    (b.toNat % 512 = 0 → (∀ d ∈ (macOf s m).rx, d.buf ≠ b) → (macOf s m).rx.length < 1024 →
      exec (.rxDescriptorReturn m [b]) s = .next (putMac m { macOf s m with
        rx := (macOf s m).rx.takeWhile (fun d => d.own) ++ [⟨b, true, 0, 0⟩] ++ (macOf s m).rx.dropWhile (fun d => d.own) } s))) ∧
  (∀ a s, Running s → ∃ t, exec (.addressAgeout a) s = .next t ∧ (∀ e, e ∈ t.eth.learned ↔ e ∈ s.eth.learned ∧
    (e.1 = a → s.now < e.2.2 + 7_500_000_000)) ∧ t.eth.mac = s.eth.mac) ∧
  (∀ m s, Running s → m < 2 ∨ m = 6 →
    ((macOf s m).linkUp = true → ∃ t, exec (.linkDown m) s = .next t ∧ (∀ e ∈ t.eth.learned, e.2.1 ≠ m) ∧
      t.points = s.points ∧ t = dropAll m { s with eth := { s.eth with
        learned := s.eth.learned.filter (fun e => e.2.1 != m), mac := Table.set Mac.zero s.eth.mac m
          ({ macOf s m with linkUp := false, busy := none, colls := 0, backoff := none }.count 0x31 1) } }) ∧
    ((macOf s m).linkUp = false → exec (.linkDown m) s = .next s) ∧
    ((macOf s m).linkUp = false → (macOf s m).reneg = none → s.eth.wantUp = [] → ∀ rate,
      ∃ t, exec (.linkUp m rate) s = .next t ∧ (macOf t m).linkUp = true ∧
        (macOf t m).rate = (if m = 6 then 1 else rate) ∧ t.eth.learned = s.eth.learned ∧
        (m < 2 → (macOf s m).wasUp = true → rate ≠ (macOf s m).rate → ∃ u, t = netEvent m 1 u)) ∧
    ((macOf s m).linkUp = true → ∀ rate, exec (.linkUp m rate) s = .next s)) ∧
  (∀ u s, Running s → u < 2 → mslUsesUl s = true ∨ (macOf s (1 - u)).linkUp = false → ∃ n,
    exec (.rateWindow1s u) s = .next (putMac u { macOf s u with oct1 := (0, 0), quiet := n } s) ∧
      (n = 0 ∨ n = (macOf s u).quiet + 1)) ∧
  (∀ u s, Running s → u < 2 → (macOf s u).linkUp = true → (macOf s u).holdTo + 25_000_000 ≤ s.now →
    let lim := if (macOf s u).rate = 0 then 625_000 else 62_500
    (macOf s u).oct1.1 < lim → (macOf s u).oct1.2 < lim → dsWait s u ≤ (macOf s u).quiet + 1 →
    (macOf s u).rate < dsMin s u → (macOf s u).failTo ≤ s.now → rateBarred s u = false → mslUsesUl s = false →
    ∃ t, exec (.rateWindow1s u) s = .next t ∧ (macOf t u).reneg = some ((macOf s u).rate + 1, s.now) ∧ t.points = s.points) ∧
  (∀ u s, Running s → u < 2 → (macOf s u).linkUp = true →
    ((macOf s u).rate = 0 → exec (.rateWindow100ms u) s = .next (putMac u { macOf s u with oct01 := (0, 0) } s) ∧
      ∀ q, exec (.queueWaitUpshift u q) s = .next s) ∧
    ((macOf s u).rate ≠ 0 → rateBarred s u = false →
      ((if (macOf s u).rate = 1 then 625_000 else 62_500) < (macOf s u).oct01.1 →
        ∃ t, exec (.rateWindow100ms u) s = .next t ∧ (macOf t u).reneg = some (0, s.now) ∧ t.points = s.points) ∧
      ∀ q f d, f ∈ (framesOf (ringOf (macOf s u) q)).tail → d ∈ descsAt (ringOf (macOf s u) q) f → d.at_ + 250_000 ≤ s.now →
        ∃ t, exec (.queueWaitUpshift u q) s = .next t ∧ (macOf t u).reneg = some (0, s.now) ∧ t.points = s.points)) ∧
  (∀ u s adv t0, Running s → u < 2 → (macOf s u).reneg = some (adv, t0) →
    (t0 + 125_000_000 ≤ s.now → exec (.rateChangeFail u) s = .next (putMac u
      ({ macOf s u with reneg := none, failTo := s.now + 90_000_000_000 }.count 0x30 1) s)) ∧
    (s.now < t0 + 125_000_000 → exec (.rateChangeFail u) s = .next s)) ∧
  (∀ m sa quanta s, Running s → macLive s m = true → isFs m = false → (macOf s m).pauseOff = none → quanta ≠ 0 →
    (macOf s m).hold = none → ∃ t, exec (.pauseFrame m ⟨sa, quanta⟩) s = .next t ∧ t.points = s.points ∧
      (macOf t m).hold = some ⟨s.now, s.now + slotTicks (macRate s m) quanta.toNat⟩) ∧
  (∀ m sa quanta s, Running s → isFs m = true → exec (.pauseFrame m ⟨sa, quanta⟩) s =
    .next (putMac m (((macOf s m).rxGood 64 0x0180_C200_0001).count 0x13 1) s)) ∧
  (∀ m s h, Running s → (macOf s m).hold = some h →
    (h.ends ≤ s.now → exec (.pauseHoldEnd m) s = .next (startNext m (putMac m { macOf s m with hold := none } s))) ∧
    (s.now < h.ends → exec (.pauseHoldEnd m) s = .next s) ∧
    (s.now < h.began + pauseWd s m → exec (.pauseWatchdog m) s = .next s) ∧
    (h.began + pauseWd s m ≤ s.now → h.began + pauseWd s m ≤ h.ends → exec (.pauseWatchdog m) s = .next (startNext m
      (netEvent m 0 (putMac m
        ({ macOf s m with hold := none, pauseOff := some (h.began + pauseWd s m + 25_000_000) }.count 0x2B 1) s))))) ∧
  (∀ m s t0, Running s → (macOf s m).pauseOff = some t0 →
    (t0 ≤ s.now → exec (.pauseBreakEnd m) s = .next (putMac m { macOf s m with pauseOff := none } s)) ∧
    (s.now < t0 → exec (.pauseBreakEnd m) s = .next s))

/-- The field exchange. EXCHANGE_WINDOW_OPEN completes from offset 32 of a half-period with exchanges, before OUTPH of class 0: OPEN
waits in its queue, and names when sent the microseconds from its start to the end of the window; the exchanges follow by node, each that can still complete in the window, with SEQ one more. EXREP completes on
every reply: one of the device in exchange that answers the request in time is the device's input, any other of it and
EXCHANGE_TIMEOUT are a missed exchange, and a reply of another device is counted. ACYC completes a device request by its number.
The CAN controllers: CAN_FRAME_SENT takes the frame offered, CAN_ATTEMPT_FAIL and CAN_RECEIVE_ERROR count errors, 256 turn the bus
off and empty the queues; CAN_FRAME_RECEIVED stores a frame of the table with ND; HEADLONG completes after HEADTO with a frame in the
FIFO and none sent; ND_READ returns ND with the buffer and clears it, LOST_CLEAR clears LOST; CAN_BUS_INTEGRATED and
CAN_RECOVERY_DONE lead to error active (R43, R51, R273 to R275, R285, R286, R290, R292, R294, R296 to R298, R319). -/
def Obligations.ExchangeAndCanRows : Prop :=
  (∀ g s, Running s → 1 ≤ g → g ≤ 4 → (winOf s g).ready = true → (winOf s g).isOpen = false → 32 ≤ offsetNow s →
    offsetNow s < (clsCfg s 0).outph →
    ∃ t e data, exec (.exchangeWindowOpen g) s = .next t ∧ (winOf t g).isOpen = true ∧ (winOf t g).ready = false ∧
      e ∈ ringOf (macOf t (g + 1)) 2 ∧ e.made = some (1, fxBytes s 1 0xFF 0 0 data) ∧ data.length = 8 ∧
      t.points = s.points ∧ t.field = s.field) ∧
  (∀ g s e bytes deferred, Running s → 1 ≤ g → g ≤ 4 → (macOf s (g + 1)).busy = some 2 → (macOf s (g + 1)).backoff = none →
    headFrame (macOf s (g + 1)) 2 = some [e] → e.made = some (1, bytes) →
    let n := max e.d.len 60 + 4
    ∃ t, exec (.frameTransmitDone (g + 1) (.sent deferred)) s = .next t ∧ t.points = s.points ∧
      ∃ sa, t.out = .frame (g + 1) 2 e.d.da sa n
        (bytes.take 18 ++ bytesLE 2 ((winEnd s - (s.now - 20 * n)) / 25) ++ bytes.drop 20) [] :: s.out) ∧
  (∀ g s, (winOf s g).ready = false ∨ offsetNow s < 32 ∨ (clsCfg s 0).outph ≤ offsetNow s →
    exec (.exchangeWindowOpen g) s = .next s) ∧
  (∀ g key rest s d, 1 ≤ g → g ≤ 4 → (winOf s g).isOpen = true → devOf s key = some d →
    (s.now + fxExch d ≤ winEnd s →
      let t := nextExchange g (key :: rest) s
      (winOf t g).cur = some key ∧ (winOf t g).todo = rest ∧ (devRt t key).seq = (devRt s key).seq + 1 ∧
        (devRt t key).full = ((devRt s key).ret == .sendFull) ∧ t.points = s.points) ∧
    (winEnd s < s.now + fxExch d →
      nextExchange g (key :: rest) s = nextExchange g rest (missExchange g key s) ∧ (devRt (missExchange g key s) key).missed = true)) ∧
  (∀ s g d x, replyLate s g d x = false ↔ x.late = false ∧ x.closed = false ∧ s.now < winEnd s ∧
    ∃ t0, (winOf s g).reqAt = some t0 ∧ s.now < t0 + 25 * d.respto + (fxLen (4 * x.data.length) + 1) * 20) ∧
  (∀ g x s key d, Running s → 1 ≤ g → g ≤ 4 → (winOf s g).cur = some key →
    (segDevs s g).find? (fun e => e.2.mac == x.srcMac) = some (key, d) → key ∉ (winOf s g).todo → (devRt s key).seq ≠ 0 →
    (replyFits d (devRt s key) x = true → replyLate s g d x = false → (devRt s key).ret ≠ .discard →
      ∃ t, exec (.exrep g x) s = .next t ∧ (devRt t key).input = some (x.data, x.inval) ∧ (devRt t key).ret = .ok ∧
        t.points = s.points) ∧
    (replyFits d (devRt s key) x = true → replyLate s g d x = false → (devRt s key).ret = .discard →
      ∃ t, exec (.exrep g x) s = .next t ∧ (devRt t key).input = none ∧ (devRt t key).ret = .sendFull ∧ t.points = s.points) ∧
    (replyFits d (devRt s key) x = false ∨ replyLate s g d x = true → ∃ t, exec (.exrep g x) s = .next t ∧
      (devRt t key).input = none ∧ (devRt t key).missed = true ∧ (devRt t key).ret = .discard ∧ t.points = s.points)) ∧
  (∀ g x s, Running s → 1 ≤ g → g ≤ 4 →
    (∀ key d, (segDevs s g).find? (fun e => e.2.mac == x.srcMac) = some (key, d) → (winOf s g).cur ≠ some key →
      exec (.exrep g x) s = .next (countMac (g + 1) (if replyFits d (devRt s key) x && (devRt s key).missed then 0x33 else 0x34) 1
        (fxReceived g (4 * x.data.length) s))) ∧
    ((segDevs s g).find? (fun e => e.2.mac == x.srcMac) = none →
      exec (.exrep g x) s = .next (countMac (g + 1) 0x34 1 (fxReceived g (4 * x.data.length) s)))) ∧
  (∀ g s key d t0, Running s → 1 ≤ g → g ≤ 4 → (winOf s g).cur = some key → (winOf s g).reqAt = some t0 → devOf s key = some d →
    key ∉ (winOf s g).todo →
    (t0 + 25 * d.respto ≤ s.now → ∃ t, exec (.exchangeTimeout g) s = .next t ∧ (devRt t key).input = none ∧
      (devRt t key).missed = true ∧ (devRt t key).ret = .discard ∧ t.points = s.points) ∧
    (s.now < t0 + 25 * d.respto → exec (.exchangeTimeout g) s = .next s)) ∧
  (∀ g s, (winOf s g).cur = none ∨ (winOf s g).reqAt = none → exec (.exchangeTimeout g) s = .next s) ∧
  (∀ g node seq data s, Running s → 1 ≤ g → g ≤ 4 →
    let u := fxReceived g data.length s
    (256 < data.length → exec (.acyc g node seq data) s = .next (countMac (g + 1) 0x34 1 u)) ∧
    (data.length ≤ 256 → ∀ r rest, devQueue s (devKey g node) = r :: rest →
      exec (.acyc g node seq data) s = .next (if r.sent = true ∧ r.seq = seq then endDev (devKey g node) 0 data u else u)) ∧
    (data.length ≤ 256 → devQueue s (devKey g node) = [] → exec (.acyc g node seq data) s = .next u)) ∧
  (∀ c s, Running s → (canOf s c).active = true →
    let x := canOf s c
    (∀ lec inc, ∃ t, exec (.canReceiveError c lec inc) s = .next t ∧ (canOf t c).rxe = min (x.rxe + inc) 255 ∧
      (canOf t c).lec = lec ∧ (128 ≤ min (x.rxe + inc) 255 → (canOf t c).st = 3) ∧ (canOf t c).txe = x.txe ∧
      (canOf t c).fifo = x.fifo ∧ t.points = s.points) ∧
    (∀ f rest, x.offers = some true → x.att ≠ some false → x.pq = f :: rest → ∃ t, exec (.canFrameSent c) s = .next t ∧ (canOf t c).pq = rest ∧
      (canOf t c).fifo = x.fifo ∧ (canOf t c).txe = x.txe - 1 ∧ t.points = s.points) ∧
    (∀ f rest, x.pq = [] → x.att ≠ some true → x.fifo = f :: rest → ∃ t, exec (.canFrameSent c) s = .next t ∧ (canOf t c).fifo = rest ∧
      (canOf t c).txe = x.txe - 1 ∧ (canOf t c).headlong = false ∧ t.points = s.points) ∧
    (x.offers = none → ∃ t, exec (.canFrameSent c) s = .next t ∧ (canOf t c).txe = x.txe - 1 ∧
      ((canOf t c).pq = x.pq.tail ∧ (canOf t c).fifo = x.fifo ∨ (canOf t c).pq = x.pq ∧ (canOf t c).fifo = x.fifo.tail)) ∧
    (x.offers = none ↔ x.pq ≠ [] ∧ ∃ f rest, x.fifo = f :: rest ∧ x.busAt < x.pqAt ∧ f.enteredAt < x.pqAt) ∧
    (x.pq = [] → x.fifo = [] → exec (.canFrameSent c) s = .next s ∧ ∀ why, exec (.canAttemptFail c why) s = .next s) ∧
    (x.pq ≠ [] ∨ x.fifo ≠ [] →
      (∀ lec rise, 256 ≤ x.txe + rise → ∃ t, exec (.canAttemptFail c (.busError lec rise)) s = .next t ∧ (canOf t c).st = 4 ∧
        (canOf t c).fifo = [] ∧ (canOf t c).pq = []) ∧
      (∀ lec rise, x.txe + rise < 256 → x.offers = some true → x.att ≠ some false → ∃ t,
        exec (.canAttemptFail c (.busError lec rise)) s = .next t ∧ (canOf t c).txe = x.txe + rise ∧ (canOf t c).lec = lec ∧ (canOf t c).fifo = x.fifo ∧
        (canOf t c).pq.length = x.pq.length) ∧
      (x.st = 3 → x.offers = some true → x.att ≠ some false → ∃ t,
        exec (.canAttemptFail c .noAck) s = .next t ∧ (canOf t c).txe = x.txe ∧ (canOf t c).st = 3) ∧
      ((∀ f ∈ x.fifo, f.doomed = false) → ∃ t, exec (.canAttemptFail c .arbitration) s = .next t ∧ (canOf t c).txe = x.txe ∧
        (canOf t c).st = x.st ∧ (canOf t c).fifo.length = x.fifo.length ∧ (canOf t c).pq.length = x.pq.length) ∧
      (∀ f rest, x.pq = [] → x.att ≠ some true → x.fifo = f :: rest → f.doomed = true → ∃ t, exec (.canAttemptFail c .arbitration) s = .next t ∧
        (canOf t c).fifo = rest)) ∧
    (∀ f b, (x.fden || !f.fdf) = true → f.remote = false →
      x.rxEntries.findIdx? (fun e => idKey e.2.idw == rxIdw f) = some b →
      ((x.rxEntries.map (fun e => e.2.len)).getD b 0) ≤ f.data.length → ∃ t, exec (.canFrameReceived c f) s = .next t ∧
        let old := Table.get CanBuf.zero x.buf b
        let new := Table.get CanBuf.zero (canOf t c).buf b
        new.nd = true ∧ new.data = f.data ∧ new.idw = BitVec.ofNat 32 (rxIdw f) ∧ new.lost = (old.lost || old.nd) ∧
        new.ndAt = some s.now ∧ t.points = s.points) ∧
    (∀ f, (x.fden || !f.fdf) = true → f.remote = true → ∃ t, exec (.canFrameReceived c f) s = .next t ∧
      (canOf t c).buf = x.buf ∧ Table.get 0 (canOf t c).cnt 2 = Table.get 0 x.cnt 2 + 1 ∧
      Table.get 0 (canOf t c).cnt 3 = Table.get 0 x.cnt 3 + 1 ∧ t.points = s.points) ∧
    (∀ f, f.fdf = true → x.fden = false → exec (.canFrameReceived c f) s = .next s) ∧
    (∀ t0, x.holdSince = some t0 → x.headlong = false → x.fifo ≠ [] →
      (t0 + 25_000 * x.headto ≤ s.now → ∃ t, exec (.headlong c) s = .next t ∧ (canOf t c).headlong = true ∧
        t.points = s.points) ∧
      (s.now < t0 + 25_000 * x.headto → exec (.headlong c) s = .next s))) ∧
  (∀ c b s, Running s →
    let x := Table.get CanBuf.zero (canOf s c).buf b
    (x.nd = false → ∃ t, exec (.ndRead c b) s = .next t ∧ t.out = .buffer c b false x.lost x.idw x.data :: s.out ∧
      t.points = s.points) ∧
    (b < (canOf s c).rxEntries.length → b < 56 → x.nd = true → x.used = true → x.ndAt ≠ some s.now →
      ∃ t, exec (.ndRead c b) s = .next t ∧ t.out = .buffer c b true x.lost x.idw x.data :: s.out ∧
        Table.get CanBuf.zero (canOf t c).buf b = { x with nd := false } ∧ t.points = s.points) ∧
    (x.nd = true → x.ndAt = some s.now → ∃ t, exec (.ndRead c b) s = .next t ∧
      (Table.get CanBuf.zero (canOf t c).buf b).nd = true) ∧
    ∀ v, exec (.lostClear c b v) s = .next (putCan c { canOf s c with
      buf := Table.upd CanBuf.zero (canOf s c).buf b (fun x => { x with lost := x.lost && (!v || x.lostAt == some s.now) }) } s)) ∧
  (∀ c s, Running s → ((canOf s c).st = 5 → ∃ t, exec (.canRecoveryDone c) s = .next t ∧ (canOf t c).st = 6 ∧
      (canOf t c).txe = 0 ∧ (canOf t c).rxe = 0) ∧
    ((canOf s c).st = 1 → ∃ t, exec (.canBusIntegrated c) s = .next t ∧ (canOf t c).st = 2 ∧ (canOf t c).txe = 0 ∧
      (canOf t c).rxe = 0 ∧ ((canOf s c).syncen = true → ∃ f, (canOf t c).pq.head? = some f ∧ f.kind = 2 ∧
        f.idw = (canOf s c).sync)) ∧
    ((canOf s c).st ≠ 5 → exec (.canRecoveryDone c) s = .next s) ∧ ((canOf s c).st ≠ 1 → exec (.canBusIntegrated c) s = .next s))

/-! ## Hosts -/

/-- Reaching the module, each row completing under the conditions named: DISCOVERY answers at most 20 times a second, DHCP_RETRY and
DHCP_LEASE an address, TCP_CONNECT greets a connection and keeps or refuses it, TLS_HANDSHAKE_DONE needs a usable device key, LOGIN
makes a session of its stage or is refused, and a session ends by LOGIN_TIMEOUT, SESSION_IDLE_TIMEOUT, SESSION_CLOSE or LOGOUT, and
by the third UNPARSABLE_MESSAGE, each answered with its request number; PING answers where the session has room, else BUSY; SERVICE_OPEN comes once, and TENANT_ADMISSION a second later (R306 to R312, R333,
R334, R386). The premise on the tables is `Obligations.EveryStepKeepsImageAndTables`. -/
def Obligations.ConnectionRows : Prop :=
  (∀ port s, Running s → coresUp s = true → (portAddr s port).isSome = true →
    ((discRoom s port).2 < 20 → ∃ t pay, exec (.discovery port 0x4450_4851) s = .next t ∧
      Issued (.discovery port (discState s) pay) s t ∧ t.points = s.points) ∧
    (20 ≤ (discRoom s port).2 → exec (.discovery port 0x4450_4851) s = .next s) ∧
    (∀ magic, magic ≠ 0x4450_4851 → exec (.discovery port magic) s = .next s)) ∧
  (∀ s, Running s → dhcpMode s = true →
    (s.eth.ipAddr = none → (∀ t0, s.eth.dhcpAt = some t0 → t0 + 250_000_000 ≤ s.now) → exec .dhcpRetry s =
      .next { s with eth := { s.eth with dhcpAt := some s.now } }) ∧
    (∀ t0, s.eth.dhcpAt = some t0 → s.now < t0 + 250_000_000 → exec .dhcpRetry s = .next s) ∧
    (∀ addr, ∃ t, exec (.dhcpLease addr) s = .next t ∧ t.eth.ipAddr = some addr ∧ t.eth.dhcpAt = none ∧
      t.points = s.points)) ∧
  (∀ s addr, dhcpMode s = false → exec .dhcpRetry s = .next s ∧ exec (.dhcpLease addr) s = .next s) ∧
  (∀ cn port s, Running s → coresUp s = true → connOf s cn = none → (portAddr s port).isSome = true →
    (s.host.svcOpen = true → handshakes s < 8 → ∃ t, exec (.tcpConnect cn port) s = .next t ∧
      connOf t cn = some (Conn.fresh port s.now) ∧ (∀ m, m ≠ cn → connOf t m = connOf s m) ∧
      Issued (.greeting cn (if s.host.tenants then 0 else 3) 0) s t) ∧
    (s.host.svcOpen = true → 8 ≤ handshakes s → ∃ t r, exec (.tcpConnect cn port) s = .next t ∧ t.host = s.host ∧
      20 ≤ r ∧ r < 200 ∧ t.integ.issued = .closed cn :: .greeting cn 2 r :: s.integ.issued) ∧
    (s.host.svcOpen = false → ∃ t r, exec (.tcpConnect cn port) s = .next t ∧ t.host = s.host ∧ 50 ≤ r ∧ r < 400 ∧
      t.integ.issued = .closed cn :: .greeting cn 1 r :: s.integ.issued)) ∧
  (∀ cn port s, (connOf s cn).isSome = true → exec (.tcpConnect cn port) s = .next s) ∧
  (∀ cn key s c, Running s → TablesOk s → connOf s cn = some c → c.tls = false →
    (deviceKeyOk s = true → ∃ t, exec (.tlsHandshakeDone cn key) s = .next t ∧
      connOf t cn = some { c with tls := true, key := key, at_ := s.now, lastMsg := s.now } ∧ t.points = s.points) ∧
    (deviceKeyOk s = false → ∃ t, exec (.tlsHandshakeDone cn key) s = .next t ∧ Closes cn s t)) ∧
  (∀ cn s c, Running s → TablesOk s → connOf s cn = some c →
    (∃ t, exec (.sessionClose cn) s = .next t ∧ Closes cn s t ∧ Issued (.closed cn) s t) ∧
    (c.tls = true → c.sess = none → c.at_ + 250_000_000 ≤ s.now → ∃ t, exec (.loginTimeout cn) s = .next t ∧ Closes cn s t) ∧
    (s.now < c.at_ + 250_000_000 ∨ c.sess.isSome = true → exec (.loginTimeout cn) s = .next s) ∧
    (c.sess.isSome = true → c.lastMsg + 750_000_000 ≤ s.now → ∃ t, exec (.sessionIdleTimeout cn) s = .next t ∧
      Closes cn s t) ∧
    (s.now < c.lastMsg + 750_000_000 ∨ c.sess = none → exec (.sessionIdleTimeout cn) s = .next s)) ∧
  (∀ cn rq c s, TablesOk s → InSession cn c s →
    (noRoom s c = false → ∃ t, exec (.logout cn rq) s = .next t ∧ Closes cn s t ∧
      t.integ.issued = .closed cn :: .resp cn rq 0x0002 stOk 0 [] :: s.integ.issued) ∧
    (noRoom s c = false → ∃ t, exec (.ping cn rq) s = .next t ∧ Issued (.resp cn rq 0x0003 stOk 0 []) s t ∧
      connOf t cn = some { c with lastMsg := s.now } ∧ t.points = s.points) ∧
    (noRoom s c = true → (∃ t r, exec (.ping cn rq) s = .next t ∧ Issued (.resp cn rq 0x0003 stBusy r []) s t ∧
        t.points = s.points) ∧
      ∃ t r, exec (.logout cn rq) s = .next t ∧ Issued (.resp cn rq 0x0002 stBusy r []) s t ∧
        connOf t cn = some { c with lastMsg := s.now }) ∧
    (∀ op, c.bad < 2 → ∃ t, exec (.unparsableMessage ⟨cn, rq, op⟩) s = .next t ∧ Issued (.resp cn rq op stBadmsg 0 []) s t ∧
      connOf t cn = some { c with bad := c.bad + 1, lastMsg := s.now }) ∧
    (∀ op, 2 ≤ c.bad → ∃ t, exec (.unparsableMessage ⟨cn, rq, op⟩) s = .next t ∧ Closes cn s t)) ∧
  (∀ cn rq stage s c, Running s → TablesOk s → connOf s cn = some c → c.tls = true →
    (c.sess.isSome = true → ∃ t, Answers (.login cn rq stage) cn rq 0x0001 stState s t) ∧
    (c.sess = none → stageOn s stage = false → ∃ t, exec (.login cn rq stage) s = .next t ∧ connOf t cn = none) ∧
    (c.sess = none → stageOn s stage = true → stage ≠ 0 → s.host.tenants = false → ∃ t r,
      exec (.login cn rq stage) s = .next t ∧ Issued (.resp cn rq 0x0001 stStarting r []) s t ∧ t.host = s.host) ∧
    (c.sess = none → stageOn s stage = true → stage = 0 ∨ s.host.tenants = true → 32 * tokUnit ≤ (filled s stage).tok →
      (principalFor s c stage = none → s.keys.locked = true → ∃ t, exec (.login cn rq stage) s = .next t ∧ Closes cn s t) ∧
      (∀ num roles i, principalFor s c stage = some (num, roles) → s.keys.locked = false →
        (List.range (numSessions s)).find? (fun i => !(sessUsed s).contains i) = some i →
        sessionsOf s stage < sesmax s stage → ∃ t, exec (.login cn rq stage) s = .next t ∧
          connOf t cn = some { c with sess := some i, stage := stage, principal := num, roles := roles, lastMsg := s.now } ∧
          Issued (.resp cn rq 0x0001 stOk 0 [BitVec.ofNat 32 i]) s t ∧ t.points = s.points))) ∧
  (∀ s, Running s → TablesOk s → coresUp s = true → s.host.svcOpen = false →
    (s.power.goodAt + 125_000_000 ≤ s.now → ∃ t, exec .serviceOpen s = .next t ∧ t.host.svcOpen = true ∧
      t.host.tenants = false ∧ t.host.openAt = s.now ∧ t.upd.bootCnt = 0 ∧ t.points = s.points ∧
      ∀ st, st < 32 → (admitOf t st).tok = tokburst s st * tokUnit) ∧
    (s.now < s.power.goodAt + 25_000_000 → exec .serviceOpen s = .next s)) ∧
  (∀ s, Running s → s.host.svcOpen = true → s.host.tenants = false →
    (s.host.openAt + 25_000_000 ≤ s.now → exec .tenantAdmission s = .next { s with host := { s.host with tenants := true } }) ∧
    (s.now < s.host.openAt + 25_000_000 → exec .tenantAdmission s = .next s))

/-- Admission: a request of a connection that has none, or no handshake, has no effect, one before LOGIN ends it, one for
which the session or the stage has no room or the bucket no tokens is answered BUSY, and a request that the stage queues is
answered once served, in the order of categories, or shed. REQUEST_DEQUEUE completes where the bucket has filled for the next queued
request, which is then answered; REQUEST_AGE_SHED on a request that has waited 10 s; SHED_WINDOW_END 1 s after the window began
(R20, R312, R315, R331, R332). The premise on the tables is `Obligations.EveryStepKeepsImageAndTables`. -/
def Obligations.RequestAdmission : Prop :=
  (∀ i cn rq op cost s, Running s → nowRequest i = some (cn, rq, op, cost) →
    (connOf s cn = none → exec i s = .next s) ∧
    (∀ c, connOf s cn = some c → c.tls = false → exec i s = .next s) ∧
    (∀ c, connOf s cn = some c → c.tls = true → c.sess = none → exec i s = exec (.sessionClose cn) s) ∧
    (∀ c, InSession cn c s → noRoom s c = true → ∃ t r, exec i s = .next t ∧ Issued (.resp cn rq op stBusy r []) s t ∧
      t.points = s.points ∧ t.progs.ops = s.progs.ops ∧ t.host.tx = s.host.tx ∧ t.saf = s.saf ∧ t.can = s.can) ∧
    (∀ c, InSession cn c s → noRoom s c = false → (filled s c.stage).tok < cost * tokUnit → ∃ t, exec i s = .next t ∧
      Issued (.resp cn rq op stBusy (waitMs s c.stage (cost * tokUnit - (filled s c.stage).tok)) []) s t ∧
      t.points = s.points ∧ t.progs.ops = s.progs.ops ∧ t.host.tx = s.host.tx ∧ t.saf = s.saf ∧ t.can = s.can)) ∧
  (∀ i cn rq op cat cost r s, Running s → queuedRequest i = some (cn, rq, op, cat, cost, r) →
    (connOf s cn = none → exec i s = .next s) ∧
    (∀ c, connOf s cn = some c → c.tls = true → c.sess = none → exec i s = exec (.sessionClose cn) s) ∧
    (∀ c, InSession cn c s → noRoom s c = true → ∃ t x, exec i s = .next t ∧ Issued (.resp cn rq op stBusy x []) s t ∧
      t.points = s.points) ∧
    (∀ c, Served cn cost c s → ∃ t status, Answers i cn rq op status s t)) ∧
  (∀ stage s e c, Running s → (admitOf s stage).queue = [e] → connOf s e.cn = some c → (∀ n, e.req ≠ .notify n) →
    (8 * e.cost + tokburst s stage) * tokUnit ≤ 8 * (filled s stage).tok → ∃ t status pay,
      exec (.requestDequeue stage) s = .next t ∧ Issued (.resp e.cn e.rq e.req.op status 0 pay) s t ∧ t.points = s.points) ∧
  (∀ stage s, Running s → TablesOk s → ((admitOf s stage).queue = [] ∨ (∃ e, (admitOf s stage).queue = [e] ∧
      8 * (filled s stage).tok < (8 * e.cost + tokburst s stage) * tokUnit) →
    exec (.requestDequeue stage) s = .next (putAdmit stage (filled s stage) s)) ∧
    ((∀ e ∈ (admitOf s stage).queue, s.now < e.at_ + 250_000_000) → exec (.requestAgeShed stage) s = .next s)) ∧
  (∀ stage s e c, Running s → (admitOf s stage).queue = [e] → connOf s e.cn = some c → (∀ n, e.req ≠ .notify n) →
    e.at_ + 250_000_000 ≤ s.now → ∃ t r, exec (.requestAgeShed stage) s = .next t ∧
      Issued (.resp e.cn e.rq e.req.op stShed r []) s t ∧ 1 ≤ r ∧ t.points = s.points) ∧
  (∀ stage s t0, Running s → TablesOk s → (admitOf s stage).win = some t0 →
    (t0 + 25_000_000 ≤ s.now → ∃ t, exec (.shedWindowEnd stage) s = .next t ∧ (admitOf t stage).win = none ∧
      (admitOf t stage).busy = 0 ∧ (admitOf t stage).shedN = 0 ∧ t.points = s.points) ∧
    (s.now < t0 + 25_000_000 → exec (.shedWindowEnd stage) s = .next s)) ∧
  (∀ (q : List QEnt) e, nextEnt q = some e → e ∈ q ∧ ∀ x ∈ q, e.cat ≤ x.cat) ∧
  (∀ (q : List QEnt) e, shedEnt q = some e → e ∈ q ∧ ∀ x ∈ q, x.cat ≤ e.cat)

/-- What requests do where the session has room, tokens and a right to them; every one of these rows completes so. READ answers with
its status and two words a point; SUBSCRIBE keeps a subscription under its number and UNSUBSCRIBE ends it; a queued NOTIFY is sent as
the bucket allows; LOOPREAD, EVREAD and STATREAD answer; WRITE, FREEZE and RELEASE wait for an input phase; EVCLEAR needs its role;
SAFRESET and SAFACK set their bit for 200 ms; MSLACK ends a HALT; CANABORT and CANRECOVER act on their controller; DEVREQ starts a
device exchange, of 500 ms where it names no time-out, and DEVREQ_TIMEOUT ends it (R43, R129, R212, R239, R279, R289, R297, R313 to R319, R369, R370). The premise on the
tables is `Obligations.EveryStepKeepsImageAndTables`. -/
def Obligations.RequestEffects : Prop :=
  (∀ cn rq pts c s, Served cn (1 + (pts.length + 63) / 64) c s → ∃ t pay, exec (.read cn rq pts) s = .next t ∧
    t.points = s.points ∧ Issued (.resp cn rq 0x0010 (readStatus s c pts false) 0 pay) s t ∧
    (readStatus s c pts false = stOk → pay.length = 2 * pts.length) ∧ (readStatus s c pts false ≠ stOk → pay = [])) ∧
  (∀ cn rq pts m c s, Served cn (1 + (pts.length + 63) / 64) c s → TablesOk s → readStatus s c pts (decide (60_000 < m)) = stOk →
    c.subs.length < 16 → subPts c + pts.length ≤ 8_192 → allSubPts s + pts.length ≤ 32_768 → ∃ t d,
      Answers (.subscribe cn rq pts m) cn rq 0x0012 stOk s t ∧ connOf t cn = some d ∧
      d.subs = c.subs ++ [Sub.fresh c.nextSub pts m] ∧ d.nextSub = c.nextSub + 1) ∧
  (∀ cn rq sub c s, Served cn 1 c s → TablesOk s → hasRole c roView = true → (∃ x ∈ c.subs, x.num = sub) → ∃ t d,
    Answers (.unsubscribe cn rq sub) cn rq 0x0013 stOk s t ∧ connOf t cn = some d ∧
    d.subs = c.subs.filter (fun x => x.num != sub)) ∧
  (∀ cn sub c x l e s, InSession cn c s → c.subs = [x] → x.num = sub → x.queued = some l →
    (admitOf s c.stage).queue = [e] → e.cn = cn → e.req = .notify sub →
    (8 * e.cost + tokburst s c.stage) * tokUnit ≤ 8 * (filled s c.stage).tok → ∃ t, exec (.notify cn sub) s = .next t ∧
      Issued (.note cn 0x0014 sub stOk x.gap (houseTime s) (notePay l)) s t ∧ t.points = s.points) ∧
  (∀ cn sub s, (∀ c, connOf s cn = some c → ∀ x ∈ c.subs, x.num = sub → x.queued = none) →
    exec (.notify cn sub) s = .next s) ∧
  (∀ cn rq loops c s, Served cn (1 + (loops.length + 15) / 16) c s → hasRole c roView = false → ∃ t,
    Answers (.loopread cn rq loops) cn rq 0x0018 stDenied s t) ∧
  (∀ cn rq n c s, Served cn (1 + (1 + 15) / 16) c s → numLoops s ≤ n → hasRole c roView = true → ∃ t,
    Answers (.loopread cn rq [n]) cn rq 0x0018 stBadarg s t) ∧
  (∀ cn rq n c s, Served cn (1 + (1 + 15) / 16) c s → n < numLoops s → ownsLoop s c.stage n = true → (loopDesc s n).kind = 2 →
    hasRole c roView = true → ∃ t, Answers (.loopread cn rq [n]) cn rq 0x0018 stBadarg s t) ∧
  (∀ cn rq n c s, Served cn (1 + (1 + 15) / 16) c s → n < numLoops s → ownsLoop s c.stage n = true → (loopDesc s n).kind ≠ 2 →
    hasRole c roView = true → ∃ t,
    exec (.loopread cn rq [n]) s = .next t ∧ Issued (.resp cn rq 0x0018 stOk 0
      [(loopRt s n).status, (loopRt s n).lastOut.1, (loopRt s n).lastSp.1, (loopRt s n).lastPv.1]) s t) ∧
  (∀ cn rq start back n m c s, Served cn (1 + (n + 15) / 16) c s → ∃ t, Answers (.evread cn rq start back n m) cn rq 0x0040
    (if hasRole c roView = false then stDenied else if n = 0 ∨ 256 < n ∨ 7 < m then stBadarg else stOk) s t ∧
    t.log.ring = s.log.ring) ∧
  (∀ cn rq c s, Served cn 4 c s → ∃ t, Answers (.statread cn rq) cn rq 0x0050
    (if hasRole c roView = true ∧ c.stage = 0 then stOk else stDenied) s t) ∧
  (∀ cn rq ws c s, Ready cn (1 + (ws.length + 63) / 64) c s → ws.length ≤ 4096 → ws ≠ [] →
    let st := writeStatus s c.stage (hasRole c roOperate) (ws.map (fun e => e.1))
    (st = stOk → ∃ t, exec (.write cn rq ws) s = .next t ∧ t.progs.ops = s.progs.ops ++ [.write cn rq c.stage ws] ∧
      t.points = s.points ∧ t.integ.issued = s.integ.issued) ∧
    (st ≠ stOk → ∃ t, Answers (.write cn rq ws) cn rq 0x0011 st s t ∧ t.progs = s.progs)) ∧
  (∀ cn rq pt v c s, Ready cn 2 c s →
    let st := freezeStatus s c.stage (hasRole c roOperate) pt
    (st = stOk → (∃ t, exec (.freeze cn rq pt v) s = .next t ∧
        t.progs.ops = s.progs.ops ++ [.freeze cn rq c.stage (c.sess.getD 255) pt v] ∧ t.points = s.points) ∧
      ∃ t, exec (.release cn rq pt) s = .next t ∧
        t.progs.ops = s.progs.ops ++ [.release cn rq c.stage (c.sess.getD 255) pt] ∧ t.points = s.points) ∧
    (st ≠ stOk → (∃ t, Answers (.freeze cn rq pt v) cn rq 0x0020 st s t ∧ t.progs = s.progs) ∧
      ∃ t, Answers (.release cn rq pt) cn rq 0x0021 st s t ∧ t.progs = s.progs)) ∧
  (∀ cn rq upto c s, Ready cn 4 c s → hasRole c (if c.stage = 0 then 5 else roEngineer) = false → ∃ t,
    Answers (.evclear cn rq upto) cn rq 0x0041 stDenied s t ∧ t.log = s.log) ∧
  (∀ cn rq upto c s, Ready cn 4 c s → hasRole c (if c.stage = 0 then 5 else roEngineer) = true →
    let l := viewRecs s c.stage
    l ≠ [] → 0 ≤ rseqPos (oldestRec l) upto → rseqPos (oldestRec l) upto ≤ rseqPos (oldestRec l) (newestRec l) → ∃ t,
      exec (.evclear cn rq upto) s = .next t ∧ Issued (.resp cn rq 0x0041 stOk 0 [s.log.next]) s t ∧ t.points = s.points) ∧
  (∀ cn rq f c s, Ready cn 2 c s → hasRole c roOperate = true → f < 8 → (fnCfg s f).reqpt ≠ 0 →
    ownerOf s (fnCfg s f).reqpt = c.stage →
    (∃ t, Answers (.safreset cn rq f) cn rq 0x0060 stOk s t ∧
      t.saf = { s.saf with hostReq := s.saf.hostReq ++ [(f, 0, s.now + 5_000_000)] }) ∧
    ∃ t, Answers (.safack cn rq f) cn rq 0x0061 stOk s t ∧
      t.saf = { s.saf with hostReq := s.saf.hostReq ++ [(f, 1, s.now + 5_000_000)] }) ∧
  (∀ cn rq slot c s, Ready cn 2 c s → TablesOk s → hasRole c roOperate = true → c.stage = 0 → slot < 32 →
    ((mslOf s slot).st = .halt → ∃ t, Answers (.mslack cn rq slot) cn rq 0x0062 stOk s t ∧ (mslOf t slot).st = .idle ∧
      ∀ m, m ≠ slot → mslOf t m = mslOf s m) ∧
    ((mslOf s slot).st ≠ .halt → ∃ t, Answers (.mslack cn rq slot) cn rq 0x0062 stState s t ∧ t.msl = s.msl)) ∧
  (∀ cn rq n c s, Ready cn 2 c s → n < 2 → canRight s c n = true →
    (∃ t, Answers (.canabort cn rq n) cn rq 0x0063 stOk s t ∧ (canOf t n).abortReq = true) ∧
    ((canOf s n).st = 4 → ∃ t, Answers (.canrecover cn rq n) cn rq 0x0064 stOk s t ∧ (canOf t n).st = 5) ∧
    ((canOf s n).st ≠ 4 → ∃ t, Answers (.canrecover cn rq n) cn rq 0x0064 stOk s t ∧ t.can = s.can)) ∧
  (∀ cn rq n c s, Ready cn 2 c s → n < 2 → canRight s c n = false →
    (∃ t, Answers (.canabort cn rq n) cn rq 0x0063 stDenied s t ∧ t.can = s.can) ∧
    ∃ t, Answers (.canrecover cn rq n) cn rq 0x0064 stDenied s t ∧ t.can = s.can) ∧
  (∀ cn rq g node toMs txid rxid data c s, Ready cn 4 c s → 1 ≤ g → g ≤ 4 → node < 256 →
    toMs = none ∨ (∃ ms, toMs = some ms ∧ 10 ≤ ms ∧ ms ≤ 5_000) →
    data.length ≤ 256 → hasRole c roOperate = true → deviceStage s g node = some c.stage → (devQueue s (devKey g node)) = [] →
    s.host.devUsed < 128 → ∃ t r, exec (.devreq cn rq g node toMs txid rxid data) s = .next t ∧
      devQueue t (devKey g node) = [r] ∧ r.cn = cn ∧ r.rq = rq ∧ r.data = data ∧ r.toMs = toMs.getD 500 ∧ r.startAt = some s.now ∧
      r.sent = outsideWindow s g ∧ t.host.devUsed = s.host.devUsed + 1 ∧ t.points = s.points ∧
      (outsideWindow s g = true →
        ∃ e ∈ ringOf (macOf t (g + 1)) 1, e.made = some (4, fxBytes s 4 node 0 r.seq data))) ∧
  (∀ cn rq g node toMs txid rxid data c s b, Ready cn 4 c s → 5 ≤ g → g ≤ 6 → node < 256 →
    toMs = none ∨ (∃ ms, toMs = some ms ∧ 10 ≤ ms ∧ ms ≤ 5_000) →
    data.length ≤ 8 → natBit txid 30 = false → hasRole c roOperate = true → deviceStage s g node = some c.stage →
    (devQueue s (devKey g node)) = [] → s.host.devUsed < 128 → (canOf s (g - 5)).active = true → freeBuffer s (g - 5) = some b →
    (canOf s (g - 5)).fifo.length < 32 → ∃ t r f, exec (.devreq cn rq g node toMs txid rxid data) s = .next t ∧
      devQueue t (devKey g node) = [r] ∧ r.cn = cn ∧ r.rq = rq ∧ r.toMs = toMs.getD 500 ∧ r.startAt = some s.now ∧ r.sent = true ∧ r.buf = b ∧
      (canOf t (g - 5)).fifo = (canOf s (g - 5)).fifo ++ [f] ∧ f.data = data ∧ f.idw = BitVec.ofNat 32 txid ∧
      t.points = s.points) ∧
  (∀ g node r rest t0 s, Running s → devQueue s (devKey g node) = r :: rest → r.startAt = some t0 →
    (t0 + 25_000 * r.toMs ≤ s.now → exec (.devreqTimeout g node) s = .next (endDev (devKey g node) stDevtimeout [] s)) ∧
    (s.now < t0 + 25_000 * r.toMs → exec (.devreqTimeout g node) s = .next s)) ∧
  (∀ key status r rest c s, devQueue s key = r :: rest → connOf s r.cn = some c → ∃ pay,
    Issued (.resp r.cn r.rq 0x0070 status 0 pay) s (endDev key status [] s))

/-- Transactions and the library: TXBEGIN completes where the stage has none and opens it; TXSTAGE where the stage may hold
the entry and its checks pass, and for a part of an image, which it keeps; TXCOMMIT with what it needs, leaving what is in
force until its boundary; TXROLLBACK and TX_TIMEOUT drop the transaction; TXSIGN counts only an Ed25519 signature of the custodian's over the current digest, and one
that does not verify latches SIGFAIL; a point that does not exist comes before the role; TXSTATUS
reports; LIBSTORE and LIBDEL store and delete images of the stage's own library, where a committed image is the active one
and one that is active or in force stays (R36, R112, R314, R320 to R329). What a refused store of a second image under such a
number answers is the model's choice (log 43). The premise on the tables is `Obligations.EveryStepKeepsImageAndTables`. -/
def Obligations.TransactionRows : Prop :=
  (∀ cn rq c s, Ready cn 4 c s → hasRole c roEngineer = true → TablesOk s →
    (txOf s c.stage = none → ∃ t, exec (.txbegin cn rq) s = .next t ∧
      Issued (.resp cn rq 0x0030 stOk 0 [s.host.nextTx]) s t ∧ t.points = s.points ∧ t.host.nextTx = s.host.nextTx + 1 ∧
      txOf t c.stage = some ⟨s.host.nextTx, [], none, [], s.now, true⟩ ∧ ∀ m, m ≠ c.stage → txOf t m = txOf s m) ∧
    ((txOf s c.stage).isSome = true → ∃ t, Answers (.txbegin cn rq) cn rq 0x0030 stTxexists s t ∧ t.host.tx = s.host.tx) ∧
    (∀ x, txOf s c.stage = some x → ∃ t, Answers (.txrollback cn rq) cn rq 0x0033 stOk s t ∧ txOf t c.stage = none ∧
      c.stage ∈ t.host.ended ∧ t.progs = s.progs ∧ t.host.commits = s.host.commits) ∧
    (txOf s c.stage = none → c.stage ∈ s.host.ended →
      (∃ t, Answers (.txrollback cn rq) cn rq 0x0033 stTxended s t ∧ c.stage ∉ t.host.ended) ∧
      ∃ t, Answers (.txcommit cn rq) cn rq 0x0032 stTxended s t ∧ c.stage ∉ t.host.ended) ∧
    (txOf s c.stage = none → c.stage ∉ s.host.ended → (∃ t, Answers (.txrollback cn rq) cn rq 0x0033 stNotx s t) ∧
      ∃ t, Answers (.txcommit cn rq) cn rq 0x0032 stNotx s t)) ∧
  (∀ cn rq c s, Ready cn 4 c s → hasRole c roEngineer = false →
    (∃ t, Answers (.txbegin cn rq) cn rq 0x0030 stDenied s t ∧ t.host.tx = s.host.tx) ∧
    (∃ t, Answers (.txcommit cn rq) cn rq 0x0032 stDenied s t ∧ t.host.tx = s.host.tx) ∧
    (∃ t, Answers (.txrollback cn rq) cn rq 0x0033 stDenied s t ∧ t.host.tx = s.host.tx) ∧
    ∀ id, ∃ t, Answers (.libdel cn rq id) cn rq 0x0039 stDenied s t ∧ t.progs = s.progs) ∧
  (∀ cn rq c s e x, Ready cn (4 + ((entryBytes e).length + 4_095) / 4_096) c s → TablesOk s → hasRole c roEngineer = true →
    txOf s c.stage = some x → (∀ b, e ≠ .prog b) → (∀ pt ∈ entryPts e, pointExists s pt = true) →
    (houseKind e = true → c.stage ≠ 0 → ∃ t y, Answers (.txstage cn rq e false) cn rq 0x0031 stDenied s t ∧
      txOf t c.stage = some y ∧ y.entries = x.entries) ∧
    (stageStatus s c.stage e ≠ stOk → ∃ t y, Answers (.txstage cn rq e false) cn rq 0x0031 (stageStatus s c.stage e) s t ∧
      txOf t c.stage = some y ∧ y.entries = x.entries ∧ y.num = x.num) ∧
    (∃ t, Answers (.txstage cn rq e true) cn rq 0x0031
      (if stageStatus s c.stage e = stOk then stBadarg else stageStatus s c.stage e) s t ∧ txOf t c.stage = some x) ∧
    (∀ k bs, e = .reserved k bs → houseKind e = false → ∃ t, Answers (.txstage cn rq e false) cn rq 0x0031 stBadarg s t)) ∧
  (∀ cn rq more c s e pt, Ready cn (4 + ((entryBytes e).length + 4_095) / 4_096) c s →
    (∃ v, e = .freeze pt v) ∨ e = .release pt ∨ (∃ ws v, e = .pwrite ws ∧ (pt, v) ∈ ws) → pointExists s pt = false →
    ∃ t, Answers (.txstage cn rq e more) cn rq 0x0031 stNopoint s t ∧ t.host.tx = s.host.tx) ∧
  (∀ cn rq c s pt v x, Ready cn (4 + ((entryBytes (.freeze pt v)).length + 4_095) / 4_096) c s → TablesOk s →
    hasRole c roEngineer = true → txOf s c.stage = some x → x.partial_ = none → stageRush s c.stage = 0 → x.entries = [] →
    c.stage ≠ 0 → pointExists s pt = true → freezeStatus s c.stage true pt = stOk → rushFits s c.stage 8 = true → ∃ t y,
      Answers (.txstage cn rq (.freeze pt v) false) cn rq 0x0031 stOk s t ∧ txOf t c.stage = some y ∧
      y.entries = [.freeze pt v] ∧ y.sigs = [] ∧ t.progs = s.progs ∧ t.host.commits = s.host.commits) ∧
  (∀ cn rq c s part x, Ready cn (4 + (part.length + 4_095) / 4_096) c s → hasRole c roEngineer = true →
    txOf s c.stage = some x →
    (rushFits s c.stage (stageRush s c.stage + part.length) = true → ∃ t y,
      Answers (.txstage cn rq (.prog part) true) cn rq 0x0031 stOk s t ∧ txOf t c.stage = some y ∧
      y.partial_ = some (x.partial_.getD [] ++ part) ∧ y.entries = x.entries ∧ y.sigs = [] ∧ t.progs = s.progs) ∧
    (rushFits s c.stage (stageRush s c.stage + part.length) = false → ∃ t,
      Answers (.txstage cn rq (.prog part) true) cn rq 0x0031 stRushfull s t ∧ t.host.tx = s.host.tx)) ∧
  (∀ (e : Entry) l, (∀ x ∈ l, sameTarget e x = false) → putEntry e l = l ++ [e]) ∧
  (∀ cn rq c s x, Ready cn 4 c s → TablesOk s → hasRole c roEngineer = true → txOf s c.stage = some x →
    s.upd.upd = none → s.host.commits = [] →
    (∀ pt v, x.entries = [.freeze pt v] → ownerOf s pt = c.stage → ∃ t h, exec (.txcommit cn rq) s = .next t ∧
      Issued (.resp cn rq 0x0032 stOk 0 [h]) s t ∧ t.points = s.points ∧ txOf t c.stage = none ∧
      (∃ m, t.host.commits = [m] ∧ m.stage = c.stage ∧ m.num = x.num ∧ m.entries = x.entries) ∧
      t.slate = s.slate ∧ t.progs = s.progs) ∧
    (∀ pt v, x.entries = [.freeze pt v] → isRelRW pt = false → ownerOf s pt ≠ c.stage → ∃ t,
      Answers (.txcommit cn rq) cn rq 0x0032 stRejected s t ∧ t.host.tx = s.host.tx ∧ t.host.commits = s.host.commits ∧
      t.progs = s.progs) ∧
    (∀ blk w, c.stage = 0 → .tag blk w ∈ x.entries → s.host.commissioning = false → signedOk s x = false → ∃ t,
      Answers (.txcommit cn rq) cn rq 0x0032 stUnsigned s t ∧ t.host.tx = s.host.tx ∧
      t.host.commits = s.host.commits ∧ t.progs = s.progs)) ∧
  (∀ cn rq c s x, Ready cn 4 c s → hasRole c roEngineer = true → txOf s c.stage = some x → s.upd.upd.isSome = true →
    (∃ e ∈ x.entries, updateBars e = true) → ∃ t, Answers (.txcommit cn rq) cn rq 0x0032 stState s t ∧
      t.host.tx = s.host.tx ∧ t.host.commits = s.host.commits) ∧
  (∀ s x, signedOk s x = true → ∃ a ∈ x.sigs, ∃ b ∈ x.sigs, a.principal ≠ b.principal ∧ a.key ≠ b.key ∧
    creditable a.roles b.roles = true ∧ s.now < a.at_ + 22_500_000_000 ∧ s.now < b.at_ + 22_500_000_000) ∧
  (∀ st bs s, (∃ l ∈ (storeImage st bs true s).progs.lib, l.stage = st ∧ l.bytes = bs) ∧
    ∀ l ∈ (storeImage st bs true s).progs.lib, l.stage = st → (l.active = true ↔ l.bytes = bs)) ∧
  (∀ cn rq c s digest sig, Ready cn 4 c s →
    (c.stage ≠ 0 ∨ custodian c.roles = false → ∃ t, Answers (.txsign cn rq digest sig) cn rq 0x0034 stDenied s t ∧
      t.host.tx = s.host.tx) ∧
    (∀ x, c.stage = 0 → custodian c.roles = true → txOf s 0 = some x →
      (digest = txDigest 0 x → ed25519Ok c.key (signedBytes digest) sig = true →
        ∃ t y, Answers (.txsign cn rq digest sig) cn rq 0x0034 stOk s t ∧ txOf t 0 = some y ∧
          y.entries = x.entries ∧ y.sigs = x.sigs.filter (fun g => g.principal != c.principal) ++
            [⟨c.principal, c.key, c.roles, s.now, sig⟩]) ∧
      (digest = txDigest 0 x → ed25519Ok c.key (signedBytes digest) sig = false → alarmAction s 5 = 0 →
        ∃ t, Answers (.txsign cn rq digest sig) cn rq 0x0034 stBadsign s t ∧ t.host.tx = s.host.tx ∧
          t.keys.latched.getLsbD 5 = true) ∧
      (digest ≠ txDigest 0 x → ∃ t, Answers (.txsign cn rq digest sig) cn rq 0x0034 stBadsign s t ∧
        t.host.tx = s.host.tx ∧ t.keys.latched = s.keys.latched))) ∧
  (∀ cn rq c s x, Ready cn 1 c s → hasRole c roView = true → txOf s c.stage = some x → ∃ t pay,
    exec (.txstatus cn rq) s = .next t ∧ Issued (.resp cn rq 0x0035 stOk 0 pay) s t ∧ pay.take 2 =
      [x.num, BitVec.ofNat 32 x.entries.length] ∧ (pay.drop 2).take 12 = packWords (bytesLE 48 (txDigest c.stage x).toNat) ∧
      pay.length = 15 + (x.entries.map (fun e => 2 + ((entryBytes e).length + 3) / 4)).sum + 17 * x.sigs.length ∧
      t.host.tx = s.host.tx) ∧
  (∀ cn rq image c s, Ready cn (4 + (image.length + 4_095) / 4_096) c s → hasRole c roEngineer = true →
    s.integ.nandOut = false →
    (group1 s c.stage image ≠ [] → ∃ t, Answers (.libstore cn rq image) cn rq 0x0038 stRejected s t ∧ t.progs = s.progs) ∧
    (group1 s c.stage image = [] → s.progs.lib = [] → image.length ≤ 268_435_456 → storageKeyOk s c.stage = true → ∃ t,
      Answers (.libstore cn rq image) cn rq 0x0038 stOk s t ∧
      t.progs = { s.progs with nextLoc := s.progs.nextLoc + 1, lib :=
        [⟨c.stage, (readProg image).imageId, image, false, false, keyWrapped s c.stage, s.progs.nextLoc, 1⟩] }) ∧
    (group1 s c.stage image = [] → libWith s c.stage image ≤ 268_435_456 →
      (∃ l ∈ s.progs.lib, l.stage = c.stage ∧ l.imageId = (readProg image).imageId ∧ l.active = true ∧ l.bytes ≠ image) → ∃ t,
      Answers (.libstore cn rq image) cn rq 0x0038 stState s t ∧ t.progs = s.progs)) ∧
  (∀ cn rq id c s, Ready cn 4 c s → hasRole c roEngineer = true →
    ((∀ l ∈ s.progs.lib, l.stage = c.stage → l.imageId ≠ id) → ∃ t, Answers (.libdel cn rq id) cn rq 0x0039 stBadarg s t ∧
      t.progs = s.progs) ∧
    ((∃ l ∈ s.progs.lib, l.stage = c.stage ∧ l.imageId = id ∧ (l.active = true ∨ l.inForce = true)) → ∃ t,
      Answers (.libdel cn rq id) cn rq 0x0039 stState s t ∧ t.progs = s.progs) ∧
    ((∃ l ∈ s.progs.lib, l.stage = c.stage ∧ l.imageId = id) → s.host.commits = [] →
      (∀ l ∈ s.progs.lib, l.stage = c.stage → l.imageId = id → l.active = false ∧ l.inForce = false) → ∃ t,
      Answers (.libdel cn rq id) cn rq 0x0039 stOk s t ∧
      (∀ l, l ∈ t.progs.lib ↔ l ∈ s.progs.lib ∧ ¬ (l.stage = c.stage ∧ l.imageId = id)))) ∧
  (∀ stage x s, Running s → TablesOk s → txOf s stage = some x →
    (x.at_ + 25_000_000 * (60 * txto s stage) ≤ s.now → ∃ t, exec (.txTimeout stage) s = .next t ∧ txOf t stage = none ∧
      stage ∈ t.host.ended ∧ t.points = s.points ∧ t.progs = s.progs ∧ t.host.commits = s.host.commits) ∧
    (s.now < x.at_ + 25_000_000 * (60 * txto s stage) → exec (.txTimeout stage) s = .next s))

/-! ## Time and the log -/

/-- The calendar converter applies the Gregorian rules (R344): the leap years, consecutive days through months and years from
2000-01-01 on, the day of a date and the date of a day as each other's inverse over the range of R345, and the weekdays, 1 for
Monday to 7 for Sunday, of which 2000-01-01 has 6. -/
def Obligations.CalendarConverter : Prop :=
  (∀ y, isLeap y = true ↔ 4 ∣ y ∧ (100 ∣ y → 400 ∣ y)) ∧ (isLeap 2000 = true ∧ ∀ y ∈ [2100, 2200, 2300], isLeap y = false) ∧
  (∀ y m, 1 ≤ m → m ≤ 12 → monthLen y m = (if m = 2 then (if isLeap y then 29 else 28)
    else if m = 4 ∨ m = 6 ∨ m = 9 ∨ m = 11 then 30 else 31)) ∧
  (dayNo 2000 1 1 = 0 ∧ weekday 0 = 6 ∧ ∀ n, weekday (n + 1) = weekday n % 7 + 1) ∧
  (∀ y m d, 2000 ≤ y → 1 ≤ m → m ≤ 12 → 1 ≤ d → d ≤ monthLen y m →
    (d < monthLen y m → dayNo y m (d + 1) = dayNo y m d + 1) ∧
    (d = monthLen y m → m < 12 → dayNo y (m + 1) 1 = dayNo y m d + 1) ∧
    (d = monthLen y m → m = 12 → dayNo (y + 1) 1 1 = dayNo y m d + 1)) ∧
  (∀ y m d, dateOk y m d = true → dayNo y m d < 146_097 ∧ dateOf (dayNo y m d) = (y, m, d)) ∧
  (∀ n, n < 146_097 → dateOk (dateOf n).1 (dateOf n).2.1 (dateOf n).2.2 = true ∧
    dayNo (dateOf n).1 (dateOf n).2.1 (dateOf n).2.2 = n)

/-- House time and the log. TIMEGET, SETSEC, SETCAL, SETOFS, DSTSTEP, LEAP, ALMSET and TIMECFG complete for a session of
stage 0 with TIME and an operand in range, and SETSEC, SETCAL and LEAP stand back while PTP disciplines; a set applies at once, an
offset, an hour step and an alarm setting at the next increment. RTC_INCREMENT completes in every running state and counts one
second or what an announced leap second makes of it; OSCILLATOR_STOP, OSCILLATOR_RESTART, VBAT_BROWNOUT and VBAT_RESTORE set what
TIMESTAT tells; HOLDOVER_EXPIRY judges the trust; PTP_SYNC of the selected master, on PTPCFG's transport, slews by at most 200 ppm, locks after 16 good offsets and
steps beyond 0.5 s, and PTP_SYNC_TIMEOUT unlocks after 10 s. A record takes the next number in the ring, LOG_WINDOW_END closes a window that has
ended, and ARCHIVE_COPY copies in order (R271, R337 to R342, R346 to R352, R358, R364, R367). That standings of clocks compare as
numbers is the model's choice (log 58), the order of ALMSET's refusals read from R313. -/
def Obligations.TimeAndLogRows : Prop :=
  (∀ cn rq c s i op, Ready cn 4 c s → hasRole c roTime = false ∨ c.stage ≠ 0 →
    (i, op) = (Instr.timeget cn rq, 0x0080) ∨ (∃ v, (i, op) = (.setsec cn rq v, 0x0081)) ∨
      (∃ y mo d hh mi ss b, (i, op) = (.setcal cn rq y mo d hh mi ss b, 0x0082)) ∨ (∃ v, (i, op) = (.setofs cn rq v, 0x0083)) ∨
      (∃ a b, (i, op) = (.dststep cn rq a b, 0x0084)) ∨ (∃ y mo d sign, (i, op) = (.leap cn rq y mo d sign, 0x0085)) ∨
      (∃ a x y z, (i, op) = (.almset cn rq a x y z, 0x0086) ∧ pointExists s (bitsOf z 31 16) = true) ∨ (∃ w, (i, op) = (.timecfg cn rq w, 0x0087)) →
    ∃ t, Answers i cn rq op stDenied s t ∧ t.rtc = s.rtc) ∧
  (∀ cn rq c s a w0 w1 w2, Ready cn 4 c s → pointExists s (bitsOf w2 31 16) = false →
    ∃ t, Answers (.almset cn rq a w0 w1 w2) cn rq 0x0086 stNopoint s t ∧ t.rtc = s.rtc) ∧
  (∀ cn rq c s, Ready cn 4 c s → hasRole c roTime = true → c.stage = 0 →
    (∃ t, Answers (.timeget cn rq) cn rq 0x0080 stOk s t ∧ t.rtc = s.rtc) ∧
    (∀ count, ptpOwns s = false → ∃ t, Answers (.setsec cn rq count) cn rq 0x0081 stOk s t ∧ t.rtc.count = count ∧
      t.rtc.osf = false ∧ t.rtc.incAt = s.now ∧ t.rtc.repeated = false) ∧
    (∀ count, ptpOwns s = true → ∃ t, Answers (.setsec cn rq count) cn rq 0x0081 stState s t ∧ t.rtc = s.rtc) ∧
    (∀ y mo d hh mi ss, ptpOwns s = false → dateOk y mo d = true → hh < 24 → mi < 60 → ss < 60 → ∃ t,
      Answers (.setcal cn rq y mo d hh mi ss 0) cn rq 0x0082 stOk s t ∧
      t.rtc.count = BitVec.ofNat 40 (dayNo y mo d * 86_400 + hh * 3_600 + mi * 60 + ss)) ∧
    (∀ y mo d hh mi ss b, ptpOwns s = false → dateOk y mo d = false ∨ 24 ≤ hh ∨ 60 ≤ mi ∨ 60 ≤ ss ∨ 1 < b → ∃ t,
      Answers (.setcal cn rq y mo d hh mi ss b) cn rq 0x0082 stBadarg s t ∧ t.rtc = s.rtc) ∧
    (∀ (y mo d hh mi ss : Nat), ptpOwns s = false → dateOk y mo d = true → hh < 24 → mi < 60 → ss < 60 →
      let c : Int := dayNo y mo d * 86_400 + hh * 3_600 + mi * 60 + ss - s.rtc.localOfs * 900
      inCal c = true → ∃ t, Answers (.setcal cn rq y mo d hh mi ss 1) cn rq 0x0082 stOk s t ∧
      t.rtc.count = BitVec.ofNat 40 c.toNat) ∧
    (∀ y mo d hh mi ss b sign, ptpOwns s = true →
      (∃ t, Answers (.setcal cn rq y mo d hh mi ss b) cn rq 0x0082 stState s t ∧ t.rtc = s.rtc) ∧
      ∃ t, Answers (.leap cn rq y mo d sign) cn rq 0x0085 stState s t ∧ t.rtc = s.rtc) ∧
    (∀ v, -64 ≤ v → v ≤ 64 → ∃ t, Answers (.setofs cn rq v) cn rq 0x0083 stOk s t ∧
      t.rtc = { s.rtc with pendOfs := some v }) ∧
    (∀ v, v < -64 ∨ 64 < v → ∃ t, Answers (.setofs cn rq v) cn rq 0x0083 stBadarg s t ∧ t.rtc = s.rtc) ∧
    (∀ dir at_, isS s = false → dir ≤ 1 → at_ = 0 ∨ s.rtc.count.toNat < at_ → ∃ t,
      Answers (.dststep cn rq dir at_) cn rq 0x0084 stOk s t ∧ t.rtc = { s.rtc with dst := some (dir == 1, at_) }) ∧
    (∀ dir at_, isS s = true → ∃ t, Answers (.dststep cn rq dir at_) cn rq 0x0084 stUnsupported s t ∧ t.rtc = s.rtc) ∧
    (∀ dir at_, isS s = false → 1 < dir ∨ (at_ ≠ 0 ∧ at_ ≤ s.rtc.count.toNat) → ∃ t,
      Answers (.dststep cn rq dir at_) cn rq 0x0084 stBadarg s t ∧ t.rtc = s.rtc) ∧
    (∀ y mo d, ptpOwns s = false → ∃ t, Answers (.leap cn rq y mo d 2) cn rq 0x0085 stOk s t ∧
      t.rtc = { s.rtc with leap := none }) ∧
    (∀ y mo d sign, ptpOwns s = false → sign < 2 → dateOk y mo d = true → d = monthLen y mo →
      s.rtc.count.toNat ≤ lastCount (dayNo y mo d) (sign == 0) → ∃ t, Answers (.leap cn rq y mo d sign) cn rq 0x0085 stOk s t ∧
      t.rtc = { s.rtc with leap := some (dayNo y mo d, sign == 0) }) ∧
    (∀ a w0 w1 w2, pointExists s (bitsOf w2 31 16) = true → almBad s a w0 w1 w2 = false → ∃ t, Answers (.almset cn rq a w0 w1 w2) cn rq 0x0086 stOk s t ∧
      (alarmOf t a).pend = some (w0, w1, w2) ∧ (alarmOf t a).w2 = (alarmOf s a).w2) ∧
    (∀ a w0 w1 w2, pointExists s (bitsOf w2 31 16) = true → almBad s a w0 w1 w2 = true → ∃ t, Answers (.almset cn rq a w0 w1 w2) cn rq 0x0086 stBadarg s t ∧
      t.rtc = s.rtc) ∧
    (∀ w, zeroIn w 0xFF00_00F8 = true → fieldIn w 23 16 1 255 = true → w.getLsbD 0 = false → ∃ t,
      Answers (.timecfg cn rq w) cn rq 0x0087 stOk s t ∧ t.rtc.timecfg = w ∧ t.rtc.ptpLocked = false ∧ t.rtc.ptpStep = none ∧
      t.rtc.count = s.rtc.count) ∧
    (∀ w, zeroIn w 0xFF00_00F8 = true → fieldIn w 23 16 1 255 = true → w.getLsbD 0 = true → ptpEn s = true → ∃ t,
      Answers (.timecfg cn rq w) cn rq 0x0087 stOk s t ∧ t.rtc.timecfg = w ∧ t.rtc.ptpLocked = s.rtc.ptpLocked ∧
      t.rtc.count = s.rtc.count) ∧
    (∀ w, zeroIn w 0xFF00_00F8 = false ∨ fieldIn w 23 16 1 255 = false ∨ (w.getLsbD 0 = true ∧ ptpEn s = false) → ∃ t,
      Answers (.timecfg cn rq w) cn rq 0x0087 stBadarg s t ∧ t.rtc = s.rtc)) ∧
  (∀ s, Running s → s.rtc.ptpStep = none → ∃ t, exec .rtcIncrement s = .next t ∧ t.points = s.points ∧
    (s.rtc.leap = none → t.rtc.count = s.rtc.count + 1 ∧ t.rtc.repeated = false) ∧
    (∀ n, s.rtc.leap = some (n, true) → s.rtc.count.toNat = n * 86_400 + 86_399 → t.rtc.count = s.rtc.count ∧
      t.rtc.repeated = true ∧ t.rtc.leap = none) ∧
    (∀ n, s.rtc.leap = some (n, false) → s.rtc.count.toNat = n * 86_400 + 86_398 → t.rtc.count = s.rtc.count + 2 ∧
      t.rtc.leap = none) ∧
    (s.rtc.dst = none → t.rtc.localOfs = s.rtc.pendOfs.getD s.rtc.localOfs ∧ t.rtc.pendOfs = none) ∧
    (∀ back, s.rtc.dst = some (back, 0) → s.rtc.pendOfs = none → -60 ≤ s.rtc.localOfs → s.rtc.localOfs ≤ 60 →
      t.rtc.localOfs = s.rtc.localOfs + (if back then -4 else 4) ∧ t.rtc.dst = none)) ∧
  (∀ s, s.power.mode = .down → s.rtc.vbatLow = false →
    (s.rtc.oscStopped = false → exec .rtcIncrement s = .next { s with rtc := { s.rtc with
      count := s.rtc.count + 1, incAt := s.now, fracHeld := none, repeated := false } }) ∧
    (s.rtc.oscStopped = true → exec .rtcIncrement s = .next s)) ∧
  (∀ s, (∃ t, exec .oscillatorStop s = .next t ∧ t = { s with rtc := t.rtc } ∧ t.rtc.osf = true ∧ t.rtc.oscStopped = true ∧
      t.rtc.count = s.rtc.count) ∧
    (∃ t, exec .oscillatorRestart s = .next t ∧ t = { s with rtc := t.rtc } ∧ t.rtc.oscStopped = false ∧ t.rtc.osf = s.rtc.osf ∧
      t.rtc.count = s.rtc.count ∧ t.rtc.fracHeld = none) ∧
    (s.power.mode = .down → ∃ t, exec .vbatBrownout s = .next t ∧ t = { s with rtc := t.rtc } ∧ t.rtc.osf = true ∧
      t.rtc.vbatLow = true) ∧
    (s.power.mode ≠ .down → exec .vbatBrownout s = .next s) ∧
    (s.rtc.vbatLow = true → ∃ t, exec .vbatRestore s = .next t ∧ t = { s with rtc := t.rtc } ∧ t.rtc.count = 0 ∧
      t.rtc.vbatLow = false ∧ t.rtc.osf = s.rtc.osf) ∧
    (s.rtc.vbatLow = false → exec .vbatRestore s = .next s)) ∧
  (∀ s, Running s → exec .holdoverExpiry s = .next { s with rtc := { s.rtc with holdUntr := reqPtp s && holdoverOver s } }) ∧
  (∀ s udp domain rank e leap61 leap59, Running s → ptpEn s = true → udp = !s.eth.ptpcfg.getLsbD 1 →
    (udp = true → s.eth.ipAddr.isSome = true) → domain = s.eth.ptpcfg.toNat / 256 % 128 →
    (∀ r, s.rtc.master = some r → rank ≤ r) →
    (ptpDisc s = true → ∃ t, exec (.ptpSync ⟨udp, domain, rank, e⟩ leap61 leap59 none) s = .next t ∧
      t = { s with rtc := t.rtc, freeCtr := t.freeCtr } ∧
      (1_000 ≤ e.natAbs → t.rtc.ptpStep = none → t.rtc.rate.natAbs ≤ 200_000 ∧ (0 < e → t.rtc.rate < 0) ∧
        (e < 0 → 0 < t.rtc.rate)) ∧
      (e.natAbs < 1_000 → t.rtc.rate = s.rtc.rate) ∧
      t.rtc.count = s.rtc.count ∧ t.rtc.master = some rank ∧
      (s.rtc.ptpGood = 15 → e.natAbs < 10_000 → t.rtc.ptpLocked = true) ∧
      (s.rtc.ptpGood < 15 → s.rtc.ptpLocked = false → t.rtc.ptpLocked = false) ∧
      (100_000 < e.natAbs → t.rtc.ptpLocked = false) ∧
      t.rtc.ptpStep = (if 500_000_000 ≤ e.natAbs ∧ stepEn s = true then some e else none) ∧
      t.rtc.lastSync = some s.now) ∧
    (ptpDisc s = false → ∀ v, exec (.ptpSync ⟨udp, domain, rank, e⟩ leap61 leap59 (some v)) s = .next { s with rtc := { s.rtc with
      master := some rank, lastSync := some s.now, timecfg := setBits s.rtc.timecfg 15 8 (v % 256) } })) ∧
  (∀ s udp domain rank e leap61 leap59 tai, ptpEn s = false ∨ udp = s.eth.ptpcfg.getLsbD 1 ∨
      (udp = true ∧ s.eth.ipAddr = none) ∨ domain ≠ s.eth.ptpcfg.toNat / 256 % 128 ∨
      (∃ r, s.rtc.master = some r ∧ r < rank) → exec (.ptpSync ⟨udp, domain, rank, e⟩ leap61 leap59 tai) s = .next s) ∧
  (∀ s t0, Running s → s.rtc.lastSync = some t0 →
    (t0 + 250_000_000 ≤ s.now → ∃ t, exec .ptpSyncTimeout s = .next t ∧ t = { s with rtc := t.rtc } ∧
      t.rtc.ptpLocked = false ∧ t.rtc.ptpGood = 0 ∧ t.rtc.master = none ∧ t.rtc.count = s.rtc.count) ∧
    (s.now < t0 + 250_000_000 → exec .ptpSyncTimeout s = .next s)) ∧
  (∀ r s, s.log.ring.length < ringCap → (pushRec r s).log.ring = s.log.ring ++ [({ r with rseq := s.log.next }, false)] ∧
    (pushRec r s).log.next = s.log.next + 1) ∧
  (∀ owner code band s w, Running s →
    s.log.wins.find? (fun w => w.owner == owner && w.code == code && w.band == band && decide (w.ends ≤ s.now)) = some w →
    ∃ t, exec (.logWindowEnd owner code band) s = .next t ∧ t.log.wins = s.log.wins.filter (fun x => x != w) ∧
      t.points = s.points ∧ (w.supp = 0 → t.log.ring = s.log.ring)) ∧
  (∀ owner code band s, (∀ w ∈ s.log.wins, w.owner = owner → w.code = code → w.band = band → s.now < w.ends) →
    exec (.logWindowEnd owner code band) s = .next s) ∧
  (∀ s, Running s → exec (.archiveCopy false) s = .next { s with log := { s.log with archFailed := true } } ∧
    (s.integ.nandOut = false → (∀ e ∈ s.log.ring, e.2 = true) → exec (.archiveCopy true) s = .next s) ∧
    (∀ a b r, s.integ.nandOut = false → s.log.ring = a ++ (r, false) :: b → (∀ e ∈ a, e.2 = true) →
      s.log.archive.length < archCap → exec (.archiveCopy true) s = .next { s with log := { s.log with
        ring := a ++ (r, true) :: b, archive := s.log.archive ++ [r], archFailed := false } }))

/-! ## Keys and the security alarm -/

/-- Keys and the alarm. CRYPTO_JOB_DONE clears the unit's register and serves the queues in turn; what a full queue does not take
waits, and only a keyed job under a KEK loads the register. KEY_REPLACE_DONE completes while a key is being replaced: under
atomic replacement a key that passes its known-answer check is swapped in one step and the copies are under it, and one that
fails is discarded; under clear write the copies follow one by one and a failed key is marked; a new device key has a self-signed
certificate and ends every session. KEY_ROTATION_DUE replaces a storage key ROTDAYS after its creation. VGLITCH,
CGLITCH, TGLITCH and TAMPER fire their sources: one is latched and recorded and acts once, and logs, locks, or erases the keys
and the log; TAMPER_LOOP_TEST latches the loop on VBAT (R375, R377 to R386, R388). The premise on the tables is `Obligations.EveryStepKeepsImageAndTables`. -/
def Obligations.KeyAndAlarmRows : Prop :=
  (∀ s, Running s →
    (s.keys.job = none → exec .cryptoJobDone s = .next s) ∧
    (∀ j, s.keys.job = some j → ∃ t, exec .cryptoJobDone s = .next t ∧
      t = { s with keys := t.keys, progs := { s.progs with lib := t.progs.lib } } ∧
      (∀ x, t.keys.working = some x → ∃ k, t.keys.job = some k ∧ k.kind.keyed = true ∧ k.key = x ∧ s.keys.kek.isSome = true) ∧
      (s.keys.qs = [] → s.keys.qb = [] → t.keys.job = none ∧ t.keys.working = none) ∧
      (∀ a as, s.keys.qs = a :: as → (s.keys.qb = [] ∨ s.keys.lastB = true) → t.keys.job = some a ∧ t.keys.lastB = false ∧
        t.keys.qs ++ t.keys.waitS = as ++ s.keys.waitS ∧ t.keys.qb ++ t.keys.waitB = s.keys.qb ++ s.keys.waitB) ∧
      (∀ b bs, s.keys.qb = b :: bs → (s.keys.qs = [] ∨ s.keys.lastB = false) → t.keys.job = some b ∧ t.keys.lastB = true ∧
        t.keys.qs ++ t.keys.waitS = s.keys.qs ++ s.keys.waitS ∧ t.keys.qb ++ t.keys.waitB = bs ++ s.keys.waitB) ∧
      (j.copy = none → t.progs.lib = s.progs.lib) ∧
      (∀ r stage loc, j.copy = some (stage, loc) → s.keys.repl = some r →
        (r.staging ≠ r.slot → t.progs.lib = s.progs.lib) ∧
        (r.staging = r.slot → r.kind = 2 → r.owner = stage → t.progs.lib = s.progs.lib.map (fun (l : LibImage) =>
          if l.stage = stage ∧ l.loc = loc then { l with under := keyWrapped s stage, writes := l.writes + 1 } else l))))) ∧
  (∀ b js j s, s.keys.job = some j → (addJobs b js s).keys.job = some j ∧
    (addJobs b js s).keys.qs ++ (addJobs b js s).keys.waitS = s.keys.qs ++ s.keys.waitS ++ (if b then [] else js) ∧
    (addJobs b js s).keys.qb ++ (addJobs b js s).keys.waitB = s.keys.qb ++ s.keys.waitB ++ (if b then js else [])) ∧
  (∀ s kat, Running s → s.keys.repl = none → exec (.keyReplaceDone kat) s = .next s) ∧
  (∀ s r, Running s → s.keys.repl = some r → s.keys.todo = [] → s.host.swapWait = [] →
    (∃ t, exec (.keyReplaceDone true) s = .next t ∧ t.keys.repl = none ∧ t.points = s.points ∧
      (r.staging = r.slot → t.keys.slots = s.keys.slots) ∧
      (r.staging ≠ r.slot → t.keys.slots = Table.set KeySlot.empty (Table.set KeySlot.empty s.keys.slots r.slot KeySlot.empty)
        r.staging (sealSlot { keySlot s r.staging with st := 0 })) ∧
      (r.kind = 1 → t.progs.lib = s.progs.lib ∧ t.keys.keyloss = !deviceKeyOk t ∧
        t.keys.cert = (keyFor t 1 0).bind (fun i => t.keys.kek.bind (fun kek =>
          (unwrapKey kek (keySlot t i).wrapped).map (fun key => ⟨edPublic key, s.eth.baseMac, true⟩))) ∧
        (TablesOk s → ∀ cn c, connOf t cn = some c → c.sess = none)) ∧
      (r.kind ≠ 1 → t.host = s.host ∧ t.keys.keyloss = s.keys.keyloss ∧ t.keys.cert = s.keys.cert ∧
        t.progs.lib = s.progs.lib.map (fun (l : LibImage) => if l.stage = r.owner ∧ l.under = r.old ∧ r.old.isSome then
          { l with under := keyWrapped t l.stage, writes := l.writes + 1 } else l))) ∧
    (∃ t, exec (.keyReplaceDone false) s = .next t ∧ t.keys.repl = none ∧ t.points = s.points ∧ t.host = s.host ∧
      t.progs.lib = s.progs.lib ∧ t.keys.cert = s.keys.cert ∧
      t.keys.keyloss = (if r.kind = 1 then !deviceKeyOk t else s.keys.keyloss) ∧
      t.keys.slots = Table.set KeySlot.empty s.keys.slots r.staging
        (if r.staging = r.slot then sealSlot { keySlot s r.slot with st := 2 } else KeySlot.empty))) ∧
  (∀ slot s, Running s →
    let k := keySlot s slot
    let days := s.keys.pol0.toNat / 65_536 % 16_384
    (days = 0 ∨ k.kind ≠ 2 ∨ k.st = 1 ∨ (houseTime s).toNat < k.created.toNat + days * 86_400 * 2 ^ 24 →
      exec (.keyRotationDue slot) s = .next s) ∧
    (days ≠ 0 → k.kind = 2 → k.st ≠ 1 → k.created.toNat + days * 86_400 * 2 ^ 24 ≤ (houseTime s).toNat →
      ∃ t, exec (.keyRotationDue slot) s = .next t ∧ t = { s with keys := t.keys, freeCtr := t.freeCtr } ∧
      ((s.keys.kek = none ∨ s.keys.repl.isSome = true) → t.keys.repl = s.keys.repl ∧ t.keys.slots = s.keys.slots ∧
        ∀ i, t.keys.todo.contains i = (i == slot || s.keys.todo.contains i)) ∧
      (∀ g, s.keys.kek.isSome = true → s.keys.repl = none → s.keys.todo = [] →
        (if s.keys.pol0.getLsbD 31 then some slot else stagingSlot s) = some g → t.keys.todo = [] ∧
        t.keys.repl = some ⟨slot, g, 2, k.owner, if k.st = 0 then some k.wrapped else none⟩ ∧
        ∃ n, t.keys.slots = Table.set KeySlot.empty s.keys.slots g n ∧ n.slot = g ∧ n.kind = 2 ∧ n.owner = k.owner ∧
          n.st = (if s.keys.pol0.getLsbD 31 then 0 else 1) ∧ n.gen = k.gen + 1 ∧ n.created = houseTime s ∧
          n.crc = crc32c (slotBytes n) ∧ n.kcv = aesCheck (draw256 s).1 ∧
          n.wrapped = wrapKey (s.keys.kek.getD 0) (draw256 s).1))) ∧
  (∀ i s, s.keys.latched.getLsbD i = true → fireSource i s = s) ∧
  (∀ i s, i < 6 → s.keys.latched.getLsbD i = false → s.power.mode = .up → TablesOk s →
    let t := fireSource i s
    t.points = s.points ∧ (∀ j, t.keys.latched.getLsbD j = (decide (j = i) || s.keys.latched.getLsbD j)) ∧
    (alarmAction s i = 0 → t.host = s.host ∧ t.progs = s.progs ∧ t.keys.locked = s.keys.locked ∧
      t.keys.slots = s.keys.slots) ∧
    (alarmAction s i = 1 → t.keys.locked = true ∧ t.keys.slots = s.keys.slots ∧ t.keys.root = s.keys.root ∧
      ∀ cn c, connOf t cn = some c → c.sess = none) ∧
    (alarmAction s i = 2 → t.keys.locked = true ∧ t.keys.erased = true ∧ t.keys.keyloss = true ∧ t.keys.slots = [] ∧
      t.keys.root = none ∧ t.keys.kek = none ∧ t.keys.helper = none ∧ t.keys.working = none ∧ t.keys.repl = none ∧
      t.progs.prog = s.progs.prog ∧ t.progs.lib = s.progs.lib ∧ (∀ l, copyOk t l = false) ∧ t.log.archive = [] ∧
      (∀ cn c, connOf t cn = some c → c.sess = none) ∧ ∀ e ∈ t.log.ring, e.1.code = 0x02 ∨ e.1.code = 0x60) ∧
    (s.integ.cores ≠ 0 → s.log.ring.length < ringCap → alarmAction s i ≠ 2 →
      t.log.ring.length = s.log.ring.length + 1 ∧ ∃ e ∈ t.log.ring, e.1.code = 0x60 ∧ e.1.sev = 7 ∧ e.1.owner = 0 ∧
        e.1.detail.take 2 = bytesLE 1 i ++ bytesLE 1 (alarmAction s i))) ∧
  (∀ s, Running s → exec .vglitch s = .next (fireSource 1 s) ∧ exec .cglitch s = .next (fireSource 2 s) ∧
    exec .tglitch s = .next (fireSource 3 s) ∧
    (s.keys.sec0.getLsbD 19 = true → exec .tamper s =
      .next (fireSource 0 { s with keys := { s.keys with loopOpen := true } })) ∧
    (s.keys.sec0.getLsbD 19 = false → exec .tamper s = .next s)) ∧
  (∀ s isOpen,
    (s.power.mode ≠ .down → exec (.tamperLoopTest isOpen) s = .next { s with keys := { s.keys with loopOpen := isOpen } }) ∧
    (s.power.mode = .down → exec (.tamperLoopTest isOpen) s = .next { s with keys := { s.keys with
      loopOpen := isOpen, vbatTamper := s.keys.vbatTamper || (isOpen && s.keys.sec0.getLsbD 19) } }))

/-! ## Firmware update -/

/-- Update. UPDSTATUS, UPDLOAD, UPDSTART, UPDCONFIRM, UPDABORT, UPDRECOVER and ARCHEXPORT complete for the UPDATE role of
stage 0; a part of UPDLOAD erases or extends the standby bank alone, and what is checked whole is valid only if its format, its
CRCs and hash, its signature and its epoch are right; UPDSTART starts an update if no check fails; in UPDATE_STEP_PROVEN a step
commits once proven, flips its bank and raises the floor, and one that fails, or runs out of time in UPDATE_PROOF_TIMEOUT, rolls
back every step in descending order; UPDRECOVER restarts into recovery after 1 s (R367, R391 to R399). The premise on the tables is
`Obligations.EveryStepKeepsImageAndTables`. -/
def Obligations.UpdateRows : Prop :=
  (∀ cn rq c s i op cost, Ready cn cost c s → ¬ MayUpdate c s →
    (i, op, cost) = (Instr.updstatus cn rq, 0x0090, 4) ∨
      (∃ kind off bytes l h g, (i, op, cost) = (.updload cn rq kind off bytes l h g, 0x0091, 4 + (8 + bytes.length + 4_095) / 4_096)) ∨
      (∃ w, (i, op, cost) = (.updstart cn rq w, 0x0092, 5)) ∨ (i, op, cost) = (.updconfirm cn rq, 0x0093, 4) ∨
      (i, op, cost) = (.updabort cn rq, 0x0094, 4) ∨ (i, op, cost) = (.updrecover cn rq, 0x0095, 4) ∨
      (∃ u, (i, op, cost) = (.archexport cn rq u, 0x0096, 5)) →
    ∃ t, Answers i cn rq op stDenied s t ∧ t.upd = s.upd) ∧
  (∀ cn rq c s, Ready cn 4 c s → MayUpdate c s →
    (∃ t pay, exec (.updstatus cn rq) s = .next t ∧ Issued (.resp cn rq 0x0090 stOk 0 pay) s t ∧ pay.length = 51 ∧
      t.upd = s.upd) ∧
    (s.upd.upd = none → (∃ t, Answers (.updconfirm cn rq) cn rq 0x0093 stState s t ∧ t.upd = s.upd) ∧
      ∃ t, Answers (.updabort cn rq) cn rq 0x0094 stState s t ∧ t.upd = s.upd) ∧
    (∀ u, s.upd.upd = some u → u.rollback = false → u.cur = some 6 → u.steps = [] → u.activated = true →
      (u.checked = false → ∃ t, Answers (.updconfirm cn rq) cn rq 0x0093 stState s t ∧ t.upd = s.upd) ∧
      (u.checked = true → ∃ t, exec (.updconfirm cn rq) s = .next t ∧ t.points = s.points ∧ t.upd.upd = none ∧
        t.upd.lastErr = 0 ∧ t.upd.inB = Table.set false s.upd.inB 6 (!inB s 6) ∧ t.upd.bank = s.upd.bank)) ∧
    (∀ u k, s.upd.upd = some u → u.cur = some k → u.rollback = false →
      (u.activated = false → u.doneSteps = [] → ∃ t, Answers (.updabort cn rq) cn rq 0x0094 stOk s t ∧ t.upd.upd = none ∧
        t.upd.lastErr = 0x0F08 ∧ t.upd.inB = s.upd.inB) ∧
      (u.activated = true → k ∈ maskKinds u.mask → ∃ t v, Answers (.updabort cn rq) cn rq 0x0094 stOk s t ∧
        t.upd.upd = some v ∧ v.rollback = true ∧ v.code = 0x0F07 ∧ v.failed = k)) ∧
    (∀ u, s.upd.upd = some u → u.rollback = true → ∃ t, Answers (.updabort cn rq) cn rq 0x0094 stState s t ∧
      t.upd = s.upd) ∧
    (∃ t, Answers (.updrecover cn rq) cn rq 0x0095 stOk s t ∧
      t.upd = { s.upd with recover := true, restartAt := some (s.now + 25_000_000) })) ∧
  (∀ cn rq c s unit, Ready cn 5 c s → MayUpdate c s →
    (s.log.archive.length ≤ 2_048 * unit → ∃ t, Answers (.archexport cn rq unit) cn rq 0x0096 stBadarg s t) ∧
    (2_048 * unit < s.log.archive.length → ∃ t pay, exec (.archexport cn rq unit) s = .next t ∧
      Issued (.resp cn rq 0x0096 stOk 0 pay) s t ∧ t.log = s.log ∧
      pay.length = 16 * min 2_048 (s.log.archive.length - 2_048 * unit))) ∧
  (∀ cn rq kind off bytes l h g c s, Ready cn (4 + (8 + bytes.length + 4_095) / 4_096) c s → MayUpdate c s →
    (kind = 0 ∨ 6 < kind → ∃ t, Answers (.updload cn rq kind off bytes l h g) cn rq 0x0091 stBadarg s t ∧ t.upd = s.upd) ∧
    (1 ≤ kind → kind ≤ 6 → s.upd.upd.isSome = true → ∃ t,
      Answers (.updload cn rq kind off bytes l h g) cn rq 0x0091 stState s t ∧ t.upd = s.upd) ∧
    (1 ≤ kind → kind ≤ 6 → s.upd.upd = none → off ≠ 0 → s.upd.load ≠ some (kind, off) → ∃ t,
      Answers (.updload cn rq kind off bytes l h g) cn rq 0x0091 stBadarg s t ∧ t.upd = s.upd) ∧
    (1 ≤ kind → kind ≤ 6 → s.upd.upd = none → off = 0 → s.integ.nandOut = true → ∃ t,
      Answers (.updload cn rq kind off bytes l h g) cn rq 0x0091 stRejected s t ∧ t.upd = { s.upd with lastErr := 0x1001 }) ∧
    (∀ bs, PartFits kind off bytes bs s → TablesOk s → ∃ t, exec (.updload cn rq kind off bytes l h g) s = .next t ∧
      t.points = s.points ∧ t.upd.inB = s.upd.inB ∧ t.upd.upd = none ∧
      (∀ k b, k ≠ kind ∨ b = inB s kind → bankOf t k b = bankOf s k b) ∧
      (bankSize kind < bs.length → t.upd.lastErr = 0x0F01 ∧ t.upd.load = none ∧ (standbyBank t kind).valid = false) ∧
      (bs.length ≤ bankSize kind → (List.range (imgArrived bs)).all (imgBlockOk bs) = true →
        (l = false → Issued (.resp cn rq 0x0091 stOk 0 []) s t ∧ t.upd.load = some (kind, bs.length) ∧
          standbyBank t kind = { Bank.erased with bytes := bs }) ∧
        (l = true → imgCheck s kind bs h g = 0 → Issued (.resp cn rq 0x0091 stOk 0 []) s t ∧ t.upd.load = none ∧
          standbyBank t kind = readImage bs) ∧
        (l = true → imgCheck s kind bs h g ≠ 0 → t.upd.load = none ∧ t.upd.lastErr = 0x0F00 + imgCheck s kind bs h g ∧
          (standbyBank t kind).valid = false ∧
          (imgCheck s kind bs h g ≠ 1 → g = false → t.keys.latched.getLsbD 5 = true))) ∧
      (bs.length ≤ bankSize kind → (List.range (imgArrived bs)).all (imgBlockOk bs) = false → t.upd.load = none ∧
        t.upd.lastErr = 0x0F02 ∧ (standbyBank t kind).valid = false))) ∧
  (∀ s k b, bankOk s k b = true ↔ (bankOf s k b).valid = true ∧ (bankOf s k b).romOk = true ∧
    (floorOf s k).toNat ≤ (bankOf s k b).epoch.toNat) ∧
  (∀ s w k, k ∈ maskKinds (w.setWidth 6) → bankOk s k (!inB s k) = false → (startErr s w).1 = 0x0F06) ∧
  (∀ s kind bs h g, imgCheck s kind bs h g = 0 → imgFormatOk kind bs = true ∧ h = true ∧ g = true ∧
    (∀ i, i < imgNblk bs → imgBlockOk bs i = true) ∧ (floorOf s kind).toNat ≤ getLE bs 0x10 4) ∧
  (∀ cn rq w c s, Ready cn 5 c s → MayUpdate c s →
    let win := w.toNat / 1_048_576
    (w &&& 0x000F_F8C0 ≠ 0 ∨ (win ≠ 0 ∧ (win < 30 ∨ 3_600 < win)) → ∃ t,
      Answers (.updstart cn rq w) cn rq 0x0092 stBadarg s t ∧ t.upd = s.upd) ∧
    (w &&& 0x000F_F8C0 = 0 → win = 0 ∨ (30 ≤ win ∧ win ≤ 3_600) →
      ((startErr s w).1 ≠ 0 → ∃ t, Answers (.updstart cn rq w) cn rq 0x0092 stRejected s t ∧
        t.upd = { s.upd with lastErr := (startErr s w).1 }) ∧
      ((startErr s w).1 = 0 → ∃ t u, Answers (.updstart cn rq w) cn rq 0x0092 stOk s t ∧
        t.upd = { s.upd with upd := some u } ∧ u.cur.toList ++ u.steps = maskKinds (w.setWidth 6) ∧ u.activated = false ∧
        u.rollback = false ∧ u.cn = cn ∧ u.proofwin = (if win = 0 then 300 else win) ∧ u.autoconf = w.getLsbD 10))) ∧
  (∀ s met, Running s → (s.upd.upd = none → exec (.updateStepProven met) s = .next s) ∧
    (∀ u k, s.upd.upd = some u → u.cur = some k →
      (u.activated = false → exec (.updateStepProven met) s = .next (if met then s else failStep 0x0F08 s)) ∧
      (u.activated = true → met = false → exec (.updateStepProven met) s = .next (failStep 0x0F07 s)) ∧
      (u.activated = true → met = true → u.rollback = false → proofMet s { u with checked := true } k = true → ∃ t,
        exec (.updateStepProven met) s = .next t ∧ t.points = s.points ∧ t.upd.bank = s.upd.bank ∧
        t.upd.inB = Table.set false s.upd.inB k (!inB s k) ∧
        t.upd.floor = Table.set 0 s.upd.floor k
          (if (floorOf s k).toNat < (standbyBank s k).epoch.toNat then (standbyBank s k).epoch else floorOf s k) ∧
        (u.steps = [] → t.upd.upd = none ∧ t.upd.lastErr = 0) ∧
        (∀ n rest, u.steps = n :: rest → ∃ v, t.upd.upd = some v ∧ v.cur = some n ∧ v.steps = rest ∧ v.activated = false ∧
          v.doneSteps = u.doneSteps ++ [k])) ∧
      (u.activated = true → met = true → proofMet s { u with checked := true } k = false → exec (.updateStepProven met) s =
        .next { s with upd := { s.upd with upd := some { u with checked := true } } }))) ∧
  (∀ s u k code, s.upd.upd = some u → u.cur = some k →
    (u.rollback = true → failStep code s = { s with upd := { s.upd with restartAt := some s.now } }) ∧
    (u.rollback = false → u.activated = false → u.doneSteps = [] → (failStep code s).upd.upd = none ∧
      (failStep code s).upd.lastErr = code ∧ (failStep code s).upd.inB = s.upd.inB) ∧
    (u.rollback = false → u.activated = true → k ∈ maskKinds u.mask → ∃ v n, (failStep code s).upd.upd = some v ∧
      v.rollback = true ∧ v.code = code ∧ v.failed = k ∧ v.cur = some n ∧ v.activated = false ∧
      n :: v.steps = (maskKinds u.mask).reverse.filter (fun x => x == k || u.doneSteps.contains x))) ∧
  (∀ s u k, Running s → s.upd.upd = some u → u.cur = some k →
    (u.activated = true → k ≤ 3 → u.activatedAt + 250_000_000 ≤ s.now →
      exec .updateProofTimeout s = .next (failStep 0x0F07 s)) ∧
    (u.activated = true → k ≤ 3 → s.now < u.activatedAt + 250_000_000 → exec .updateProofTimeout s = .next s) ∧
    (u.activated = true → k = 6 → u.activatedAt + 25_000_000 * u.proofwin ≤ s.now →
      exec .updateProofTimeout s = .next (failStep 0x0F07 s)) ∧
    (u.activated = false ∨ k = 4 ∨ k = 5 → exec .updateProofTimeout s = .next s))

/-! ## Integrity -/

/-- Self-repair. ROTATION_TEST_CHUNK completes on a pair in service that has no section to run, retires a pair that fails at the
normal clock, notes a marginal one and retires it at its third while nine serve; SCRUB completes for everything the scrubber
finds: it counts, repairs rows, and treats an uncorrectable word by where it lies; CORE_CHECKPOINT releases what the cores
issued, CORE_LOCKSTEP_MISMATCH hands over to the spare pair and, of the last pair, ends sessions; in AGEING_MEASURE a margin below
15 % and in NAND_BLOCK_FAIL a reserve below 25 % raise PREDICT (R410 to R418, R421, R422, R425). The premises on the image and the tables are
`Obligations.EveryStepKeepsImageAndTables`; which row an uncorrectable code word lies in is a free value (log 2). -/
def Obligations.IntegrityRows : Prop :=
  (∀ p n f l s, inServicePair s p = false ∨ (runOf s p).isSome = true → exec (.rotationTestChunk p n f l) s = .next s) ∧
  (∀ p s, Running s → inServicePair s p = true → runOf s p = none →
    (∀ n f, exec (.rotationTestChunk p n f false) s = .next { s with integ := { s.integ with
      rotFailN := s.integ.rotFailN || !n, rotFailS := s.integ.rotFailS || !f } }) ∧
    (∀ n f, s.integ.rotFailN = true ∨ n = false → ∃ t, exec (.rotationTestChunk p n f true) s = .next t ∧
      t.eng.inService = s.eng.inService &&& ~~~(1#9 <<< p) ∧ t.eng.retired = s.eng.retired ||| (1#9 <<< p) ∧
      t.integ.rotFailN = false ∧ t.integ.rotFailS = false) ∧
    (∀ f, s.integ.rotFailN = false → s.integ.rotFailS = true ∨ f = false →
      let k := Table.get 0 s.integ.marginal p + 1
      ∃ t, exec (.rotationTestChunk p true f true) s = .next t ∧ t.integ.marginal = Table.set 0 s.integ.marginal p k ∧
        (1 + p) ∈ t.integ.predicted ∧ t.eng.inService =
          (if 3 ≤ k ∧ pairsIn s = 9 then s.eng.inService &&& ~~~(1#9 <<< p) else s.eng.inService)) ∧
    (s.integ.rotFailN = false → s.integ.rotFailS = false → exec (.rotationTestChunk p true true true) s =
      .next { s with integ := { s.integ with
        rotFailN := false, rotFailS := false, marginal := Table.set 0 s.integ.marginal p 0
        predicted := s.integ.predicted.filter (fun c => c != 1 + p) } })) ∧
  (∀ s, Running s → PointsOk s.points → TablesOk s →
    (exec (.scrub .mramCorrected) s = .next { s with integ := { s.integ with eccMram := s.integ.eccMram + 1 } }) ∧
    (∀ row word, s.integ.rowHist = [] → exec (.scrub (.sramCorrected row word)) s = .next { s with integ := { s.integ with
      eccSram := s.integ.eccSram + 1, rowHist := [(row, word, s.now / 250_000_000)] } }) ∧
    (∀ row word w', s.integ.rowHist = [(row, w', s.now / 250_000_000)] → w' ≠ word → 0 < s.integ.rowSpare → ∃ t,
      exec (.scrub (.sramCorrected row word)) s = .next t ∧ t.integ.rowSpare = s.integ.rowSpare - 1 ∧
      t.integ.eccSram = s.integ.eccSram + 1 ∧ (s.integ.rowSpare ≤ 42 → 10 ∈ t.integ.predicted)) ∧
    (∀ stage pc, ∃ t, exec (.scrub (.sectionCode stage pc)) s = .next t ∧ (stage, pc) ∈ t.eng.codeUecc ∧
      t.points = s.points ∧ t.integ.rowSpare = s.integ.rowSpare - 1) ∧
    (∀ pt, ∃ t, exec (.scrub (.imageWord pt)) s = .next t ∧ pt ∈ t.points.uecc ∧
      (rawPoint t pt).val = (Table.get PV.zero s.points.retained pt).val ∧
      (rawPoint t pt).q &&& 0x081 = 0x080 ∧ ∀ m, m ≠ pt → rawPoint t m = rawPoint s m) ∧
    (∃ t, exec (.scrub .netBuffer) s = .next t ∧ t.points = s.points ∧ t.eng = s.eng ∧ t.integ = s.integ) ∧
    (∀ pt, ∃ t, exec (.scrub (.mramPoint pt false)) s = .next t ∧ t.points.pts = s.points.pts ∧
      t.points.retained = Table.set PV.zero s.points.retained pt (rawPoint s pt)) ∧
    (∀ pt, ∃ t, exec (.scrub (.mramPoint pt true)) s = .next t ∧ (rawPoint t pt).val = (rawPoint s pt).val ∧
      (rawPoint t pt).q &&& 0x081 = 0x080 ∧ ∀ m, m ≠ pt → rawPoint t m = rawPoint s m) ∧
    (∀ n, ∃ t, exec (.scrub (.mramLoop n false)) s = .next t ∧ (∀ m, loopRt t m = loopRt s m) ∧
      Table.get LoopRt.fresh t.loops.kept n = loopRt s n ∧ t.loops.due = s.loops.due) ∧
    (∀ n, (loopRt s n).saved = none → ∃ t, exec (.scrub (.mramLoop n true)) s = .next t ∧
      loopRt t n = loopCold (loopDesc s n) (loopRt s n) ∧ (∀ o ∈ t.loops.due, o.loop ≠ n) ∧ ∀ m, m ≠ n → loopRt t m = loopRt s m) ∧
    (∀ stage, ∃ t, exec (.scrub (.programStore stage)) s = .next t ∧
      (∀ e, e ∈ t.eng.codeUecc ↔ e ∈ s.eng.codeUecc ∧ e.1 ≠ stage) ∧ t.points = s.points) ∧
    (∀ slot, (keySlot s slot).kind ≠ 0 → ∃ t, exec (.scrub (.keySlot slot)) s = .next t ∧
      t.keys.slots = Table.set KeySlot.empty s.keys.slots slot { keySlot s slot with st := 2 } ∧ t.points = s.points) ∧
    (∀ region bad, ∃ t, exec (.scrub (.configCopy region bad)) s = .next t ∧ t.points = s.points ∧
      (∀ r, r ∈ t.integ.cfgBad ↔ r ∈ s.integ.cfgBad ∨ (bad = true ∧ r = region)))) ∧
  (∀ s, Running s → s.integ.cores ≠ 0 → exec .coreCheckpoint s = .next { s with
    out := s.integ.issued ++ s.out, integ := { s.integ with issued := [], ckptAt := s.now } }) ∧
  (∀ s, s.integ.cores = 0 → exec .coreCheckpoint s = .next s ∧ exec .coreLockstepMismatch s = .next s) ∧
  (∀ s, Running s → s.integ.cores = 0xF → ∃ t, exec .coreLockstepMismatch s = .next t ∧
    t.integ.cores = (if s.integ.spareActive then 0x3 else 0xC) ∧ t.integ.spareActive = !s.integ.spareActive ∧
    t.points = s.points ∧ t.host = s.host ∧ t.integ.issued = s.integ.issued ∧
    (s.integ.spareActive = false → 12 ∈ t.integ.predicted)) ∧
  (∀ s, Running s → s.integ.cores = (if s.integ.spareActive then 0xC else 0x3) → ∃ t,
    exec .coreLockstepMismatch s = .next t ∧ t.integ.cores = 0 ∧ t.host.conns = [] ∧ t.host.svcOpen = false ∧
    t.integ.issued = [] ∧ t.points = s.points ∧ t.takes = s.takes) ∧
  (∀ s (m : Word), Running s →
    (15 * 65_536 ≤ m.toInt → exec (.ageingMeasure m) s = .next { s with integ := { s.integ with
      ageMargin := m, predicted := s.integ.predicted.filter (fun c => c != 0) } }) ∧
    (m.toInt < 15 * 65_536 → ∃ t, exec (.ageingMeasure m) s = .next t ∧ t.integ.ageMargin = m ∧ 0 ∈ t.integ.predicted ∧
      t.points = s.points ∧ (0 ∈ s.integ.predicted → t = { s with integ := { s.integ with ageMargin := m } }))) ∧
  (∀ s, s.integ.nandFree = 0 → exec .nandBlockFail s = .next s) ∧
  (∀ s n, Running s → s.integ.nandFree = n + 1 → ∃ t, exec .nandBlockFail s = .next t ∧ t.integ.nandFree = n ∧
    t.integ.nandOut = (s.integ.nandOut || n == 0) ∧ t.points = s.points ∧ (n < 840 → 11 ∈ t.integ.predicted) ∧
    (840 ≤ n → t = { s with integ := { s.integ with nandFree := n } }))

/-! ## Recovery -/

/-- The ROM's recovery protocol. Its rows act only in recovery. RECOVERY_QUERY answers any host; RECOVERY_BEGIN completes for the
host that holds the session or finds it free, which it holds for as long as it is heard within 60 s, while others are BUSY to all
but QUERY; a load takes the invalid bank, or the standby bank where both are valid; RECOVERY_DATA completes at the offset
expected; RECOVERY_END makes an image valid whose check passes; RECOVERY_ACTIVATE places what was loaded in service if the set
fits, clears the boot counter and restarts 100 ms later; RECOVERY_SESSION_TIMEOUT ends a silent session (R403 to R406). The premise on the tables is
`Obligations.EveryStepKeepsImageAndTables`. What a kind with neither bank valid takes is the model's choice: the standby bank
(log 19). -/
def Obligations.RecoveryRows : Prop :=
  (∀ s host sq kind total off bytes h g mask, s.power.mode ≠ .recovery →
    exec (.recoveryQuery host sq) s = .next s ∧ exec (.recoveryBegin host sq kind total) s = .next s ∧
    exec (.recoveryData host sq off bytes) s = .next s ∧ exec (.recoveryEnd host sq h g) s = .next s ∧
    exec (.recoveryActivate host sq mask) s = .next s ∧ exec .recoverySessionTimeout s = .next s) ∧
  (∀ s host sq, s.power.mode = .recovery → ∃ pay, pay.length = 112 ∧ exec (.recoveryQuery host sq) s =
    .next { s with out := .recovery host 0x81 0 sq.toNat 0 pay :: s.out }) ∧
  (∀ s host sq r, s.power.mode = .recovery → s.upd.sess = some r → r.host ≠ host → s.now < r.lastSeen + 1_500_000_000 →
    (∀ kind total, exec (.recoveryBegin host sq kind total) s =
      .next { s with out := .recovery host 0x82 10 sq.toNat 0 [] :: s.out }) ∧
    (∀ off bytes, exec (.recoveryData host sq off bytes) s =
      .next { s with out := .recovery host 0x83 10 sq.toNat 0 [] :: s.out }) ∧
    (∀ h g, exec (.recoveryEnd host sq h g) s = .next { s with out := .recovery host 0x84 10 sq.toNat 0 [] :: s.out }) ∧
    (∀ mask, exec (.recoveryActivate host sq mask) s =
      .next { s with out := .recovery host 0x85 10 sq.toNat 0 [] :: s.out })) ∧
  (∀ s host sq, s.power.mode = .recovery → s.upd.sess = none →
    (∀ off bytes, exec (.recoveryData host sq off bytes) s =
      .next { s with out := .recovery host 0x83 2 sq.toNat 0 [] :: s.out }) ∧
    (∀ h g, exec (.recoveryEnd host sq h g) s = .next { s with out := .recovery host 0x84 2 sq.toNat 0 [] :: s.out }) ∧
    (∀ mask, exec (.recoveryActivate host sq mask) s =
      .next { s with out := .recovery host 0x85 2 sq.toNat 0 [] :: s.out })) ∧
  (∀ s host sq kind total, s.power.mode = .recovery → TablesOk s →
    (s.upd.sess = none ∨ ∃ r, s.upd.sess = some r ∧ (r.host = host ∨ r.lastSeen + 1_500_000_000 ≤ s.now)) →
    (kind = 0 ∨ 6 < kind → ∃ t, exec (.recoveryBegin host sq kind total) s = .next t ∧ t.upd.bank = s.upd.bank ∧
      t.out = .recovery host 0x82 1 sq.toNat 0 [] :: s.out) ∧
    (1 ≤ kind → kind ≤ 6 → bankSize kind < total → ∃ t, exec (.recoveryBegin host sq kind total) s = .next t ∧
      t.upd.bank = s.upd.bank ∧ t.out = .recovery host 0x82 3 sq.toNat 0 [] :: s.out) ∧
    (1 ≤ kind → kind ≤ 6 → total ≤ bankSize kind → s.integ.nandOut = false →
      let b := loadBank s kind
      ∃ t r, exec (.recoveryBegin host sq kind total) s = .next t ∧
        t.out = .recovery host 0x82 0 sq.toNat 0 [if b then 1 else 0] :: s.out ∧ t.upd.sess = some r ∧ r.host = host ∧
        r.kind = kind ∧ r.bankB = b ∧ r.total = total ∧ r.offset = 0 ∧ r.lastSeen = s.now ∧ bankOf t kind b = Bank.erased ∧
        ∀ k a, k ≠ kind ∨ a ≠ b → bankOf t k a = bankOf s k a)) ∧
  (∀ s kind, (bankOk s kind false = false → bankOk s kind true = true → loadBank s kind = false) ∧
    (bankOk s kind false = true → bankOk s kind true = false → loadBank s kind = true) ∧
    (bankOk s kind false = bankOk s kind true → loadBank s kind = !inB s kind)) ∧
  (∀ s host sq r, s.power.mode = .recovery → TablesOk s → s.upd.sess = some r → r.host = host →
    s.now < r.lastSeen + 1_500_000_000 →
    (∀ off bytes, r.kind = 0 ∨ off ≠ r.offset → exec (.recoveryData host sq off bytes) s =
      .next { s with upd := { s.upd with sess := some { r with lastSeen := s.now } }
                     out := .recovery host 0x83 2 sq.toNat r.offset [] :: s.out }) ∧
    (∀ bytes, r.kind ≠ 0 → 1_024 < bytes.length ∨ r.total < r.offset + bytes.length →
      ∃ t, exec (.recoveryData host sq r.offset bytes) s = .next t ∧ t.upd.bank = s.upd.bank ∧
        t.out = .recovery host 0x83 1 sq.toNat r.offset [] :: s.out) ∧
    (∀ bytes, r.kind ≠ 0 → bytes.length ≤ 1_024 → r.offset + bytes.length ≤ r.total →
      (s.integ.nandOut = true → ∃ t, exec (.recoveryData host sq r.offset bytes) s = .next t ∧ t.upd.bank = s.upd.bank ∧
        t.out = .recovery host 0x83 9 sq.toNat r.offset [] :: s.out) ∧
      (s.integ.nandOut = false → ∃ t, exec (.recoveryData host sq r.offset bytes) s = .next t ∧
        t.out = .recovery host 0x83 0 sq.toNat (r.offset + bytes.length) [] :: s.out ∧
        t.upd.sess = some { r with lastSeen := s.now, offset := r.offset + bytes.length } ∧
        (bankOf t r.kind r.bankB).bytes = (bankOf s r.kind r.bankB).bytes ++ bytes ∧
        (bankOf t r.kind r.bankB).valid = false ∧
        ∀ k a, k ≠ r.kind ∨ a ≠ r.bankB → bankOf t k a = bankOf s k a)) ∧
    (∀ h g, r.kind = 0 ∨ r.offset ≠ r.total → exec (.recoveryEnd host sq h g) s =
      .next { s with upd := { s.upd with sess := some { r with lastSeen := s.now } }
                     out := .recovery host 0x84 2 sq.toNat r.offset [] :: s.out }) ∧
    (∀ h g, r.kind ≠ 0 → r.offset = r.total →
      let bs := (bankOf s r.kind r.bankB).bytes
      (imgCheck s r.kind bs h g = 0 → ∃ t, exec (.recoveryEnd host sq h g) s = .next t ∧
        bankOf t r.kind r.bankB = readImage bs ∧ t.out = .recovery host 0x84 0 sq.toNat 0 [] :: s.out ∧
        t.upd.sess = some { r with lastSeen := s.now, kind := 0, loaded := r.loaded ++ [(r.kind, r.bankB)] }) ∧
      (imgCheck s r.kind bs h g ≠ 0 → ∃ t, exec (.recoveryEnd host sq h g) s = .next t ∧ t.upd.bank = s.upd.bank ∧
        t.out = .recovery host 0x84 (imgCheck s r.kind bs h g + 2) sq.toNat 0 [] :: s.out ∧
        t.keys.sigPend = (s.keys.sigPend || (imgCheck s r.kind bs h g != 1 && !g)))) ∧
    (∀ mask, (∃ k ∈ maskKinds mask, ∀ e ∈ r.loaded, e.1 ≠ k) → ∃ t, exec (.recoveryActivate host sq mask) s = .next t ∧
      t.upd.inB = s.upd.inB ∧ t.upd.restartAt = s.upd.restartAt ∧ t.out = .recovery host 0x85 8 sq.toNat 0 [] :: s.out) ∧
    (∀ mask k b, r.loaded = [(k, b)] → maskKinds mask = [k] →
      let set := fun (x : Nat) => if x = k then b else inB s x
      (validFit s set = true → ∃ t, exec (.recoveryActivate host sq mask) s = .next t ∧
        t.upd.inB = Table.set false s.upd.inB k b ∧ t.upd.bootCnt = 0 ∧ t.upd.restartAt = some (s.now + 2_500_000) ∧
        t.upd.sess = none ∧ t.upd.bank = s.upd.bank ∧ t.out = .recovery host 0x85 0 sq.toNat 0 [] :: s.out) ∧
      (validFit s set = false → ∃ t, exec (.recoveryActivate host sq mask) s = .next t ∧ t.upd.inB = s.upd.inB ∧
        t.upd.restartAt = s.upd.restartAt ∧ t.out = .recovery host 0x85 7 sq.toNat 0 [] :: s.out))) ∧
  (∀ s, s.power.mode = .recovery → (s.upd.sess = none → exec .recoverySessionTimeout s = .next s) ∧
    ∀ r, s.upd.sess = some r →
      (r.lastSeen + 1_500_000_000 ≤ s.now → exec .recoverySessionTimeout s = .next { s with upd := { s.upd with sess := none } }) ∧
      (s.now < r.lastSeen + 1_500_000_000 → exec .recoverySessionTimeout s = .next s))

/-! ## Power, reset and registers -/

/-- Power and reset. DIP_START and DIP_END bound a dip, and one that ends within D is only recorded; POWER_FAIL for one that
outlasts it, RSTN_ASSERT, BOOT_WATCHDOG 10 s after power-good and SWRESET for a pending restart stop the module: every output is
off, no take goes on, sessions end, the image stays retained, MT and its instant are kept by a sequence. POWER_GOOD starts a
module that is down, into recovery for the causes of R403; MT goes on from the stop, the start kind follows its precedence, and
the slate begins with HALFCNT 0. AUX_OVERLOAD switches AUX3V3 off and AUX_RETRY tries again after 100 ms. Which of several
causes of recovery is kept is the model's choice (log 50)
(R401, R403, R404, R419, R425, R428, R430 to R437, R439, R442). -/
def Obligations.PowerRows : Prop :=
  (∀ s vin, (s.power.mode = .down ∨ s.power.dip.isSome = true ∨ 18_000 ≤ vin.toNat → exec (.dipStart vin) s = .next s) ∧
    (s.power.mode ≠ .down → s.power.dip = none → vin.toNat < 18_000 → ∃ d, exec (.dipStart vin) s =
      .next { s with power := { s.power with vin := vin, lowVin := vin, dip := some (s.now, d) } } ∧
      (s.power.lastDipEnd = none → d = 250_000) ∧
      ∀ e, s.power.lastDipEnd = some e → d = (if e + 25_000_000 ≤ s.now then 250_000 else 50_000))) ∧
  (∀ s vin, s.power.dip = none → exec (.dipEnd vin) s = .next s ∧ exec .powerFail s = .next s) ∧
  (∀ s vin t0 d, s.power.mode ≠ .down → s.power.dip = some (t0, d) →
    (s.now < t0 + d → exec .powerFail s = .next s) ∧
    (s.now < t0 + d → 18_500 ≤ vin.toNat → ∃ t, exec (.dipEnd vin) s = .next t ∧
      t.power = { s.power with vin := vin, dip := none, lastDipEnd := some s.now } ∧ t.points = s.points ∧
      t.takes = s.takes) ∧
    (vin.toNat < 18_500 ∨ t0 + d ≤ s.now → exec (.dipEnd vin) s = .next s) ∧
    (t0 + d ≤ s.now → ∃ t, exec .powerFail s = .next t ∧ Stopped s t ∧ t.power.cause = 2 ∧ t.power.aux = false ∧
      t.upd.bootCnt = (if s.upd.bootCnt = 0 then 0 else s.upd.bootPrev) ∧
      (s.power.mode = .up → t.power.tpf = some (t0 + d) ∧
        t.power.mtTpf = some (s.power.mtBase + BitVec.ofNat 64 ((t0 + d - s.power.mtAt) / 25))))) ∧
  (∀ s, (s.power.mode = .down → exec .rstnAssert s = .next { s with power := { s.power with rstn := false } }) ∧
    (s.power.mode ≠ .down → ∃ t, exec .rstnAssert s = .next t ∧ Stopped s t ∧ t.power.cause = 3 ∧ t.power.rstn = false ∧
      t.power.aux = s.power.aux ∧ (s.power.mode = .up → t.power.tpf = some s.now))) ∧
  (∀ s, (s.upd.bootCnt = 0 ∨ s.now < s.power.goodAt + 250_000_000 → exec .bootWatchdog s = .next s) ∧
    (Running s → s.upd.bootCnt ≠ 0 → s.power.goodAt + 250_000_000 ≤ s.now → ∃ t, exec .bootWatchdog s = .next t ∧
      Stopped s t ∧ t.power.cause = 4 ∧ t.power.mtTpf = none ∧ t.upd.bootCnt = s.upd.bootCnt)) ∧
  (∀ s, s.upd.restartAt = none → exec .swreset s = .next s) ∧
  (∀ s t0, s.power.mode ≠ .down → s.upd.restartAt = some t0 → (s.now < t0 → exec .swreset s = .next s) ∧
    (t0 ≤ s.now → ∃ t, exec .swreset s = .next t ∧ Stopped s t ∧ t.power.cause = 5 ∧ t.upd.bootCnt = s.upd.bootCnt ∧
      t.upd.restartAt = none)) ∧
  (∀ s b, s.power.mode ≠ .down → exec (.powerGood b) s = .next s) ∧
  (∀ s b, s.power.mode = .down → s.integ.cfgBad = [] → b.recov = true → ∃ t, exec (.powerGood b) s = .next t ∧
    t.power.mode = .recovery ∧ t.upd.cause = some 0 ∧ t.slate.started = false ∧ t.takes = [] ∧ t.field.dout = [] ∧
    t.field.ao = [] ∧ t.host.conns = [] ∧ t.upd.bootCnt = min 3 (s.upd.bootCnt + 1) ∧
    (∀ i, { keySlot t i with st := (keySlot s i).st } = keySlot s i) ∧
    t.progs.lib = s.progs.lib ∧ t.points.tags = s.points.tags ∧ t.upd.floor = s.upd.floor ∧
    t.points.retained = s.points.retained) ∧
  (∀ s b, Bootable b s →
    (b.corePairAOk = false → b.corePairBOk = false → ∃ t, exec (.powerGood b) s = .next t ∧ t.power.mode = .up ∧
      t.slate.started = false ∧ t.integ.cores = 0 ∧ t.host.conns = [] ∧ t.host.svcOpen = false) ∧
    (b.corePairAOk = true ∨ b.corePairBOk = true → ∃ u, exec (.powerGood b) s = .next (firmwareStart b (lateRecords
        (if 0 < s.power.stepReached ∧ s.power.stepReached < 4 then some (pwrfailDetail s) else none)
        (!s.power.firstPower && s.integ.cores == 0) [] none (selfTest b u))) ∧
      u.power.mode = .up ∧ u.power.goodAt = s.now ∧ u.upd.bootCnt = 1 ∧ u.integ.cores.getLsbD 0 = b.corePairAOk ∧
      u.integ.cores.getLsbD 2 = b.corePairBOk ∧ u.host.conns = [] ∧ u.points.pts = s.points.retained)) ∧
  (∀ s b c, recoveryCause s b = some c → (c = 0 ↔ b.recov = true) ∧ (c = 1 → s.upd.bootCnt = 3) ∧
    (c = 2 → s.variant = 0 ∨ 3 < s.variant.toNat) ∧ (c = 3 → setRuns s b (bootSet s b) = false) ∧
    (c = 4 → s.upd.recover = true) ∧ c ≤ 4) ∧
  (∀ s b, recoveryCause s b = none ↔ b.recov = false ∧ s.upd.bootCnt ≠ 3 ∧ s.variant ≠ 0 ∧ s.variant.toNat ≤ 3 ∧
    setRuns s b (bootSet s b) = true ∧ s.upd.recover = false) ∧
  (∀ s, (∀ m, s.power.mtTpf = some m → startMt s = (if s.rtc.osfOutage then m + 1
      else m + BitVec.ofNat 64 ((s.now * 32_768 / 25_000_000 - s.power.aTpf) * 1_000_000 / 32_768))) ∧
    (s.power.mtTpf = none → startMt s = (if s.power.firstPower then 0 else s.power.mtLast + 1))) ∧
  (∀ s st, (fmtChanged s = true → startKind s st = .cold true) ∧ (fmtChanged s = false →
    (∀ c, Table.get none s.progs.override st = some c → startKind s st = (if c then .cold false else .warm)) ∧
    (Table.get none s.progs.override st = none → startKind s st =
      (if (stgCfg s st).c0.getLsbD 30 then .cold false else .warm)))) ∧
  (∀ s, ∃ u, startSlate s = halfStartPhase u ∧ u.slate.started = true ∧ u.slate.halfcnt = 0 ∧ u.slate.halfStart = s.now ∧
    u.slate.mode = (if s.slate.freeC then .free else .nominal) ∧ u.slate.lockLoss = 0 ∧ u.slate.implaus = 0 ∧
    u.slate.mainsPer = 0 ∧ u.slate.run8 = 0 ∧ u.power.mtBase = startMt s ∧ u.power.mtAt = s.now ∧ u.points = s.points) ∧
  (∀ s, (s.power.aux = false → exec .auxOverload s = .next s) ∧
    (s.power.aux = true → ∃ t, exec .auxOverload s = .next t ∧
      t.power = { s.power with aux := false, auxOffAt := some s.now, auxFault := true } ∧ t.points = s.points ∧
      (s.power.auxFault = true → t = { s with power := t.power })) ∧
    (s.power.auxOffAt = none → ∀ ovr, exec (.auxRetry ovr) s = .next s)) ∧
  (∀ s t0, s.power.auxOffAt = some t0 → (s.now < t0 + 2_500_000 → ∀ ovr, exec (.auxRetry ovr) s = .next s) ∧
    (t0 + 2_500_000 ≤ s.now →
      exec (.auxRetry true) s = .next { s with power := { s.power with auxOffAt := some s.now } } ∧
      exec (.auxRetry false) s =
        .next { s with power := { s.power with aux := true, auxOffAt := none, auxFault := false } }))

/-- REGISTER_WRITE and PIN_UPDATE complete in every running state, and have no effect in any other. TIMECFG and the alarm words
take the fields that can be written, LOST is cleared by a write of 1, RO and RC fields ignore it; a register that is written only
through a transaction takes the write as an entry of the open transaction of the stage it belongs to, and nothing in force changes
before that transaction's boundary; without one the write reaches nothing (R7, R32, R175, R252, R282, R300, R349, R351, R381,
R384). The measured input power is a register of its own (R15 lists it as P 0x0081). That a write of such a register joins the
transaction as an entry is read from R7 and R32 (log 53). -/
def Obligations.RegisterRows : Prop :=
  (∀ r v s, ¬ Running s → exec (.registerWrite r v) s = .next s) ∧
  (∀ mw s, ¬ Running s → exec (.pinUpdate mw) s = .next s) ∧
  (∀ v mw s, Running s →
    exec (.pinUpdate mw) s = .next { s with power := { s.power with pin := mw } } ∧
    (∀ w : Word, w = v.setWidth 32 &&& 0x00FF_FF07 →
      (w &&& 0x00FF_0000 = 0 ∨ (w.getLsbD 0 = true ∧ ptpEn s = false) → exec (.registerWrite .timecfg v) s = .next s) ∧
      (w &&& 0x00FF_0000 ≠ 0 → w.getLsbD 0 = false ∨ ptpEn s = true → ∃ t, exec (.registerWrite .timecfg v) s = .next t ∧
        t = { s with rtc := t.rtc } ∧ t.rtc.timecfg = w ∧ t.rtc.master = s.rtc.master ∧
        (w.getLsbD 0 = true → t.rtc.ptpLocked = s.rtc.ptpLocked ∧ t.rtc.ptpStep = s.rtc.ptpStep) ∧
        (w.getLsbD 0 = false → t.rtc.ptpLocked = false ∧ t.rtc.ptpStep = none))) ∧
    (∀ a, exec (.registerWrite (.almcfg a 0) v) s = .next (putAlarm a { alarmOf s a with w0 := v.setWidth 32 } s) ∧
      exec (.registerWrite (.almcfg a 1) v) s = .next (putAlarm a { alarmOf s a with w1 := v.setWidth 32 } s) ∧
      (((v.getLsbD 15 = false ∨ (alarmOf s a).en = true) → exec (.registerWrite (.almcfg a 2) v) s =
          .next (putAlarm a { alarmOf s a with w2 := v.setWidth 32 &&& 0xFFFF_F07F } s)) ∧
        (v.getLsbD 15 = true → (alarmOf s a).en = false → exec (.registerWrite (.almcfg a 2) v) s =
          .next (putAlarm a { alarmOf s a with w2 := v.setWidth 32 &&& 0xFFFF_F07F, fired := 0, late := false, rpt := false } s)))) ∧
    (∀ m i, exec (.registerWrite (.maccount m i) v) s = .next s ∧ exec (.registerWrite (.cannd m i) v) s = .next s) ∧
    (∀ c b, exec (.registerWrite (.canlost c b) v) s = exec (.lostClear c b (v.getLsbD 0)) s) ∧
    (∀ r x e, regEntry s x r v = some e →
      (txOf s (regStage s r) = none → exec (.registerWrite r v) s = .next s) ∧
      (txOf s (regStage s r) = some x → stageStatus s (regStage s r) e ≠ stOk → exec (.registerWrite r v) s = .next s) ∧
      (txOf s (regStage s r) = some x → stageStatus s (regStage s r) e = stOk → (∀ y ∈ x.entries, sameTarget e y = false) →
        rushFits s (regStage s r) (stageRush s (regStage s r) + (entryBytes e).length) = true → ∃ t,
        exec (.registerWrite r v) s = .next t ∧ t = { s with host := t.host } ∧ t.host.commits = s.host.commits ∧
        txOf t (regStage s r) = some { x with entries := x.entries ++ [e], sigs := [], svcFree := false } ∧
        ∀ m, m ≠ regStage s r → txOf t m = txOf s m)) ∧
    (∀ x n, regEntry s x (.dicfg n) v = some (.liocfg [(.dicfg n, v.setWidth 32)]) ∧ regStage s (.dicfg n) = lioOwner s ∧
      regEntry s x (.enccfg n) v = some (.liocfg [(.enccfg n, v.setWidth 32)]) ∧ regStage s (.enccfg n) = 0 ∧
      regEntry s x (.maccfg n) v = some (.netcfg [(.maccfg n, v)] [] []) ∧ regStage s (.maccfg n) = 0 ∧
      regEntry s x (.cannbt n) v = some (.cancfg n [(.cannbt n, v.setWidth 32)] [] []) ∧ regStage s (.cannbt n) = 0 ∧
      regEntry s x .mslgen v = some (.mslgen (v.setWidth 32)) ∧ regStage s .mslgen = 0 ∧
      (x.entries = [] → regEntry s x .slatecfg v = some (.slate (v.setWidth 32) ((List.range 4).map (classWord s))) ∧
        regEntry s x (.keypol 0) v = some (.keypol (v.setWidth 32) 0) ∧
        regEntry s x (.secpol 0) v = some (.secpol (v.setWidth 32) s.keys.sec1)) ∧ regStage s .slatecfg = 0))
end

