-- ==== Sys2Proof/Laws/Table.lean ====
section
/-! SUPPORT. The laws of the sparse tables by which the state holds every numbered collection: a read after a
write, the canonical form, and that a canonical table is determined by what it reads as. -/

namespace Sys2Proof.Machine
open Sys2Proof

@[simp] theorem Table.get_nil {α : Type} (d : α) (a : Nat) : Table.get d [] a = d := rfl

theorem Table.get_cons {α : Type} (d : α) (k : Nat) (v : α) (t : Table α) (a : Nat) :
    Table.get d ((k, v) :: t) a = if k = a then v else Table.get d t a := rfl

variable {α : Type} [DecidableEq α] {d : α}

/-- Below its first key a canonical table reads as the default. -/
theorem Table.get_of_wfFrom {t : Table α} : ∀ {lo a : Nat}, Table.wfFrom d lo t = true → a < lo →
    Table.get d t a = d := by
  induction t with
  | nil => intros; rfl
  | cons e t ih =>
    obtain ⟨k, v⟩ := e
    intro lo a h ha
    simp only [Table.wfFrom, Bool.and_eq_true, decide_eq_true_eq] at h
    rw [Table.get_cons, if_neg (by omega)]
    exact ih h.2 (by omega)

theorem Table.wfFrom_mono {t : Table α} {lo lo' : Nat} (h : Table.wfFrom d lo t = true) (hl : lo' ≤ lo) :
    Table.wfFrom d lo' t = true := by
  cases t with
  | nil => rfl
  | cons e t =>
    obtain ⟨k, v⟩ := e
    simp only [Table.wfFrom, Bool.and_eq_true, decide_eq_true_eq, Bool.not_eq_true'] at h ⊢
    exact ⟨⟨by omega, h.1.2⟩, h.2⟩

/-- A write keeps the canonical form from any bound at or below the key. -/
theorem Table.wfFrom_set {t : Table α} : ∀ {lo a : Nat} {v : α}, Table.wfFrom d lo t = true → lo ≤ a →
    Table.wfFrom d lo (Table.set d t a v) = true := by
  induction t with
  | nil =>
    intro lo a v _ ha
    unfold Table.set
    split
    · rfl
    · simp_all [Table.wfFrom]
  | cons e t ih =>
    obtain ⟨k, w⟩ := e
    intro lo a v h ha
    have h' := h
    simp only [Table.wfFrom, Bool.and_eq_true, decide_eq_true_eq, Bool.not_eq_true', decide_eq_false_iff_not] at h
    unfold Table.set
    split
    · split
      · exact h'
      · simp only [Table.wfFrom, Bool.and_eq_true, decide_eq_true_eq, Bool.not_eq_true', decide_eq_false_iff_not]
        exact ⟨⟨ha, by assumption⟩, ⟨by omega, h.1.2⟩, h.2⟩
    · split
      · split
        · exact Table.wfFrom_mono h.2 (by omega)
        · subst_vars
          simp_all [Table.wfFrom]
      · simp only [Table.wfFrom, Bool.and_eq_true, decide_eq_true_eq, Bool.not_eq_true', decide_eq_false_iff_not]
        exact ⟨h.1, ih h.2 (by omega)⟩

/-- A write keeps the canonical form. -/
theorem Table.wf_set {t : Table α} {a : Nat} {v : α} (h : Table.wf d t = true) :
    Table.wf d (Table.set d t a v) = true := Table.wfFrom_set h (Nat.zero_le a)

/-- A part of a canonical table is canonical. -/
theorem Table.wfFrom_filter {t : Table α} (f : Nat × α → Bool) : ∀ {lo : Nat}, Table.wfFrom d lo t = true →
    Table.wfFrom d lo (t.filter f) = true := by
  induction t with
  | nil => intros; rfl
  | cons e t ih =>
    obtain ⟨k, v⟩ := e
    intro lo h
    have h' := h
    simp only [Table.wfFrom, Bool.and_eq_true, decide_eq_true_eq] at h
    rw [List.filter_cons]
    split
    · simp only [Table.wfFrom, Bool.and_eq_true, decide_eq_true_eq]
      exact ⟨h.1, ih h.2⟩
    · exact Table.wfFrom_mono (ih h.2) (by omega)

theorem Table.wf_filter {t : Table α} (f : Nat × α → Bool) (h : Table.wf d t = true) :
    Table.wf d (t.filter f) = true := Table.wfFrom_filter f h

@[simp] theorem Table.wf_nil : Table.wf d ([] : Table α) = true := rfl

/-- A read at another key is as before, whatever the form of the table. -/
theorem Table.get_set_ne {t : Table α} {a b : Nat} {v : α} (hb : b ≠ a) :
    Table.get d (Table.set d t a v) b = Table.get d t b := by
  induction t with
  | nil =>
    unfold Table.set
    split
    · rfl
    · rw [Table.get_cons, if_neg (by omega)]
  | cons e t ih =>
    obtain ⟨k, w⟩ := e
    unfold Table.set
    split
    · split
      · rfl
      · rw [Table.get_cons, if_neg (by omega)]
    · split
      · subst_vars
        split
        · rw [Table.get_cons, if_neg (by omega)]
        · rw [Table.get_cons, Table.get_cons, if_neg (by omega), if_neg (by omega)]
      · rw [Table.get_cons, Table.get_cons, ih]

/-- A read at the key of a write gives the value written. -/
theorem Table.get_set_same {t : Table α} : ∀ {lo a : Nat} {v : α}, Table.wfFrom d lo t = true →
    Table.get d (Table.set d t a v) a = v := by
  induction t with
  | nil =>
    intro lo a v _
    unfold Table.set
    split
    · simp_all
    · rw [Table.get_cons, if_pos rfl]
  | cons e t ih =>
    obtain ⟨k, w⟩ := e
    intro lo a v h
    have h' := h
    simp only [Table.wfFrom, Bool.and_eq_true, decide_eq_true_eq] at h
    unfold Table.set
    split
    · split
      · rw [Table.get_cons, if_neg (by omega)]
        subst_vars
        exact Table.get_of_wfFrom h.2 (by omega)
      · rw [Table.get_cons, if_pos rfl]
    · split
      · split
        · subst_vars
          exact Table.get_of_wfFrom h.2 (by omega)
        · rw [Table.get_cons, if_pos rfl]
      · rw [Table.get_cons, if_neg (by omega)]
        exact ih h.2

/-- A read at the key of a write of a listed value gives that value, whatever the form of the table. -/
theorem Table.get_set_listed {t : Table α} {a : Nat} {v : α} (hv : v ≠ d) :
    Table.get d (Table.set d t a v) a = v := by
  induction t with
  | nil => simp [Table.set, hv, Table.get_cons]
  | cons e t ih =>
    obtain ⟨k, w⟩ := e
    unfold Table.set
    split
    · simp [Table.get_cons]
    · split
      · simp [Table.get_cons]
      · rw [Table.get_cons, if_neg (by omega)]
        exact ih

/-- A read after a write, on a canonical table. -/
theorem Table.get_set {t : Table α} {a b : Nat} {v : α} (h : Table.wf d t = true) :
    Table.get d (Table.set d t a v) b = if b = a then v else Table.get d t b := by
  split
  · subst_vars; exact Table.get_set_same h
  · exact Table.get_set_ne ‹_›

end Sys2Proof.Machine
end

