-- ==== Sys2Proof/Laws/State.lean ====
section
/-! SUPPORT. The laws of the state's named updates: for each update and each field that it leaves, one lemma true
by definition; and for each numbered collection, a read after a write. -/

namespace Sys2Proof.Machine
open Sys2Proof

variable (s : State)

/-! ### putPoint -/

@[simp] theorem putPoint_pending (pt : Nat) (v : PV) : (putPoint pt v s).pending = s.pending := rfl
@[simp] theorem putPoint_now (pt : Nat) (v : PV) : (putPoint pt v s).now = s.now := rfl
@[simp] theorem putPoint_freeCtr (pt : Nat) (v : PV) : (putPoint pt v s).freeCtr = s.freeCtr := rfl
@[simp] theorem putPoint_arrSeq (pt : Nat) (v : PV) : (putPoint pt v s).arrSeq = s.arrSeq := rfl
@[simp] theorem putPoint_variant (pt : Nat) (v : PV) : (putPoint pt v s).variant = s.variant := rfl
@[simp] theorem putPoint_out (pt : Nat) (v : PV) : (putPoint pt v s).out = s.out := rfl
@[simp] theorem putPoint_slate (pt : Nat) (v : PV) : (putPoint pt v s).slate = s.slate := rfl
@[simp] theorem putPoint_takes (pt : Nat) (v : PV) : (putPoint pt v s).takes = s.takes := rfl
@[simp] theorem putPoint_eng (pt : Nat) (v : PV) : (putPoint pt v s).eng = s.eng := rfl
@[simp] theorem putPoint_progs (pt : Nat) (v : PV) : (putPoint pt v s).progs = s.progs := rfl
@[simp] theorem putPoint_loops (pt : Nat) (v : PV) : (putPoint pt v s).loops = s.loops := rfl
@[simp] theorem putPoint_bar (pt : Nat) (v : PV) : (putPoint pt v s).bar = s.bar := rfl
@[simp] theorem putPoint_field (pt : Nat) (v : PV) : (putPoint pt v s).field = s.field := rfl
@[simp] theorem putPoint_saf (pt : Nat) (v : PV) : (putPoint pt v s).saf = s.saf := rfl
@[simp] theorem putPoint_msl (pt : Nat) (v : PV) : (putPoint pt v s).msl = s.msl := rfl
@[simp] theorem putPoint_eth (pt : Nat) (v : PV) : (putPoint pt v s).eth = s.eth := rfl
@[simp] theorem putPoint_can (pt : Nat) (v : PV) : (putPoint pt v s).can = s.can := rfl
@[simp] theorem putPoint_host (pt : Nat) (v : PV) : (putPoint pt v s).host = s.host := rfl
@[simp] theorem putPoint_rtc (pt : Nat) (v : PV) : (putPoint pt v s).rtc = s.rtc := rfl
@[simp] theorem putPoint_log (pt : Nat) (v : PV) : (putPoint pt v s).log = s.log := rfl
@[simp] theorem putPoint_keys (pt : Nat) (v : PV) : (putPoint pt v s).keys = s.keys := rfl
@[simp] theorem putPoint_upd (pt : Nat) (v : PV) : (putPoint pt v s).upd = s.upd := rfl
@[simp] theorem putPoint_integ (pt : Nat) (v : PV) : (putPoint pt v s).integ = s.integ := rfl
@[simp] theorem putPoint_power (pt : Nat) (v : PV) : (putPoint pt v s).power = s.power := rfl
@[simp] theorem putPoint_points_retained (pt : Nat) (v : PV) : (putPoint pt v s).points.retained = s.points.retained := rfl
@[simp] theorem putPoint_points_tags (pt : Nat) (v : PV) : (putPoint pt v s).points.tags = s.points.tags := rfl
@[simp] theorem putPoint_points_frz (pt : Nat) (v : PV) : (putPoint pt v s).points.frz = s.points.frz := rfl
@[simp] theorem putPoint_points_uecc (pt : Nat) (v : PV) : (putPoint pt v s).points.uecc = s.points.uecc := rfl

/-! ### putTake -/

@[simp] theorem putTake_pending (k : Nat) (t : ClassTake) : (putTake k t s).pending = s.pending := rfl
@[simp] theorem putTake_now (k : Nat) (t : ClassTake) : (putTake k t s).now = s.now := rfl
@[simp] theorem putTake_freeCtr (k : Nat) (t : ClassTake) : (putTake k t s).freeCtr = s.freeCtr := rfl
@[simp] theorem putTake_arrSeq (k : Nat) (t : ClassTake) : (putTake k t s).arrSeq = s.arrSeq := rfl
@[simp] theorem putTake_variant (k : Nat) (t : ClassTake) : (putTake k t s).variant = s.variant := rfl
@[simp] theorem putTake_out (k : Nat) (t : ClassTake) : (putTake k t s).out = s.out := rfl
@[simp] theorem putTake_points (k : Nat) (t : ClassTake) : (putTake k t s).points = s.points := rfl
@[simp] theorem putTake_slate (k : Nat) (t : ClassTake) : (putTake k t s).slate = s.slate := rfl
@[simp] theorem putTake_eng (k : Nat) (t : ClassTake) : (putTake k t s).eng = s.eng := rfl
@[simp] theorem putTake_progs (k : Nat) (t : ClassTake) : (putTake k t s).progs = s.progs := rfl
@[simp] theorem putTake_loops (k : Nat) (t : ClassTake) : (putTake k t s).loops = s.loops := rfl
@[simp] theorem putTake_bar (k : Nat) (t : ClassTake) : (putTake k t s).bar = s.bar := rfl
@[simp] theorem putTake_field (k : Nat) (t : ClassTake) : (putTake k t s).field = s.field := rfl
@[simp] theorem putTake_saf (k : Nat) (t : ClassTake) : (putTake k t s).saf = s.saf := rfl
@[simp] theorem putTake_msl (k : Nat) (t : ClassTake) : (putTake k t s).msl = s.msl := rfl
@[simp] theorem putTake_eth (k : Nat) (t : ClassTake) : (putTake k t s).eth = s.eth := rfl
@[simp] theorem putTake_can (k : Nat) (t : ClassTake) : (putTake k t s).can = s.can := rfl
@[simp] theorem putTake_host (k : Nat) (t : ClassTake) : (putTake k t s).host = s.host := rfl
@[simp] theorem putTake_rtc (k : Nat) (t : ClassTake) : (putTake k t s).rtc = s.rtc := rfl
@[simp] theorem putTake_log (k : Nat) (t : ClassTake) : (putTake k t s).log = s.log := rfl
@[simp] theorem putTake_keys (k : Nat) (t : ClassTake) : (putTake k t s).keys = s.keys := rfl
@[simp] theorem putTake_upd (k : Nat) (t : ClassTake) : (putTake k t s).upd = s.upd := rfl
@[simp] theorem putTake_integ (k : Nat) (t : ClassTake) : (putTake k t s).integ = s.integ := rfl
@[simp] theorem putTake_power (k : Nat) (t : ClassTake) : (putTake k t s).power = s.power := rfl

/-! ### putStg -/

@[simp] theorem putStg_pending (st : Nat) (r : StageRt) : (putStg st r s).pending = s.pending := rfl
@[simp] theorem putStg_now (st : Nat) (r : StageRt) : (putStg st r s).now = s.now := rfl
@[simp] theorem putStg_freeCtr (st : Nat) (r : StageRt) : (putStg st r s).freeCtr = s.freeCtr := rfl
@[simp] theorem putStg_arrSeq (st : Nat) (r : StageRt) : (putStg st r s).arrSeq = s.arrSeq := rfl
@[simp] theorem putStg_variant (st : Nat) (r : StageRt) : (putStg st r s).variant = s.variant := rfl
@[simp] theorem putStg_out (st : Nat) (r : StageRt) : (putStg st r s).out = s.out := rfl
@[simp] theorem putStg_points (st : Nat) (r : StageRt) : (putStg st r s).points = s.points := rfl
@[simp] theorem putStg_slate (st : Nat) (r : StageRt) : (putStg st r s).slate = s.slate := rfl
@[simp] theorem putStg_takes (st : Nat) (r : StageRt) : (putStg st r s).takes = s.takes := rfl
@[simp] theorem putStg_eng (st : Nat) (r : StageRt) : (putStg st r s).eng = s.eng := rfl
@[simp] theorem putStg_loops (st : Nat) (r : StageRt) : (putStg st r s).loops = s.loops := rfl
@[simp] theorem putStg_bar (st : Nat) (r : StageRt) : (putStg st r s).bar = s.bar := rfl
@[simp] theorem putStg_field (st : Nat) (r : StageRt) : (putStg st r s).field = s.field := rfl
@[simp] theorem putStg_saf (st : Nat) (r : StageRt) : (putStg st r s).saf = s.saf := rfl
@[simp] theorem putStg_msl (st : Nat) (r : StageRt) : (putStg st r s).msl = s.msl := rfl
@[simp] theorem putStg_eth (st : Nat) (r : StageRt) : (putStg st r s).eth = s.eth := rfl
@[simp] theorem putStg_can (st : Nat) (r : StageRt) : (putStg st r s).can = s.can := rfl
@[simp] theorem putStg_host (st : Nat) (r : StageRt) : (putStg st r s).host = s.host := rfl
@[simp] theorem putStg_rtc (st : Nat) (r : StageRt) : (putStg st r s).rtc = s.rtc := rfl
@[simp] theorem putStg_log (st : Nat) (r : StageRt) : (putStg st r s).log = s.log := rfl
@[simp] theorem putStg_keys (st : Nat) (r : StageRt) : (putStg st r s).keys = s.keys := rfl
@[simp] theorem putStg_upd (st : Nat) (r : StageRt) : (putStg st r s).upd = s.upd := rfl
@[simp] theorem putStg_integ (st : Nat) (r : StageRt) : (putStg st r s).integ = s.integ := rfl
@[simp] theorem putStg_power (st : Nat) (r : StageRt) : (putStg st r s).power = s.power := rfl
@[simp] theorem putStg_progs_prog (st : Nat) (r : StageRt) : (putStg st r s).progs.prog = s.progs.prog := rfl
@[simp] theorem putStg_progs_lib (st : Nat) (r : StageRt) : (putStg st r s).progs.lib = s.progs.lib := rfl
@[simp] theorem putStg_progs_ops (st : Nat) (r : StageRt) : (putStg st r s).progs.ops = s.progs.ops := rfl
@[simp] theorem putStg_progs_override (st : Nat) (r : StageRt) : (putStg st r s).progs.override = s.progs.override := rfl
@[simp] theorem putStg_progs_place (st : Nat) (r : StageRt) : (putStg st r s).progs.place = s.progs.place := rfl

/-! ### putLoop -/

@[simp] theorem putLoop_pending (n : Nat) (r : LoopRt) : (putLoop n r s).pending = s.pending := rfl
@[simp] theorem putLoop_now (n : Nat) (r : LoopRt) : (putLoop n r s).now = s.now := rfl
@[simp] theorem putLoop_freeCtr (n : Nat) (r : LoopRt) : (putLoop n r s).freeCtr = s.freeCtr := rfl
@[simp] theorem putLoop_arrSeq (n : Nat) (r : LoopRt) : (putLoop n r s).arrSeq = s.arrSeq := rfl
@[simp] theorem putLoop_variant (n : Nat) (r : LoopRt) : (putLoop n r s).variant = s.variant := rfl
@[simp] theorem putLoop_out (n : Nat) (r : LoopRt) : (putLoop n r s).out = s.out := rfl
@[simp] theorem putLoop_points (n : Nat) (r : LoopRt) : (putLoop n r s).points = s.points := rfl
@[simp] theorem putLoop_slate (n : Nat) (r : LoopRt) : (putLoop n r s).slate = s.slate := rfl
@[simp] theorem putLoop_takes (n : Nat) (r : LoopRt) : (putLoop n r s).takes = s.takes := rfl
@[simp] theorem putLoop_eng (n : Nat) (r : LoopRt) : (putLoop n r s).eng = s.eng := rfl
@[simp] theorem putLoop_progs (n : Nat) (r : LoopRt) : (putLoop n r s).progs = s.progs := rfl
@[simp] theorem putLoop_bar (n : Nat) (r : LoopRt) : (putLoop n r s).bar = s.bar := rfl
@[simp] theorem putLoop_field (n : Nat) (r : LoopRt) : (putLoop n r s).field = s.field := rfl
@[simp] theorem putLoop_saf (n : Nat) (r : LoopRt) : (putLoop n r s).saf = s.saf := rfl
@[simp] theorem putLoop_msl (n : Nat) (r : LoopRt) : (putLoop n r s).msl = s.msl := rfl
@[simp] theorem putLoop_eth (n : Nat) (r : LoopRt) : (putLoop n r s).eth = s.eth := rfl
@[simp] theorem putLoop_can (n : Nat) (r : LoopRt) : (putLoop n r s).can = s.can := rfl
@[simp] theorem putLoop_host (n : Nat) (r : LoopRt) : (putLoop n r s).host = s.host := rfl
@[simp] theorem putLoop_rtc (n : Nat) (r : LoopRt) : (putLoop n r s).rtc = s.rtc := rfl
@[simp] theorem putLoop_log (n : Nat) (r : LoopRt) : (putLoop n r s).log = s.log := rfl
@[simp] theorem putLoop_keys (n : Nat) (r : LoopRt) : (putLoop n r s).keys = s.keys := rfl
@[simp] theorem putLoop_upd (n : Nat) (r : LoopRt) : (putLoop n r s).upd = s.upd := rfl
@[simp] theorem putLoop_integ (n : Nat) (r : LoopRt) : (putLoop n r s).integ = s.integ := rfl
@[simp] theorem putLoop_power (n : Nat) (r : LoopRt) : (putLoop n r s).power = s.power := rfl
@[simp] theorem putLoop_loops_desc (n : Nat) (r : LoopRt) : (putLoop n r s).loops.desc = s.loops.desc := rfl
@[simp] theorem putLoop_loops_due (n : Nat) (r : LoopRt) : (putLoop n r s).loops.due = s.loops.due := rfl
@[simp] theorem putLoop_loops_inService (n : Nat) (r : LoopRt) : (putLoop n r s).loops.inService = s.loops.inService := rfl
@[simp] theorem putLoop_loops_katDue (n : Nat) (r : LoopRt) : (putLoop n r s).loops.katDue = s.loops.katDue := rfl
@[simp] theorem putLoop_loops_ddAt (n : Nat) (r : LoopRt) : (putLoop n r s).loops.ddAt = s.loops.ddAt := rfl
@[simp] theorem putLoop_loops_open_ (n : Nat) (r : LoopRt) : (putLoop n r s).loops.open_ = s.loops.open_ := rfl

/-! ### putRun -/

@[simp] theorem putRun_pending (p : Nat) (r : SecRun) : (putRun p r s).pending = s.pending := rfl
@[simp] theorem putRun_now (p : Nat) (r : SecRun) : (putRun p r s).now = s.now := rfl
@[simp] theorem putRun_freeCtr (p : Nat) (r : SecRun) : (putRun p r s).freeCtr = s.freeCtr := rfl
@[simp] theorem putRun_arrSeq (p : Nat) (r : SecRun) : (putRun p r s).arrSeq = s.arrSeq := rfl
@[simp] theorem putRun_variant (p : Nat) (r : SecRun) : (putRun p r s).variant = s.variant := rfl
@[simp] theorem putRun_out (p : Nat) (r : SecRun) : (putRun p r s).out = s.out := rfl
@[simp] theorem putRun_points (p : Nat) (r : SecRun) : (putRun p r s).points = s.points := rfl
@[simp] theorem putRun_slate (p : Nat) (r : SecRun) : (putRun p r s).slate = s.slate := rfl
@[simp] theorem putRun_takes (p : Nat) (r : SecRun) : (putRun p r s).takes = s.takes := rfl
@[simp] theorem putRun_progs (p : Nat) (r : SecRun) : (putRun p r s).progs = s.progs := rfl
@[simp] theorem putRun_loops (p : Nat) (r : SecRun) : (putRun p r s).loops = s.loops := rfl
@[simp] theorem putRun_bar (p : Nat) (r : SecRun) : (putRun p r s).bar = s.bar := rfl
@[simp] theorem putRun_field (p : Nat) (r : SecRun) : (putRun p r s).field = s.field := rfl
@[simp] theorem putRun_saf (p : Nat) (r : SecRun) : (putRun p r s).saf = s.saf := rfl
@[simp] theorem putRun_msl (p : Nat) (r : SecRun) : (putRun p r s).msl = s.msl := rfl
@[simp] theorem putRun_eth (p : Nat) (r : SecRun) : (putRun p r s).eth = s.eth := rfl
@[simp] theorem putRun_can (p : Nat) (r : SecRun) : (putRun p r s).can = s.can := rfl
@[simp] theorem putRun_host (p : Nat) (r : SecRun) : (putRun p r s).host = s.host := rfl
@[simp] theorem putRun_rtc (p : Nat) (r : SecRun) : (putRun p r s).rtc = s.rtc := rfl
@[simp] theorem putRun_log (p : Nat) (r : SecRun) : (putRun p r s).log = s.log := rfl
@[simp] theorem putRun_keys (p : Nat) (r : SecRun) : (putRun p r s).keys = s.keys := rfl
@[simp] theorem putRun_upd (p : Nat) (r : SecRun) : (putRun p r s).upd = s.upd := rfl
@[simp] theorem putRun_integ (p : Nat) (r : SecRun) : (putRun p r s).integ = s.integ := rfl
@[simp] theorem putRun_power (p : Nat) (r : SecRun) : (putRun p r s).power = s.power := rfl
@[simp] theorem putRun_eng_inService (p : Nat) (r : SecRun) : (putRun p r s).eng.inService = s.eng.inService := rfl
@[simp] theorem putRun_eng_retired (p : Nat) (r : SecRun) : (putRun p r s).eng.retired = s.eng.retired := rfl
@[simp] theorem putRun_eng_scene (p : Nat) (r : SecRun) : (putRun p r s).eng.scene = s.eng.scene := rfl
@[simp] theorem putRun_eng_slots (p : Nat) (r : SecRun) : (putRun p r s).eng.slots = s.eng.slots := rfl
@[simp] theorem putRun_eng_waiting (p : Nat) (r : SecRun) : (putRun p r s).eng.waiting = s.eng.waiting := rfl
@[simp] theorem putRun_eng_recovered (p : Nat) (r : SecRun) : (putRun p r s).eng.recovered = s.eng.recovered := rfl
@[simp] theorem putRun_eng_flt (p : Nat) (r : SecRun) : (putRun p r s).eng.flt = s.eng.flt := rfl
@[simp] theorem putRun_eng_timers (p : Nat) (r : SecRun) : (putRun p r s).eng.timers = s.eng.timers := rfl
@[simp] theorem putRun_eng_counters (p : Nat) (r : SecRun) : (putRun p r s).eng.counters = s.eng.counters := rfl
@[simp] theorem putRun_eng_codeUecc (p : Nat) (r : SecRun) : (putRun p r s).eng.codeUecc = s.eng.codeUecc := rfl

/-! ### putFlt -/

@[simp] theorem putFlt_pending (st n : Nat) (f : FaultRec) : (putFlt st n f s).pending = s.pending := rfl
@[simp] theorem putFlt_now (st n : Nat) (f : FaultRec) : (putFlt st n f s).now = s.now := rfl
@[simp] theorem putFlt_freeCtr (st n : Nat) (f : FaultRec) : (putFlt st n f s).freeCtr = s.freeCtr := rfl
@[simp] theorem putFlt_arrSeq (st n : Nat) (f : FaultRec) : (putFlt st n f s).arrSeq = s.arrSeq := rfl
@[simp] theorem putFlt_variant (st n : Nat) (f : FaultRec) : (putFlt st n f s).variant = s.variant := rfl
@[simp] theorem putFlt_out (st n : Nat) (f : FaultRec) : (putFlt st n f s).out = s.out := rfl
@[simp] theorem putFlt_points (st n : Nat) (f : FaultRec) : (putFlt st n f s).points = s.points := rfl
@[simp] theorem putFlt_slate (st n : Nat) (f : FaultRec) : (putFlt st n f s).slate = s.slate := rfl
@[simp] theorem putFlt_takes (st n : Nat) (f : FaultRec) : (putFlt st n f s).takes = s.takes := rfl
@[simp] theorem putFlt_progs (st n : Nat) (f : FaultRec) : (putFlt st n f s).progs = s.progs := rfl
@[simp] theorem putFlt_loops (st n : Nat) (f : FaultRec) : (putFlt st n f s).loops = s.loops := rfl
@[simp] theorem putFlt_bar (st n : Nat) (f : FaultRec) : (putFlt st n f s).bar = s.bar := rfl
@[simp] theorem putFlt_field (st n : Nat) (f : FaultRec) : (putFlt st n f s).field = s.field := rfl
@[simp] theorem putFlt_saf (st n : Nat) (f : FaultRec) : (putFlt st n f s).saf = s.saf := rfl
@[simp] theorem putFlt_msl (st n : Nat) (f : FaultRec) : (putFlt st n f s).msl = s.msl := rfl
@[simp] theorem putFlt_eth (st n : Nat) (f : FaultRec) : (putFlt st n f s).eth = s.eth := rfl
@[simp] theorem putFlt_can (st n : Nat) (f : FaultRec) : (putFlt st n f s).can = s.can := rfl
@[simp] theorem putFlt_host (st n : Nat) (f : FaultRec) : (putFlt st n f s).host = s.host := rfl
@[simp] theorem putFlt_rtc (st n : Nat) (f : FaultRec) : (putFlt st n f s).rtc = s.rtc := rfl
@[simp] theorem putFlt_log (st n : Nat) (f : FaultRec) : (putFlt st n f s).log = s.log := rfl
@[simp] theorem putFlt_keys (st n : Nat) (f : FaultRec) : (putFlt st n f s).keys = s.keys := rfl
@[simp] theorem putFlt_upd (st n : Nat) (f : FaultRec) : (putFlt st n f s).upd = s.upd := rfl
@[simp] theorem putFlt_integ (st n : Nat) (f : FaultRec) : (putFlt st n f s).integ = s.integ := rfl
@[simp] theorem putFlt_power (st n : Nat) (f : FaultRec) : (putFlt st n f s).power = s.power := rfl
@[simp] theorem putFlt_eng_run (st n : Nat) (f : FaultRec) : (putFlt st n f s).eng.run = s.eng.run := rfl
@[simp] theorem putFlt_eng_inService (st n : Nat) (f : FaultRec) : (putFlt st n f s).eng.inService = s.eng.inService := rfl
@[simp] theorem putFlt_eng_retired (st n : Nat) (f : FaultRec) : (putFlt st n f s).eng.retired = s.eng.retired := rfl
@[simp] theorem putFlt_eng_scene (st n : Nat) (f : FaultRec) : (putFlt st n f s).eng.scene = s.eng.scene := rfl
@[simp] theorem putFlt_eng_slots (st n : Nat) (f : FaultRec) : (putFlt st n f s).eng.slots = s.eng.slots := rfl
@[simp] theorem putFlt_eng_waiting (st n : Nat) (f : FaultRec) : (putFlt st n f s).eng.waiting = s.eng.waiting := rfl
@[simp] theorem putFlt_eng_recovered (st n : Nat) (f : FaultRec) : (putFlt st n f s).eng.recovered = s.eng.recovered := rfl
@[simp] theorem putFlt_eng_timers (st n : Nat) (f : FaultRec) : (putFlt st n f s).eng.timers = s.eng.timers := rfl
@[simp] theorem putFlt_eng_counters (st n : Nat) (f : FaultRec) : (putFlt st n f s).eng.counters = s.eng.counters := rfl
@[simp] theorem putFlt_eng_codeUecc (st n : Nat) (f : FaultRec) : (putFlt st n f s).eng.codeUecc = s.eng.codeUecc := rfl

/-! ### draw -/

@[simp] theorem draw_pending  : (draw s).2.pending = s.pending := rfl
@[simp] theorem draw_now  : (draw s).2.now = s.now := rfl
@[simp] theorem draw_arrSeq  : (draw s).2.arrSeq = s.arrSeq := rfl
@[simp] theorem draw_variant  : (draw s).2.variant = s.variant := rfl
@[simp] theorem draw_out  : (draw s).2.out = s.out := rfl
@[simp] theorem draw_points  : (draw s).2.points = s.points := rfl
@[simp] theorem draw_slate  : (draw s).2.slate = s.slate := rfl
@[simp] theorem draw_takes  : (draw s).2.takes = s.takes := rfl
@[simp] theorem draw_eng  : (draw s).2.eng = s.eng := rfl
@[simp] theorem draw_progs  : (draw s).2.progs = s.progs := rfl
@[simp] theorem draw_loops  : (draw s).2.loops = s.loops := rfl
@[simp] theorem draw_bar  : (draw s).2.bar = s.bar := rfl
@[simp] theorem draw_field  : (draw s).2.field = s.field := rfl
@[simp] theorem draw_saf  : (draw s).2.saf = s.saf := rfl
@[simp] theorem draw_msl  : (draw s).2.msl = s.msl := rfl
@[simp] theorem draw_eth  : (draw s).2.eth = s.eth := rfl
@[simp] theorem draw_can  : (draw s).2.can = s.can := rfl
@[simp] theorem draw_host  : (draw s).2.host = s.host := rfl
@[simp] theorem draw_rtc  : (draw s).2.rtc = s.rtc := rfl
@[simp] theorem draw_log  : (draw s).2.log = s.log := rfl
@[simp] theorem draw_keys  : (draw s).2.keys = s.keys := rfl
@[simp] theorem draw_upd  : (draw s).2.upd = s.upd := rfl
@[simp] theorem draw_integ  : (draw s).2.integ = s.integ := rfl
@[simp] theorem draw_power  : (draw s).2.power = s.power := rfl
@[simp] theorem draw_freeCtr  : (draw s).2.freeCtr = s.freeCtr + 1 := rfl

/-! ### drawIn -/

@[simp] theorem drawIn_pending (lo span : Nat) : (drawIn lo span s).2.pending = s.pending := rfl
@[simp] theorem drawIn_now (lo span : Nat) : (drawIn lo span s).2.now = s.now := rfl
@[simp] theorem drawIn_arrSeq (lo span : Nat) : (drawIn lo span s).2.arrSeq = s.arrSeq := rfl
@[simp] theorem drawIn_variant (lo span : Nat) : (drawIn lo span s).2.variant = s.variant := rfl
@[simp] theorem drawIn_out (lo span : Nat) : (drawIn lo span s).2.out = s.out := rfl
@[simp] theorem drawIn_points (lo span : Nat) : (drawIn lo span s).2.points = s.points := rfl
@[simp] theorem drawIn_slate (lo span : Nat) : (drawIn lo span s).2.slate = s.slate := rfl
@[simp] theorem drawIn_takes (lo span : Nat) : (drawIn lo span s).2.takes = s.takes := rfl
@[simp] theorem drawIn_eng (lo span : Nat) : (drawIn lo span s).2.eng = s.eng := rfl
@[simp] theorem drawIn_progs (lo span : Nat) : (drawIn lo span s).2.progs = s.progs := rfl
@[simp] theorem drawIn_loops (lo span : Nat) : (drawIn lo span s).2.loops = s.loops := rfl
@[simp] theorem drawIn_bar (lo span : Nat) : (drawIn lo span s).2.bar = s.bar := rfl
@[simp] theorem drawIn_field (lo span : Nat) : (drawIn lo span s).2.field = s.field := rfl
@[simp] theorem drawIn_saf (lo span : Nat) : (drawIn lo span s).2.saf = s.saf := rfl
@[simp] theorem drawIn_msl (lo span : Nat) : (drawIn lo span s).2.msl = s.msl := rfl
@[simp] theorem drawIn_eth (lo span : Nat) : (drawIn lo span s).2.eth = s.eth := rfl
@[simp] theorem drawIn_can (lo span : Nat) : (drawIn lo span s).2.can = s.can := rfl
@[simp] theorem drawIn_host (lo span : Nat) : (drawIn lo span s).2.host = s.host := rfl
@[simp] theorem drawIn_rtc (lo span : Nat) : (drawIn lo span s).2.rtc = s.rtc := rfl
@[simp] theorem drawIn_log (lo span : Nat) : (drawIn lo span s).2.log = s.log := rfl
@[simp] theorem drawIn_keys (lo span : Nat) : (drawIn lo span s).2.keys = s.keys := rfl
@[simp] theorem drawIn_upd (lo span : Nat) : (drawIn lo span s).2.upd = s.upd := rfl
@[simp] theorem drawIn_integ (lo span : Nat) : (drawIn lo span s).2.integ = s.integ := rfl
@[simp] theorem drawIn_power (lo span : Nat) : (drawIn lo span s).2.power = s.power := rfl
@[simp] theorem drawIn_freeCtr (lo span : Nat) : (drawIn lo span s).2.freeCtr = s.freeCtr + 1 := rfl

/-! ### Reads after writes -/

@[simp] theorem runOf_putRun_same (p : Nat) (r : SecRun) : runOf (putRun p r s) p = some r :=
  Table.get_set_listed (by simp)

theorem runOf_putRun_ne {p q : Nat} (h : q ≠ p) (r : SecRun) : runOf (putRun p r s) q = runOf s q :=
  Table.get_set_ne h

theorem rawPoint_putPoint_ne {pt q : Nat} (h : q ≠ pt) (v : PV) : rawPoint (putPoint pt v s) q = rawPoint s q :=
  Table.get_set_ne h

/-- A point written reads as written, cut to quality bits [8:0]. -/
theorem rawPoint_putPoint {pt : Nat} (v : PV) (h : Table.wf PV.zero s.points.pts = true) :
    rawPoint (putPoint pt v s) pt = ⟨v.val, v.q &&& 0x01FF⟩ := Table.get_set_same h

theorem takeOf_putTake_ne {k j : Nat} (h : j ≠ k) (t : ClassTake) : takeOf (putTake k t s) j = takeOf s j :=
  Table.get_set_ne h

theorem takeOf_putTake {k : Nat} (t : ClassTake) (h : Table.wf ClassTake.idle s.takes = true) :
    takeOf (putTake k t s) k = t := Table.get_set_same h

theorem stgRt_putStg_ne {st u : Nat} (h : u ≠ st) (r : StageRt) : stgRt (putStg st r s) u = stgRt s u :=
  Table.get_set_ne h

theorem stgRt_putStg {st : Nat} (r : StageRt) (h : Table.wf StageRt.fresh s.progs.stg = true) :
    stgRt (putStg st r s) st = r := Table.get_set_same h

theorem loopRt_putLoop_ne {n m : Nat} (h : m ≠ n) (r : LoopRt) : loopRt (putLoop n r s) m = loopRt s m :=
  Table.get_set_ne h

theorem loopRt_putLoop {n : Nat} (r : LoopRt) (h : Table.wf LoopRt.fresh s.loops.rt = true) :
    loopRt (putLoop n r s) n = r := Table.get_set_same h

end Sys2Proof.Machine
end

