-- ==== Sys2Proof/Laws/Ecm.lean ====
section
/-! SUPPORT. What executing an Ecmund instruction does: the section that a checkpoint leaves, and the three ways an
instruction ends. -/

namespace Sys2Proof.Machine
open Sys2Proof

@[simp] theorem SecRun.atBlockEnd_core (op : Nat) (r : SecRun) : (r.atBlockEnd op).core = r.core := by
  unfold SecRun.atBlockEnd; split <;> rfl
@[simp] theorem SecRun.atBlockEnd_buf (op : Nat) (r : SecRun) : (r.atBlockEnd op).buf = r.buf := by
  unfold SecRun.atBlockEnd; split <;> rfl
@[simp] theorem SecRun.atBlockEnd_stage (op : Nat) (r : SecRun) : (r.atBlockEnd op).stage = r.stage := by
  unfold SecRun.atBlockEnd; split <;> rfl
@[simp] theorem SecRun.atBlockEnd_secno (op : Nat) (r : SecRun) : (r.atBlockEnd op).secno = r.secno := by
  unfold SecRun.atBlockEnd; split <;> rfl
@[simp] theorem SecRun.atBlockEnd_cls (op : Nat) (r : SecRun) : (r.atBlockEnd op).cls = r.cls := by
  unfold SecRun.atBlockEnd; split <;> rfl
@[simp] theorem SecRun.atBlockEnd_scene (op : Nat) (r : SecRun) : (r.atBlockEnd op).scene = r.scene := by
  unfold SecRun.atBlockEnd; split <;> rfl
@[simp] theorem SecRun.atBlockEnd_w (op : Nat) (r : SecRun) : (r.atBlockEnd op).w = r.w := by
  unfold SecRun.atBlockEnd; split <;> rfl
@[simp] theorem SecRun.atBlockEnd_cycles (op : Nat) (r : SecRun) : (r.atBlockEnd op).cycles = r.cycles := by
  unfold SecRun.atBlockEnd; split <;> rfl
@[simp] theorem codeBad_atBlockEnd (op : Nat) (s : State) (r : SecRun) : codeBad s (r.atBlockEnd op) = codeBad s r := by
  simp [codeBad]

/-- An instruction with a sound word, an encoding and a budget completes as its meaning does. -/
theorem ecm_next {op p : Nat} {w : BitVec 24} {f : State → SecRun → Except SFault SecRun} {s : State} {r r' : SecRun}
    (hr : runOf s p = some r) (hc : codeBad s r = false) (he : reservedOp op w = false)
    (hw : r.cycles + cyclesOf op < r.w) (hf : f s (r.atBlockEnd op) = .ok r') :
    ecm op p w f s = .next (putRun p (r'.count (cyclesOf op)) s) := by
  simp [ecm, runOp, hr, hc, he, hf, Nat.not_le.mpr hw]

/-- An instruction whose meaning faults halts its section. -/
theorem ecm_fault {op p : Nat} {w : BitVec 24} {f : State → SecRun → Except SFault SecRun} {s : State} {r : SecRun}
    {e : SFault} (hr : runOf s p = some r) (hc : codeBad s r = false) (he : reservedOp op w = false)
    (hw : r.cycles + cyclesOf op < r.w) (hf : f s (r.atBlockEnd op) = .error e) :
    ecm op p w f s = .next (haltSection p r e s) := by
  simp [ecm, runOp, hr, hc, he, hf, Nat.not_le.mpr hw]

/-- A pair without a section executes nothing. -/
theorem ecm_idle {op p : Nat} {w : BitVec 24} {f : State → SecRun → Except SFault SecRun} {s : State}
    (hr : runOf s p = none) : ecm op p w f s = .next s := by
  simp [ecm, hr]

end Sys2Proof.Machine
end

