-- ==== Sys2Proof/Laws/Keeps.lean ====
section
/-! SUPPORT. What every command keeps: `Keeps a s` says that `s` has the queue, the clock and the variant of
`a`, has drawn at least as many free values, and has a sound point image and sound tables if `a` has. The lemmas here say it of
the operations from which every meaning is built. -/

namespace Sys2Proof.Machine
open Sys2Proof

/-- What a command keeps of a state. -/
structure Keeps (a s : State) : Prop where
  pending : s.pending = a.pending
  now : s.now = a.now
  variant : s.variant = a.variant
  draws : a.freeCtr ≤ s.freeCtr
  image : PointsOk a.points → PointsOk s.points
  tables : TablesOk a → TablesOk s

theorem Keeps.refl (a : State) : Keeps a a := ⟨rfl, rfl, rfl, Nat.le_refl _, id, id⟩

theorem Keeps.trans {a s t : State} (h : Keeps a s) (g : Keeps s t) : Keeps a t :=
  ⟨g.pending.trans h.pending, g.now.trans h.now, g.variant.trans h.variant, Nat.le_trans h.draws g.draws,
    fun x => g.image (h.image x), fun x => g.tables (h.tables x)⟩

/-- A change of anything else. -/
theorem Keeps.mk_upd_iff {a s : State}
    (x_arrSeq : ArrS) (x_out : List Out) (x_slate : SlateS) (x_eng : EngineS) (x_bar : BarrierS)
    (x_eth : EthS) (x_can : Table Can) (x_rtc : RtcS) (x_log : LogS) (x_keys : KeyS)
    (x_integ : IntegS) (x_power : PowerS)
    : Keeps a
      (State.mk
        s.pending s.now s.freeCtr x_arrSeq s.variant x_out s.points x_slate s.takes x_eng s.progs s.loops
        x_bar s.field s.saf s.msl x_eth x_can s.host x_rtc x_log x_keys s.upd x_integ x_power) ↔ Keeps a s :=
  ⟨fun h => ⟨h.pending, h.now, h.variant, h.draws, h.image, fun x => { h.tables x with }⟩,
    fun h => ⟨h.pending, h.now, h.variant, h.draws, h.image, fun x => { h.tables x with }⟩⟩

/-- A change of the points and the tables that leaves them sound, and of anything else. -/
theorem Keeps.mk_sound {a s : State} (p : PointS)
    (x_arrSeq : ArrS) (x_out : List Out) (x_slate : SlateS) (x_takes : Table ClassTake) (x_eng : EngineS)
    (x_progs : ProgS) (x_loops : LoopS) (x_bar : BarrierS) (x_field : FieldS) (x_saf : SafetyS) (x_msl :
    MslS) (x_eth : EthS) (x_can : Table Can) (x_host : HostS) (x_rtc : RtcS) (x_log : LogS) (x_keys : KeyS)
    (x_upd : UpdS) (x_integ : IntegS) (x_power : PowerS)
    (h : Keeps a s) (hp : PointsOk s.points → PointsOk p)
    (h1 : Table.wf ClassTake.idle s.takes = true → Table.wf ClassTake.idle x_takes = true)
    (h2 : Table.wf StageRt.fresh s.progs.stg = true → Table.wf StageRt.fresh x_progs.stg = true)
    (h4 : Table.wf DiS.zero s.field.di = true → Table.wf DiS.zero x_field.di = true)
    (h5 : Table.wf DoS.zero s.field.dout = true → Table.wf DoS.zero x_field.dout = true)
    (h6 : Table.wf AoS.zero s.field.ao = true → Table.wf AoS.zero x_field.ao = true)
    (h7 : Table.wf EncS.zero s.field.enc = true → Table.wf EncS.zero x_field.enc = true)
    (h8 : Table.wf SinS.zero s.saf.ins = true → Table.wf SinS.zero x_saf.ins = true)
    (h9 : Table.wf SqS.zero s.saf.sq = true → Table.wf SqS.zero x_saf.sq = true)
    (h10 : Table.wf SfS.zero s.saf.sf = true → Table.wf SfS.zero x_saf.sf = true)
    (h11 : Table.wf SinS.zero s.saf.insB = true → Table.wf SinS.zero x_saf.insB = true)
    (h12 : Table.wf SfS.zero s.saf.sfB = true → Table.wf SfS.zero x_saf.sfB = true)
    (h13 : Table.wf MslSlot.zero s.msl.slot = true → Table.wf MslSlot.zero x_msl.slot = true)
    (h14 : Table.wf none s.host.conns = true → Table.wf none x_host.conns = true)
    (h15 : Table.wf Admit.zero s.host.adm = true → Table.wf Admit.zero x_host.adm = true)
    (h16 : Table.wf none s.host.tx = true → Table.wf none x_host.tx = true)
    (h17 : Table.wf Bank.erased s.upd.bank = true → Table.wf Bank.erased x_upd.bank = true)
    (h18 : (Table.wf LoopRt.fresh s.loops.rt = true ∧ Table.wf LoopRt.fresh s.loops.kept = true) →
      Table.wf LoopRt.fresh x_loops.rt = true ∧ Table.wf LoopRt.fresh x_loops.kept = true) : Keeps a
      (State.mk
        s.pending s.now s.freeCtr x_arrSeq s.variant x_out p x_slate x_takes x_eng x_progs x_loops x_bar
        x_field x_saf x_msl x_eth x_can x_host x_rtc x_log x_keys x_upd x_integ x_power) :=
  ⟨h.pending, h.now, h.variant, h.draws, fun x => hp (h.image x), fun x =>
    let y := h.tables x
    { takes := h1 y.takes, stages := h2 y.stages, loops := (h18 ⟨y.loops, y.loopsKept⟩).1, loopsKept := (h18 ⟨y.loops, y.loopsKept⟩).2
      di := h4 y.di, dout := h5 y.dout
      ao := h6 y.ao, enc := h7 y.enc, safIn := h8 y.safIn, safOut := h9 y.safOut, safFn := h10 y.safFn
      safInB := h11 y.safInB, safFnB := h12 y.safFnB, mslSlot := h13 y.mslSlot, conns := h14 y.conns
      adm := h15 y.adm, tx := h16 y.tx, bank := h17 y.bank }⟩

/-- A change of the field side that leaves its tables. -/
theorem Keeps.setField {a s : State} {f : FieldS} (h : Keeps a s) (h1 : f.di = s.field.di) (h2 : f.dout = s.field.dout)
    (h3 : f.ao = s.field.ao) (h4 : f.enc = s.field.enc) : Keeps a { s with field := f } :=
  ⟨h.pending, h.now, h.variant, h.draws, h.image, fun x =>
    let y := h.tables x
    { y with di := h1 ▸ y.di, dout := h2 ▸ y.dout, ao := h3 ▸ y.ao, enc := h4 ▸ y.enc }⟩

/-- A change of the safety pair that leaves its tables. -/
theorem Keeps.setSaf {a s : State} {f : SafetyS} (h : Keeps a s) (h1 : f.ins = s.saf.ins) (h2 : f.sq = s.saf.sq)
    (h3 : f.sf = s.saf.sf) (h4 : f.insB = s.saf.insB) (h5 : f.sfB = s.saf.sfB) : Keeps a { s with saf := f } :=
  ⟨h.pending, h.now, h.variant, h.draws, h.image, fun x =>
    let y := h.tables x
    { y with safIn := h1 ▸ y.safIn, safOut := h2 ▸ y.safOut, safFn := h3 ▸ y.safFn, safInB := h4 ▸ y.safInB
             safFnB := h5 ▸ y.safFnB }⟩

/-- A change of the safety layer that leaves its slots in canonical form. -/
theorem Keeps.setMsl {a s : State} {f : MslS} (h : Keeps a s)
    (h1 : Table.wf MslSlot.zero s.msl.slot = true → Table.wf MslSlot.zero f.slot = true) : Keeps a { s with msl := f } :=
  ⟨h.pending, h.now, h.variant, h.draws, h.image, fun x => { h.tables x with mslSlot := h1 (h.tables x).mslSlot }⟩

/-- A table filled by writes over a canonical one is canonical. -/
theorem Table.wf_fill {α : Type} [DecidableEq α] {d : α} (l : List Nat) (v : α) (t : Table α) (h : Table.wf d t = true) :
    Table.wf d (l.foldl (fun t i => Table.set d t i v) t) = true := by
  induction l generalizing t with
  | nil => exact h
  | cons i l ih => exact ih _ (Table.wf_set h)

/-- What a command's outcome keeps. -/
def OutKeeps (a : State) (o : Host.Outcome State Fault Refusal) : Prop := ∀ t, o = .next t → Keeps a t

theorem OutKeeps.next {a t : State} (h : Keeps a t) : OutKeeps a (.next t) := by
  intro t' e
  cases e
  exact h

theorem keeps_foldS {α : Type} {a : State} (l : List α) (f : α → State → State) (s : State) (h : Keeps a s)
    (hf : ∀ x t, Keeps a t → Keeps a (f x t)) : Keeps a (foldS l f s) := by
  induction l generalizing s with
  | nil => exact h
  | cons x l ih => exact ih (f x s) (hf x s h)

theorem keeps_foldl {α : Type} {a : State} (l : List α) (f : State → α → State) (s : State) (h : Keeps a s)
    (hf : ∀ t x, Keeps a t → Keeps a (f t x)) : Keeps a (l.foldl f s) := by
  induction l generalizing s with
  | nil => exact h
  | cons x l ih => exact ih (f s x) (hf s x h)

theorem outKeeps_whenUp {a s : State} {f : State → State} (h : Keeps a s) (hf : ∀ t, Keeps a t → Keeps a (f t)) :
    OutKeeps a (whenUp s f) := by
  unfold whenUp
  split
  · exact OutKeeps.next (hf s h)
  · exact OutKeeps.next h

theorem outKeeps_whenUpAnd {a s : State} {c : Bool} {f : State → State} (h : Keeps a s)
    (hf : ∀ t, Keeps a t → Keeps a (f t)) : OutKeeps a (whenUpAnd s c f) := by
  unfold whenUpAnd
  split
  · exact OutKeeps.next (hf s h)
  · exact OutKeeps.next h

theorem outKeeps_whenSwitch {a s : State} {c : Bool} {f : State → State} (h : Keeps a s)
    (hf : ∀ t, Keeps a t → Keeps a (f t)) : OutKeeps a (whenSwitch s c f) := by
  unfold whenSwitch
  split
  · exact OutKeeps.next (hf s h)
  · exact OutKeeps.next h

theorem keeps_draw {a s : State} (h : Keeps a s) : Keeps a (draw s).2 :=
  ⟨h.pending, h.now, h.variant, Nat.le_succ_of_le h.draws, h.image,
    fun x => { h.tables x with }⟩

theorem keeps_drawIn {a s : State} (lo span : Nat) (h : Keeps a s) : Keeps a (drawIn lo span s).2 :=
  ⟨h.pending, h.now, h.variant, Nat.le_succ_of_le h.draws, h.image,
    fun x => { h.tables x with }⟩

/-! ### The point image -/

/-- Every listed value satisfies `P` after a write of a value that does. -/
theorem Table.forall_set {α : Type} [DecidableEq α] {d : α} {P : α → Prop} {t : Table α} {k : Nat} {v : α}
    (h : ∀ e ∈ t, P e.2) (hv : P v) : ∀ e ∈ Table.set d t k v, P e.2 := by
  induction t with
  | nil =>
    unfold Table.set
    split <;> simp_all
  | cons e t ih =>
    obtain ⟨k', w⟩ := e
    unfold Table.set
    split
    · split <;> simp_all <;> exact h.2
    · split
      · split <;> simp_all <;> exact h.2
      · simp_all
        exact ih

theorem PointsOk.put {p : PointS} {pt : Nat} {v : PV} (h : PointsOk p) (hv : v.q &&& 0xFE00 = 0) :
    PointsOk { p with pts := Table.set PV.zero p.pts pt v } :=
  ⟨Table.wf_set h.ptsWf, h.retainedWf, h.frzWf, Table.forall_set (P := fun (v : PV) => v.q &&& 0xFE00 = 0) h.ptsQ hv,
    h.retainedQ⟩

/-- A quality cut to bits [8:0] has no bit above them. -/
theorem quality_masked (q : Half) : (q &&& 0x01FF) &&& 0xFE00 = 0 := by
  rw [BitVec.and_assoc]
  simp

theorem PointsOk.putRetained {p : PointS} {pt : Nat} {v : PV} (h : PointsOk p) (hv : v.q &&& 0xFE00 = 0) :
    PointsOk { p with retained := Table.set PV.zero p.retained pt v } :=
  ⟨h.ptsWf, Table.wf_set h.retainedWf, h.frzWf, h.ptsQ,
    Table.forall_set (P := fun (v : PV) => v.q &&& 0xFE00 = 0) h.retainedQ hv⟩

theorem PointsOk.like {p q : PointS} (h : PointsOk p) (a : q.pts = p.pts) (b : q.retained = p.retained)
    (c : q.frz = p.frz) : PointsOk q :=
  ⟨a ▸ h.ptsWf, b ▸ h.retainedWf, c ▸ h.frzWf, a ▸ h.ptsQ, b ▸ h.retainedQ⟩

/-- The image is retained as it stands, or stands as it was retained. -/
theorem PointsOk.retain {p q : PointS} (h : PointsOk p) (a : q.pts = p.pts) (b : q.retained = p.pts)
    (c : q.frz = p.frz) : PointsOk q :=
  ⟨a ▸ h.ptsWf, b ▸ h.ptsWf, c ▸ h.frzWf, a ▸ h.ptsQ, b ▸ h.ptsQ⟩

theorem PointsOk.restore {p q : PointS} (h : PointsOk p) (a : q.pts = p.retained) (b : q.retained = p.retained)
    (c : q.frz = p.frz) : PointsOk q :=
  ⟨a ▸ h.retainedWf, b ▸ h.retainedWf, c ▸ h.frzWf, a ▸ h.retainedQ, b ▸ h.retainedQ⟩

theorem PointsOk.frozen {p q : PointS} {n : Nat} {v : Option Word} (h : PointsOk p) (a : q.pts = p.pts)
    (b : q.retained = p.retained) (c : q.frz = Table.set none p.frz n v) : PointsOk q :=
  ⟨a ▸ h.ptsWf, b ▸ h.retainedWf, c ▸ Table.wf_set h.frzWf, a ▸ h.ptsQ, b ▸ h.retainedQ⟩

theorem keeps_putPoint {a s : State} (pt : Nat) (v : PV) (h : Keeps a s) : Keeps a (putPoint pt v s) := by
  exact ⟨h.pending, h.now, h.variant, h.draws, fun x => PointsOk.put (h.image x) (quality_masked _),
    fun x => { h.tables x with }⟩

end Sys2Proof.Machine
end

