-- ==== Sys2Proof/Laws/KeepsEcmund.lean ====
section
/-! SUPPORT. What the log, the lanes and the Ecmund instructions keep of a state: the queue, the clock, the variant, the count
of free values, and a sound point image and sound tables. One lemma for each operation and for each meaning. -/

namespace Sys2Proof.Machine
open Sys2Proof

/-! ### Machine/Ops.lean -/

theorem keeps_emit {s0 : State} (o : Out) (s : State) (hk : Keeps s0 s) :
    Keeps s0 (emit o s) := by
  unfold emit
  repeat' (first
    | with_reducible assumption
    | with_reducible intro _
    | extract_lets
    | split
    | simp -zeta only [Keeps.mk_upd_iff]
    | dsimp +zetaDelta only)

theorem keeps_spoilProof {s0 : State} (kinds : List Nat) (s : State) (hk : Keeps s0 s) :
    Keeps s0 (spoilProof kinds s) := by
  unfold spoilProof
  repeat' (first
    | with_reducible assumption
    | with_reducible intro _
    | extract_lets
    | split
    | simp -zeta only [Keeps.mk_upd_iff]
    | dsimp +zetaDelta only
    | (with_reducible apply Keeps.mk_sound) <;> first
        | exact id
        | exact Table.wf_set
        | exact fun _ => Table.wf_nil
        | exact fun x => ⟨Table.wf_set x.1, x.2⟩
        | exact fun x => ⟨x.1, Table.wf_set x.2⟩
        | exact fun x => ⟨x.2, x.2⟩
        | exact fun x => PointsOk.like x rfl rfl rfl
        | exact fun x => PointsOk.retain x rfl rfl rfl
        | exact fun x => PointsOk.restore x rfl rfl rfl
        | exact fun x => PointsOk.frozen x rfl rfl rfl
        | exact fun x => PointsOk.put x (quality_masked _)
        | exact fun x => PointsOk.putRetained x (quality_masked _)
        | skip
    | fail)

theorem keeps_nextArr {s0 : State} (rank : Nat) (s : State) (hk : Keeps s0 s) :
    Keeps s0 (nextArr rank s).2 := by
  unfold nextArr
  repeat' (first
    | with_reducible assumption
    | with_reducible apply keeps_foldl
    | with_reducible intro _
    | extract_lets
    | split
    | dsimp only
    | simp -zeta only [Keeps.mk_upd_iff]
    | dsimp +zetaDelta only)

theorem keeps_mapQual {s0 : State} (pt : Nat) (f : Half → Half) (s : State) (hk : Keeps s0 s) :
    Keeps s0 (mapQual pt f s) := by
  unfold mapQual
  repeat' (first
    | with_reducible assumption
    | with_reducible apply keeps_putPoint
    | with_reducible intro _
    | extract_lets
    | split
    | simp -zeta only [Keeps.mk_upd_iff]
    | dsimp +zetaDelta only)

theorem keeps_putTake {s0 : State} (k : Nat) (t : ClassTake) (s : State) (hk : Keeps s0 s) :
    Keeps s0 (putTake k t s) := by
  unfold putTake
  repeat' (first
    | with_reducible assumption
    | with_reducible intro _
    | extract_lets
    | split
    | simp -zeta only [Keeps.mk_upd_iff]
    | dsimp +zetaDelta only
    | (with_reducible apply Keeps.mk_sound) <;> first
        | exact id
        | exact Table.wf_set
        | exact fun _ => Table.wf_nil
        | exact fun x => ⟨Table.wf_set x.1, x.2⟩
        | exact fun x => ⟨x.1, Table.wf_set x.2⟩
        | exact fun x => ⟨x.2, x.2⟩
        | exact fun x => PointsOk.like x rfl rfl rfl
        | exact fun x => PointsOk.retain x rfl rfl rfl
        | exact fun x => PointsOk.restore x rfl rfl rfl
        | exact fun x => PointsOk.frozen x rfl rfl rfl
        | exact fun x => PointsOk.put x (quality_masked _)
        | exact fun x => PointsOk.putRetained x (quality_masked _)
        | skip
    | fail)

theorem keeps_putStg {s0 : State} (st : Nat) (r : StageRt) (s : State) (hk : Keeps s0 s) :
    Keeps s0 (putStg st r s) := by
  unfold putStg
  repeat' (first
    | with_reducible assumption
    | with_reducible intro _
    | extract_lets
    | split
    | simp -zeta only [Keeps.mk_upd_iff]
    | dsimp +zetaDelta only
    | (with_reducible apply Keeps.mk_sound) <;> first
        | exact id
        | exact Table.wf_set
        | exact fun _ => Table.wf_nil
        | exact fun x => ⟨Table.wf_set x.1, x.2⟩
        | exact fun x => ⟨x.1, Table.wf_set x.2⟩
        | exact fun x => ⟨x.2, x.2⟩
        | exact fun x => PointsOk.like x rfl rfl rfl
        | exact fun x => PointsOk.retain x rfl rfl rfl
        | exact fun x => PointsOk.restore x rfl rfl rfl
        | exact fun x => PointsOk.frozen x rfl rfl rfl
        | exact fun x => PointsOk.put x (quality_masked _)
        | exact fun x => PointsOk.putRetained x (quality_masked _)
        | skip
    | fail)

theorem keeps_putLoop {s0 : State} (n : Nat) (r : LoopRt) (s : State) (hk : Keeps s0 s) :
    Keeps s0 (putLoop n r s) := by
  unfold putLoop
  repeat' (first
    | with_reducible assumption
    | with_reducible intro _
    | extract_lets
    | split
    | simp -zeta only [Keeps.mk_upd_iff]
    | dsimp +zetaDelta only
    | (with_reducible apply Keeps.mk_sound) <;> first
        | exact id
        | exact Table.wf_set
        | exact fun _ => Table.wf_nil
        | exact fun x => ⟨Table.wf_set x.1, x.2⟩
        | exact fun x => ⟨x.1, Table.wf_set x.2⟩
        | exact fun x => ⟨x.2, x.2⟩
        | exact fun x => PointsOk.like x rfl rfl rfl
        | exact fun x => PointsOk.retain x rfl rfl rfl
        | exact fun x => PointsOk.restore x rfl rfl rfl
        | exact fun x => PointsOk.frozen x rfl rfl rfl
        | exact fun x => PointsOk.put x (quality_masked _)
        | exact fun x => PointsOk.putRetained x (quality_masked _)
        | skip
    | fail)

/-! ### Machine/Log.lean -/

theorem keeps_pushRec {s0 : State} (r : Rec) (s : State) (hk : Keeps s0 s) :
    Keeps s0 (pushRec r s) := by
  unfold pushRec
  repeat' (first
    | with_reducible assumption
    | with_reducible intro _
    | extract_lets
    | split
    | dsimp only
    | simp -zeta only [Keeps.mk_upd_iff]
    | dsimp +zetaDelta only)

theorem keeps_storeRec {s0 : State} (r : Rec) (s : State) (hk : Keeps s0 s) :
    Keeps s0 (storeRec r s) := by
  unfold storeRec
  repeat' (first
    | with_reducible assumption
    | with_reducible apply keeps_nextArr
    | with_reducible apply keeps_pushRec
    | with_reducible intro _
    | extract_lets
    | split
    | dsimp only
    | simp -zeta only [Keeps.mk_upd_iff]
    | dsimp +zetaDelta only)

theorem keeps_closeWin {s0 : State} (w : LogWin) (s : State) (hk : Keeps s0 s) :
    Keeps s0 (closeWin w s) := by
  unfold closeWin
  repeat' (first
    | with_reducible assumption
    | with_reducible apply keeps_storeRec
    | with_reducible intro _
    | extract_lets
    | split
    | simp -zeta only [Keeps.mk_upd_iff]
    | dsimp +zetaDelta only)

theorem keeps_putWin {s0 : State} (old new : LogWin) (s : State) (hk : Keeps s0 s) :
    Keeps s0 (putWin old new s) := by
  unfold putWin
  repeat' (first
    | with_reducible assumption
    | with_reducible intro _
    | extract_lets
    | split
    | simp -zeta only [Keeps.mk_upd_iff]
    | dsimp +zetaDelta only)

theorem keeps_catchAll {s0 : State} (r : Rec) (s : State) (hk : Keeps s0 s) :
    Keeps s0 (catchAll r s) := by
  unfold catchAll
  repeat' (first
    | with_reducible assumption
    | with_reducible apply keeps_nextArr
    | with_reducible apply keeps_putWin
    | with_reducible intro _
    | extract_lets
    | split
    | dsimp only
    | simp -zeta only [Keeps.mk_upd_iff]
    | dsimp +zetaDelta only)

theorem keeps_judgeRec {s0 : State} (r : Rec) (band n secs : Nat) (s : State) (hk : Keeps s0 s) :
    Keeps s0 (judgeRec r band n secs s) := by
  unfold judgeRec
  repeat' (first
    | with_reducible assumption
    | with_reducible apply keeps_closeWin
    | with_reducible apply keeps_storeRec
    | with_reducible apply keeps_putWin
    | with_reducible apply keeps_nextArr
    | with_reducible apply keeps_catchAll
    | with_reducible intro _
    | extract_lets
    | split
    | dsimp only
    | simp -zeta only [Keeps.mk_upd_iff]
    | dsimp +zetaDelta only)

theorem keeps_logEv {s0 : State} (code sev owner : Nat) (view : Word) (src : Nat) (detail : List Byte) (s : State) (hk : Keeps s0 s) :
    Keeps s0 (logEv code sev owner view src detail s) := by
  unfold logEv
  repeat' (first
    | with_reducible assumption
    | with_reducible apply keeps_storeRec
    | with_reducible apply keeps_judgeRec
    | with_reducible intro _
    | extract_lets
    | split
    | simp -zeta only [Keeps.mk_upd_iff]
    | dsimp +zetaDelta only)

theorem keeps_logProg {s0 : State} (e : EvEnt) (s : State) (hk : Keeps s0 s) :
    Keeps s0 (logProg e s) := by
  unfold logProg
  repeat' (first
    | with_reducible assumption
    | with_reducible apply keeps_judgeRec
    | with_reducible intro _
    | extract_lets
    | split
    | simp -zeta only [Keeps.mk_upd_iff]
    | dsimp +zetaDelta only)

theorem keeps_logDropped {s0 : State} (e : EvEnt) (s : State) (hk : Keeps s0 s) :
    Keeps s0 (logDropped e s) := by
  unfold logDropped
  repeat' (first
    | with_reducible assumption
    | with_reducible apply keeps_putWin
    | with_reducible apply keeps_nextArr
    | with_reducible apply keeps_catchAll
    | with_reducible intro _
    | extract_lets
    | split
    | dsimp only
    | simp -zeta only [Keeps.mk_upd_iff]
    | dsimp +zetaDelta only)

theorem keeps_execLogWindowEnd {s0 : State} (owner code band : Nat) (s : State) (hk : Keeps s0 s) :
    OutKeeps s0 (execLogWindowEnd owner code band s) := by
  unfold execLogWindowEnd
  repeat' (first
    | with_reducible assumption
    | with_reducible apply outKeeps_whenUp
    | with_reducible apply OutKeeps.next
    | with_reducible apply keeps_closeWin
    | with_reducible intro _
    | extract_lets
    | split
    | simp -zeta only [Keeps.mk_upd_iff]
    | dsimp +zetaDelta only)

theorem keeps_execArchiveCopy {s0 : State} (ok : Bool) (s : State) (hk : Keeps s0 s) :
    OutKeeps s0 (execArchiveCopy ok s) := by
  unfold execArchiveCopy
  repeat' (first
    | with_reducible assumption
    | with_reducible apply outKeeps_whenUp
    | with_reducible apply OutKeeps.next
    | with_reducible intro _
    | extract_lets
    | split
    | simp -zeta only [Keeps.mk_upd_iff]
    | dsimp +zetaDelta only)

/-! ### Machine/Lanes.lean -/

theorem keeps_putRun {s0 : State} (p : Nat) (r : SecRun) (s : State) (hk : Keeps s0 s) :
    Keeps s0 (putRun p r s) := by
  unfold putRun
  repeat' (first
    | with_reducible assumption
    | with_reducible intro _
    | extract_lets
    | split
    | simp -zeta only [Keeps.mk_upd_iff]
    | dsimp +zetaDelta only)

theorem keeps_freePair {s0 : State} (p : Nat) (s : State) (hk : Keeps s0 s) :
    Keeps s0 (freePair p s) := by
  unfold freePair
  repeat' (first
    | with_reducible assumption
    | with_reducible intro _
    | extract_lets
    | split
    | simp -zeta only [Keeps.mk_upd_iff]
    | dsimp +zetaDelta only)

theorem keeps_putFlt {s0 : State} (stage secno : Nat) (f : FaultRec) (s : State) (hk : Keeps s0 s) :
    Keeps s0 (putFlt stage secno f s) := by
  unfold putFlt
  repeat' (first
    | with_reducible assumption
    | with_reducible intro _
    | extract_lets
    | split
    | simp -zeta only [Keeps.mk_upd_iff]
    | dsimp +zetaDelta only)

theorem keeps_mergeSlot {s0 : State} (k : Nat) (sl : SecSlot) (s : State) (hk : Keeps s0 s) :
    Keeps s0 (mergeSlot k sl s) := by
  unfold mergeSlot
  repeat' (first
    | with_reducible assumption
    | with_reducible apply keeps_foldS
    | with_reducible apply keeps_done
    | with_reducible apply keeps_putTake
    | with_reducible apply keeps_logDropped
    | with_reducible apply keeps_logProg
    | with_reducible intro _
    | extract_lets
    | split
    | simp -zeta only [Keeps.mk_upd_iff]
    | dsimp +zetaDelta only)

theorem keeps_mergeScene {s0 : State} (s : State) (hk : Keeps s0 s) :
    Keeps s0 (mergeScene s) := by
  unfold mergeScene
  repeat' (first
    | with_reducible assumption
    | with_reducible apply keeps_foldS
    | with_reducible apply keeps_mergeSlot
    | with_reducible apply keeps_putTake
    | with_reducible intro _
    | extract_lets
    | split
    | simp -zeta only [Keeps.mk_upd_iff]
    | dsimp +zetaDelta only)

theorem keeps_sceneCheck {s0 : State} (s : State) (hk : Keeps s0 s) :
    Keeps s0 (sceneCheck s) := by
  unfold sceneCheck
  repeat' (first
    | with_reducible assumption
    | with_reducible apply keeps_mergeScene
    | with_reducible intro _
    | extract_lets
    | split
    | simp -zeta only [Keeps.mk_upd_iff]
    | dsimp +zetaDelta only)

theorem keeps_markSlot {s0 : State} (stage secno : Nat) (st : SecSt) (b : WBuf) (s : State) (hk : Keeps s0 s) :
    Keeps s0 (markSlot stage secno st b s) := by
  unfold markSlot
  repeat' (first
    | with_reducible assumption
    | with_reducible intro _
    | extract_lets
    | split
    | simp -zeta only [Keeps.mk_upd_iff]
    | dsimp +zetaDelta only)

theorem keeps_haltSection {s0 : State} (p : Nat) (r : SecRun) (e : SFault) (s : State) (hk : Keeps s0 s) :
    Keeps s0 (haltSection p r e s) := by
  unfold haltSection
  repeat' (first
    | with_reducible assumption
    | with_reducible apply keeps_logEv
    | with_reducible apply keeps_putStg
    | with_reducible apply keeps_putFlt
    | with_reducible apply keeps_spoilProof
    | with_reducible apply keeps_sceneCheck
    | with_reducible apply keeps_freePair
    | with_reducible apply keeps_markSlot
    | with_reducible intro _
    | extract_lets
    | split
    | simp -zeta only [Keeps.mk_upd_iff]
    | dsimp +zetaDelta only)

theorem keeps_ecm {s0 : State} (op p : Nat) (w : BitVec 24) (f : State → SecRun → Except SFault SecRun) (s : State) (hk : Keeps s0 s) :
    OutKeeps s0 (ecm op p w f s) := by
  unfold ecm
  repeat' (first
    | with_reducible assumption
    | with_reducible apply OutKeeps.next
    | with_reducible apply keeps_haltSection
    | with_reducible apply keeps_putRun
    | with_reducible intro _
    | extract_lets
    | split
    | simp -zeta only [Keeps.mk_upd_iff]
    | dsimp +zetaDelta only)

/-! ### Machine/EcmBits.lean -/

theorem keeps_execBand {s0 : State} (p : Nat) (w : BitVec 24) (s : State) (hk : Keeps s0 s) :
    OutKeeps s0 (execBand p w s) := by
  unfold execBand
  repeat' (first
    | with_reducible assumption
    | with_reducible apply OutKeeps.next
    | with_reducible apply keeps_ecm
    | with_reducible intro _
    | extract_lets
    | split
    | simp -zeta only [Keeps.mk_upd_iff]
    | dsimp +zetaDelta only)

theorem keeps_execBandn {s0 : State} (p : Nat) (w : BitVec 24) (s : State) (hk : Keeps s0 s) :
    OutKeeps s0 (execBandn p w s) := by
  unfold execBandn
  repeat' (first
    | with_reducible assumption
    | with_reducible apply OutKeeps.next
    | with_reducible apply keeps_ecm
    | with_reducible intro _
    | extract_lets
    | split
    | simp -zeta only [Keeps.mk_upd_iff]
    | dsimp +zetaDelta only)

theorem keeps_execBor {s0 : State} (p : Nat) (w : BitVec 24) (s : State) (hk : Keeps s0 s) :
    OutKeeps s0 (execBor p w s) := by
  unfold execBor
  repeat' (first
    | with_reducible assumption
    | with_reducible apply OutKeeps.next
    | with_reducible apply keeps_ecm
    | with_reducible intro _
    | extract_lets
    | split
    | simp -zeta only [Keeps.mk_upd_iff]
    | dsimp +zetaDelta only)

theorem keeps_execBorn {s0 : State} (p : Nat) (w : BitVec 24) (s : State) (hk : Keeps s0 s) :
    OutKeeps s0 (execBorn p w s) := by
  unfold execBorn
  repeat' (first
    | with_reducible assumption
    | with_reducible apply OutKeeps.next
    | with_reducible apply keeps_ecm
    | with_reducible intro _
    | extract_lets
    | split
    | simp -zeta only [Keeps.mk_upd_iff]
    | dsimp +zetaDelta only)

theorem keeps_execBxor {s0 : State} (p : Nat) (w : BitVec 24) (s : State) (hk : Keeps s0 s) :
    OutKeeps s0 (execBxor p w s) := by
  unfold execBxor
  repeat' (first
    | with_reducible assumption
    | with_reducible apply OutKeeps.next
    | with_reducible apply keeps_ecm
    | with_reducible intro _
    | extract_lets
    | split
    | simp -zeta only [Keeps.mk_upd_iff]
    | dsimp +zetaDelta only)

theorem keeps_execBxorn {s0 : State} (p : Nat) (w : BitVec 24) (s : State) (hk : Keeps s0 s) :
    OutKeeps s0 (execBxorn p w s) := by
  unfold execBxorn
  repeat' (first
    | with_reducible assumption
    | with_reducible apply OutKeeps.next
    | with_reducible apply keeps_ecm
    | with_reducible intro _
    | extract_lets
    | split
    | simp -zeta only [Keeps.mk_upd_iff]
    | dsimp +zetaDelta only)

theorem keeps_execBnot {s0 : State} (p : Nat) (w : BitVec 24) (s : State) (hk : Keeps s0 s) :
    OutKeeps s0 (execBnot p w s) := by
  unfold execBnot
  repeat' (first
    | with_reducible assumption
    | with_reducible apply OutKeeps.next
    | with_reducible apply keeps_ecm
    | with_reducible intro _
    | extract_lets
    | split
    | simp -zeta only [Keeps.mk_upd_iff]
    | dsimp +zetaDelta only)

theorem keeps_execBa1 {s0 : State} (p : Nat) (w : BitVec 24) (s : State) (hk : Keeps s0 s) :
    OutKeeps s0 (execBa1 p w s) := by
  unfold execBa1
  repeat' (first
    | with_reducible assumption
    | with_reducible apply OutKeeps.next
    | with_reducible apply keeps_ecm
    | with_reducible intro _
    | extract_lets
    | split
    | simp -zeta only [Keeps.mk_upd_iff]
    | dsimp +zetaDelta only)

theorem keeps_execBa0 {s0 : State} (p : Nat) (w : BitVec 24) (s : State) (hk : Keeps s0 s) :
    OutKeeps s0 (execBa0 p w s) := by
  unfold execBa0
  repeat' (first
    | with_reducible assumption
    | with_reducible apply OutKeeps.next
    | with_reducible apply keeps_ecm
    | with_reducible intro _
    | extract_lets
    | split
    | simp -zeta only [Keeps.mk_upd_iff]
    | dsimp +zetaDelta only)

theorem keeps_execBflg {s0 : State} (p : Nat) (w : BitVec 24) (s : State) (hk : Keeps s0 s) :
    OutKeeps s0 (execBflg p w s) := by
  unfold execBflg
  repeat' (first
    | with_reducible assumption
    | with_reducible apply OutKeeps.next
    | with_reducible apply keeps_ecm
    | with_reducible intro _
    | extract_lets
    | split
    | simp -zeta only [Keeps.mk_upd_iff]
    | dsimp +zetaDelta only)

theorem keeps_execPusha {s0 : State} (p : Nat) (w : BitVec 24) (s : State) (hk : Keeps s0 s) :
    OutKeeps s0 (execPusha p w s) := by
  unfold execPusha
  repeat' (first
    | with_reducible assumption
    | with_reducible apply OutKeeps.next
    | with_reducible apply keeps_ecm
    | with_reducible intro _
    | extract_lets
    | split
    | simp -zeta only [Keeps.mk_upd_iff]
    | dsimp +zetaDelta only)

theorem keeps_execPushan {s0 : State} (p : Nat) (w : BitVec 24) (s : State) (hk : Keeps s0 s) :
    OutKeeps s0 (execPushan p w s) := by
  unfold execPushan
  repeat' (first
    | with_reducible assumption
    | with_reducible apply OutKeeps.next
    | with_reducible apply keeps_ecm
    | with_reducible intro _
    | extract_lets
    | split
    | simp -zeta only [Keeps.mk_upd_iff]
    | dsimp +zetaDelta only)

theorem keeps_execPusho {s0 : State} (p : Nat) (w : BitVec 24) (s : State) (hk : Keeps s0 s) :
    OutKeeps s0 (execPusho p w s) := by
  unfold execPusho
  repeat' (first
    | with_reducible assumption
    | with_reducible apply OutKeeps.next
    | with_reducible apply keeps_ecm
    | with_reducible intro _
    | extract_lets
    | split
    | simp -zeta only [Keeps.mk_upd_iff]
    | dsimp +zetaDelta only)

theorem keeps_execPushx {s0 : State} (p : Nat) (w : BitVec 24) (s : State) (hk : Keeps s0 s) :
    OutKeeps s0 (execPushx p w s) := by
  unfold execPushx
  repeat' (first
    | with_reducible assumption
    | with_reducible apply OutKeeps.next
    | with_reducible apply keeps_ecm
    | with_reducible intro _
    | extract_lets
    | split
    | simp -zeta only [Keeps.mk_upd_iff]
    | dsimp +zetaDelta only)

theorem keeps_execPopc {s0 : State} (p : Nat) (w : BitVec 24) (s : State) (hk : Keeps s0 s) :
    OutKeeps s0 (execPopc p w s) := by
  unfold execPopc
  repeat' (first
    | with_reducible assumption
    | with_reducible apply OutKeeps.next
    | with_reducible apply keeps_ecm
    | with_reducible intro _
    | extract_lets
    | split
    | simp -zeta only [Keeps.mk_upd_iff]
    | dsimp +zetaDelta only)

theorem keeps_execStb {s0 : State} (p : Nat) (w : BitVec 24) (s : State) (hk : Keeps s0 s) :
    OutKeeps s0 (execStb p w s) := by
  unfold execStb
  repeat' (first
    | with_reducible assumption
    | with_reducible apply OutKeeps.next
    | with_reducible apply keeps_ecm
    | with_reducible intro _
    | extract_lets
    | split
    | simp -zeta only [Keeps.mk_upd_iff]
    | dsimp +zetaDelta only)

theorem keeps_execStbn {s0 : State} (p : Nat) (w : BitVec 24) (s : State) (hk : Keeps s0 s) :
    OutKeeps s0 (execStbn p w s) := by
  unfold execStbn
  repeat' (first
    | with_reducible assumption
    | with_reducible apply OutKeeps.next
    | with_reducible apply keeps_ecm
    | with_reducible intro _
    | extract_lets
    | split
    | simp -zeta only [Keeps.mk_upd_iff]
    | dsimp +zetaDelta only)

theorem keeps_execSetb {s0 : State} (p : Nat) (w : BitVec 24) (s : State) (hk : Keeps s0 s) :
    OutKeeps s0 (execSetb p w s) := by
  unfold execSetb
  repeat' (first
    | with_reducible assumption
    | with_reducible apply OutKeeps.next
    | with_reducible apply keeps_ecm
    | with_reducible intro _
    | extract_lets
    | split
    | simp -zeta only [Keeps.mk_upd_iff]
    | dsimp +zetaDelta only)

theorem keeps_execClrb {s0 : State} (p : Nat) (w : BitVec 24) (s : State) (hk : Keeps s0 s) :
    OutKeeps s0 (execClrb p w s) := by
  unfold execClrb
  repeat' (first
    | with_reducible assumption
    | with_reducible apply OutKeeps.next
    | with_reducible apply keeps_ecm
    | with_reducible intro _
    | extract_lets
    | split
    | simp -zeta only [Keeps.mk_upd_iff]
    | dsimp +zetaDelta only)

theorem keeps_execRise {s0 : State} (p : Nat) (w : BitVec 24) (s : State) (hk : Keeps s0 s) :
    OutKeeps s0 (execRise p w s) := by
  unfold execRise
  repeat' (first
    | with_reducible assumption
    | with_reducible apply OutKeeps.next
    | with_reducible apply keeps_ecm
    | with_reducible intro _
    | extract_lets
    | split
    | simp -zeta only [Keeps.mk_upd_iff]
    | dsimp +zetaDelta only)

theorem keeps_execFall {s0 : State} (p : Nat) (w : BitVec 24) (s : State) (hk : Keeps s0 s) :
    OutKeeps s0 (execFall p w s) := by
  unfold execFall
  repeat' (first
    | with_reducible assumption
    | with_reducible apply OutKeeps.next
    | with_reducible apply keeps_ecm
    | with_reducible intro _
    | extract_lets
    | split
    | simp -zeta only [Keeps.mk_upd_iff]
    | dsimp +zetaDelta only)

theorem keeps_execTon {s0 : State} (p : Nat) (w : BitVec 24) (s : State) (hk : Keeps s0 s) :
    OutKeeps s0 (execTon p w s) := by
  unfold execTon
  repeat' (first
    | with_reducible assumption
    | with_reducible apply OutKeeps.next
    | with_reducible apply keeps_ecm
    | with_reducible intro _
    | extract_lets
    | split
    | simp -zeta only [Keeps.mk_upd_iff]
    | dsimp +zetaDelta only)

theorem keeps_execTof {s0 : State} (p : Nat) (w : BitVec 24) (s : State) (hk : Keeps s0 s) :
    OutKeeps s0 (execTof p w s) := by
  unfold execTof
  repeat' (first
    | with_reducible assumption
    | with_reducible apply OutKeeps.next
    | with_reducible apply keeps_ecm
    | with_reducible intro _
    | extract_lets
    | split
    | simp -zeta only [Keeps.mk_upd_iff]
    | dsimp +zetaDelta only)

theorem keeps_execTp {s0 : State} (p : Nat) (w : BitVec 24) (s : State) (hk : Keeps s0 s) :
    OutKeeps s0 (execTp p w s) := by
  unfold execTp
  repeat' (first
    | with_reducible assumption
    | with_reducible apply OutKeeps.next
    | with_reducible apply keeps_ecm
    | with_reducible intro _
    | extract_lets
    | split
    | simp -zeta only [Keeps.mk_upd_iff]
    | dsimp +zetaDelta only)

theorem keeps_execTonr {s0 : State} (p : Nat) (w : BitVec 24) (s : State) (hk : Keeps s0 s) :
    OutKeeps s0 (execTonr p w s) := by
  unfold execTonr
  repeat' (first
    | with_reducible assumption
    | with_reducible apply OutKeeps.next
    | with_reducible apply keeps_ecm
    | with_reducible intro _
    | extract_lets
    | split
    | simp -zeta only [Keeps.mk_upd_iff]
    | dsimp +zetaDelta only)

theorem keeps_execTres {s0 : State} (p : Nat) (w : BitVec 24) (s : State) (hk : Keeps s0 s) :
    OutKeeps s0 (execTres p w s) := by
  unfold execTres
  repeat' (first
    | with_reducible assumption
    | with_reducible apply OutKeeps.next
    | with_reducible apply keeps_ecm
    | with_reducible intro _
    | extract_lets
    | split
    | simp -zeta only [Keeps.mk_upd_iff]
    | dsimp +zetaDelta only)

theorem keeps_execCtu {s0 : State} (p : Nat) (w : BitVec 24) (s : State) (hk : Keeps s0 s) :
    OutKeeps s0 (execCtu p w s) := by
  unfold execCtu
  repeat' (first
    | with_reducible assumption
    | with_reducible apply OutKeeps.next
    | with_reducible apply keeps_ecm
    | with_reducible intro _
    | extract_lets
    | split
    | simp -zeta only [Keeps.mk_upd_iff]
    | dsimp +zetaDelta only)

theorem keeps_execCtd {s0 : State} (p : Nat) (w : BitVec 24) (s : State) (hk : Keeps s0 s) :
    OutKeeps s0 (execCtd p w s) := by
  unfold execCtd
  repeat' (first
    | with_reducible assumption
    | with_reducible apply OutKeeps.next
    | with_reducible apply keeps_ecm
    | with_reducible intro _
    | extract_lets
    | split
    | simp -zeta only [Keeps.mk_upd_iff]
    | dsimp +zetaDelta only)

theorem keeps_execCld {s0 : State} (p : Nat) (w : BitVec 24) (s : State) (hk : Keeps s0 s) :
    OutKeeps s0 (execCld p w s) := by
  unfold execCld
  repeat' (first
    | with_reducible assumption
    | with_reducible apply OutKeeps.next
    | with_reducible apply keeps_ecm
    | with_reducible intro _
    | extract_lets
    | split
    | simp -zeta only [Keeps.mk_upd_iff]
    | dsimp +zetaDelta only)

theorem keeps_execCrs {s0 : State} (p : Nat) (w : BitVec 24) (s : State) (hk : Keeps s0 s) :
    OutKeeps s0 (execCrs p w s) := by
  unfold execCrs
  repeat' (first
    | with_reducible assumption
    | with_reducible apply OutKeeps.next
    | with_reducible apply keeps_ecm
    | with_reducible intro _
    | extract_lets
    | split
    | simp -zeta only [Keeps.mk_upd_iff]
    | dsimp +zetaDelta only)

/-! ### Machine/EcmWords.lean -/

theorem keeps_execLda {s0 : State} (p : Nat) (w : BitVec 24) (s : State) (hk : Keeps s0 s) :
    OutKeeps s0 (execLda p w s) := by
  unfold execLda
  repeat' (first
    | with_reducible assumption
    | with_reducible apply OutKeeps.next
    | with_reducible apply keeps_ecm
    | with_reducible intro _
    | extract_lets
    | split
    | simp -zeta only [Keeps.mk_upd_iff]
    | dsimp +zetaDelta only)

theorem keeps_execSta {s0 : State} (p : Nat) (w : BitVec 24) (s : State) (hk : Keeps s0 s) :
    OutKeeps s0 (execSta p w s) := by
  unfold execSta
  repeat' (first
    | with_reducible assumption
    | with_reducible apply OutKeeps.next
    | with_reducible apply keeps_ecm
    | with_reducible intro _
    | extract_lets
    | split
    | simp -zeta only [Keeps.mk_upd_iff]
    | dsimp +zetaDelta only)

theorem keeps_execXab {s0 : State} (p : Nat) (w : BitVec 24) (s : State) (hk : Keeps s0 s) :
    OutKeeps s0 (execXab p w s) := by
  unfold execXab
  repeat' (first
    | with_reducible assumption
    | with_reducible apply OutKeeps.next
    | with_reducible apply keeps_ecm
    | with_reducible intro _
    | extract_lets
    | split
    | simp -zeta only [Keeps.mk_upd_iff]
    | dsimp +zetaDelta only)

theorem keeps_execSel {s0 : State} (p : Nat) (w : BitVec 24) (s : State) (hk : Keeps s0 s) :
    OutKeeps s0 (execSel p w s) := by
  unfold execSel
  repeat' (first
    | with_reducible assumption
    | with_reducible apply OutKeeps.next
    | with_reducible apply keeps_ecm
    | with_reducible intro _
    | extract_lets
    | split
    | simp -zeta only [Keeps.mk_upd_iff]
    | dsimp +zetaDelta only)

theorem keeps_execAddI {s0 : State} (p : Nat) (w : BitVec 24) (s : State) (hk : Keeps s0 s) :
    OutKeeps s0 (execAddI p w s) := by
  unfold execAddI
  repeat' (first
    | with_reducible assumption
    | with_reducible apply OutKeeps.next
    | with_reducible apply keeps_ecm
    | with_reducible intro _
    | extract_lets
    | split
    | simp -zeta only [Keeps.mk_upd_iff]
    | dsimp +zetaDelta only)

theorem keeps_execSubI {s0 : State} (p : Nat) (w : BitVec 24) (s : State) (hk : Keeps s0 s) :
    OutKeeps s0 (execSubI p w s) := by
  unfold execSubI
  repeat' (first
    | with_reducible assumption
    | with_reducible apply OutKeeps.next
    | with_reducible apply keeps_ecm
    | with_reducible intro _
    | extract_lets
    | split
    | simp -zeta only [Keeps.mk_upd_iff]
    | dsimp +zetaDelta only)

theorem keeps_execMulI {s0 : State} (p : Nat) (w : BitVec 24) (s : State) (hk : Keeps s0 s) :
    OutKeeps s0 (execMulI p w s) := by
  unfold execMulI
  repeat' (first
    | with_reducible assumption
    | with_reducible apply OutKeeps.next
    | with_reducible apply keeps_ecm
    | with_reducible intro _
    | extract_lets
    | split
    | simp -zeta only [Keeps.mk_upd_iff]
    | dsimp +zetaDelta only)

theorem keeps_execDivI {s0 : State} (p : Nat) (w : BitVec 24) (s : State) (hk : Keeps s0 s) :
    OutKeeps s0 (execDivI p w s) := by
  unfold execDivI
  repeat' (first
    | with_reducible assumption
    | with_reducible apply OutKeeps.next
    | with_reducible apply keeps_ecm
    | with_reducible intro _
    | extract_lets
    | split
    | simp -zeta only [Keeps.mk_upd_iff]
    | dsimp +zetaDelta only)

theorem keeps_execModI {s0 : State} (p : Nat) (w : BitVec 24) (s : State) (hk : Keeps s0 s) :
    OutKeeps s0 (execModI p w s) := by
  unfold execModI
  repeat' (first
    | with_reducible assumption
    | with_reducible apply OutKeeps.next
    | with_reducible apply keeps_ecm
    | with_reducible intro _
    | extract_lets
    | split
    | simp -zeta only [Keeps.mk_upd_iff]
    | dsimp +zetaDelta only)

theorem keeps_execNegI {s0 : State} (p : Nat) (w : BitVec 24) (s : State) (hk : Keeps s0 s) :
    OutKeeps s0 (execNegI p w s) := by
  unfold execNegI
  repeat' (first
    | with_reducible assumption
    | with_reducible apply OutKeeps.next
    | with_reducible apply keeps_ecm
    | with_reducible intro _
    | extract_lets
    | split
    | simp -zeta only [Keeps.mk_upd_iff]
    | dsimp +zetaDelta only)

theorem keeps_execAbsI {s0 : State} (p : Nat) (w : BitVec 24) (s : State) (hk : Keeps s0 s) :
    OutKeeps s0 (execAbsI p w s) := by
  unfold execAbsI
  repeat' (first
    | with_reducible assumption
    | with_reducible apply OutKeeps.next
    | with_reducible apply keeps_ecm
    | with_reducible intro _
    | extract_lets
    | split
    | simp -zeta only [Keeps.mk_upd_iff]
    | dsimp +zetaDelta only)

theorem keeps_execMinI {s0 : State} (p : Nat) (w : BitVec 24) (s : State) (hk : Keeps s0 s) :
    OutKeeps s0 (execMinI p w s) := by
  unfold execMinI
  repeat' (first
    | with_reducible assumption
    | with_reducible apply OutKeeps.next
    | with_reducible apply keeps_ecm
    | with_reducible intro _
    | extract_lets
    | split
    | simp -zeta only [Keeps.mk_upd_iff]
    | dsimp +zetaDelta only)

theorem keeps_execMaxI {s0 : State} (p : Nat) (w : BitVec 24) (s : State) (hk : Keeps s0 s) :
    OutKeeps s0 (execMaxI p w s) := by
  unfold execMaxI
  repeat' (first
    | with_reducible assumption
    | with_reducible apply OutKeeps.next
    | with_reducible apply keeps_ecm
    | with_reducible intro _
    | extract_lets
    | split
    | simp -zeta only [Keeps.mk_upd_iff]
    | dsimp +zetaDelta only)

theorem keeps_execLdb {s0 : State} (p : Nat) (w : BitVec 24) (s : State) (hk : Keeps s0 s) :
    OutKeeps s0 (execLdb p w s) := by
  unfold execLdb
  repeat' (first
    | with_reducible assumption
    | with_reducible apply OutKeeps.next
    | with_reducible apply keeps_ecm
    | with_reducible intro _
    | extract_lets
    | split
    | simp -zeta only [Keeps.mk_upd_iff]
    | dsimp +zetaDelta only)

theorem keeps_execAndw {s0 : State} (p : Nat) (w : BitVec 24) (s : State) (hk : Keeps s0 s) :
    OutKeeps s0 (execAndw p w s) := by
  unfold execAndw
  repeat' (first
    | with_reducible assumption
    | with_reducible apply OutKeeps.next
    | with_reducible apply keeps_ecm
    | with_reducible intro _
    | extract_lets
    | split
    | simp -zeta only [Keeps.mk_upd_iff]
    | dsimp +zetaDelta only)

theorem keeps_execOrw {s0 : State} (p : Nat) (w : BitVec 24) (s : State) (hk : Keeps s0 s) :
    OutKeeps s0 (execOrw p w s) := by
  unfold execOrw
  repeat' (first
    | with_reducible assumption
    | with_reducible apply OutKeeps.next
    | with_reducible apply keeps_ecm
    | with_reducible intro _
    | extract_lets
    | split
    | simp -zeta only [Keeps.mk_upd_iff]
    | dsimp +zetaDelta only)

theorem keeps_execXorw {s0 : State} (p : Nat) (w : BitVec 24) (s : State) (hk : Keeps s0 s) :
    OutKeeps s0 (execXorw p w s) := by
  unfold execXorw
  repeat' (first
    | with_reducible assumption
    | with_reducible apply OutKeeps.next
    | with_reducible apply keeps_ecm
    | with_reducible intro _
    | extract_lets
    | split
    | simp -zeta only [Keeps.mk_upd_iff]
    | dsimp +zetaDelta only)

theorem keeps_execNotw {s0 : State} (p : Nat) (w : BitVec 24) (s : State) (hk : Keeps s0 s) :
    OutKeeps s0 (execNotw p w s) := by
  unfold execNotw
  repeat' (first
    | with_reducible assumption
    | with_reducible apply OutKeeps.next
    | with_reducible apply keeps_ecm
    | with_reducible intro _
    | extract_lets
    | split
    | simp -zeta only [Keeps.mk_upd_iff]
    | dsimp +zetaDelta only)

theorem keeps_execShl {s0 : State} (p : Nat) (w : BitVec 24) (s : State) (hk : Keeps s0 s) :
    OutKeeps s0 (execShl p w s) := by
  unfold execShl
  repeat' (first
    | with_reducible assumption
    | with_reducible apply OutKeeps.next
    | with_reducible apply keeps_ecm
    | with_reducible intro _
    | extract_lets
    | split
    | simp -zeta only [Keeps.mk_upd_iff]
    | dsimp +zetaDelta only)

theorem keeps_execShr {s0 : State} (p : Nat) (w : BitVec 24) (s : State) (hk : Keeps s0 s) :
    OutKeeps s0 (execShr p w s) := by
  unfold execShr
  repeat' (first
    | with_reducible assumption
    | with_reducible apply OutKeeps.next
    | with_reducible apply keeps_ecm
    | with_reducible intro _
    | extract_lets
    | split
    | simp -zeta only [Keeps.mk_upd_iff]
    | dsimp +zetaDelta only)

theorem keeps_execSar {s0 : State} (p : Nat) (w : BitVec 24) (s : State) (hk : Keeps s0 s) :
    OutKeeps s0 (execSar p w s) := by
  unfold execSar
  repeat' (first
    | with_reducible assumption
    | with_reducible apply OutKeeps.next
    | with_reducible apply keeps_ecm
    | with_reducible intro _
    | extract_lets
    | split
    | simp -zeta only [Keeps.mk_upd_iff]
    | dsimp +zetaDelta only)

theorem keeps_execRol {s0 : State} (p : Nat) (w : BitVec 24) (s : State) (hk : Keeps s0 s) :
    OutKeeps s0 (execRol p w s) := by
  unfold execRol
  repeat' (first
    | with_reducible assumption
    | with_reducible apply OutKeeps.next
    | with_reducible apply keeps_ecm
    | with_reducible intro _
    | extract_lets
    | split
    | simp -zeta only [Keeps.mk_upd_iff]
    | dsimp +zetaDelta only)

theorem keeps_execAddf {s0 : State} (p : Nat) (w : BitVec 24) (s : State) (hk : Keeps s0 s) :
    OutKeeps s0 (execAddf p w s) := by
  unfold execAddf
  repeat' (first
    | with_reducible assumption
    | with_reducible apply OutKeeps.next
    | with_reducible apply keeps_ecm
    | with_reducible intro _
    | extract_lets
    | split
    | simp -zeta only [Keeps.mk_upd_iff]
    | dsimp +zetaDelta only)

theorem keeps_execSubf {s0 : State} (p : Nat) (w : BitVec 24) (s : State) (hk : Keeps s0 s) :
    OutKeeps s0 (execSubf p w s) := by
  unfold execSubf
  repeat' (first
    | with_reducible assumption
    | with_reducible apply OutKeeps.next
    | with_reducible apply keeps_ecm
    | with_reducible intro _
    | extract_lets
    | split
    | simp -zeta only [Keeps.mk_upd_iff]
    | dsimp +zetaDelta only)

theorem keeps_execMulf {s0 : State} (p : Nat) (w : BitVec 24) (s : State) (hk : Keeps s0 s) :
    OutKeeps s0 (execMulf p w s) := by
  unfold execMulf
  repeat' (first
    | with_reducible assumption
    | with_reducible apply OutKeeps.next
    | with_reducible apply keeps_ecm
    | with_reducible intro _
    | extract_lets
    | split
    | simp -zeta only [Keeps.mk_upd_iff]
    | dsimp +zetaDelta only)

theorem keeps_execDivf {s0 : State} (p : Nat) (w : BitVec 24) (s : State) (hk : Keeps s0 s) :
    OutKeeps s0 (execDivf p w s) := by
  unfold execDivf
  repeat' (first
    | with_reducible assumption
    | with_reducible apply OutKeeps.next
    | with_reducible apply keeps_ecm
    | with_reducible intro _
    | extract_lets
    | split
    | simp -zeta only [Keeps.mk_upd_iff]
    | dsimp +zetaDelta only)

theorem keeps_execNegf {s0 : State} (p : Nat) (w : BitVec 24) (s : State) (hk : Keeps s0 s) :
    OutKeeps s0 (execNegf p w s) := by
  unfold execNegf
  repeat' (first
    | with_reducible assumption
    | with_reducible apply OutKeeps.next
    | with_reducible apply keeps_ecm
    | with_reducible intro _
    | extract_lets
    | split
    | simp -zeta only [Keeps.mk_upd_iff]
    | dsimp +zetaDelta only)

theorem keeps_execAbsf {s0 : State} (p : Nat) (w : BitVec 24) (s : State) (hk : Keeps s0 s) :
    OutKeeps s0 (execAbsf p w s) := by
  unfold execAbsf
  repeat' (first
    | with_reducible assumption
    | with_reducible apply OutKeeps.next
    | with_reducible apply keeps_ecm
    | with_reducible intro _
    | extract_lets
    | split
    | simp -zeta only [Keeps.mk_upd_iff]
    | dsimp +zetaDelta only)

theorem keeps_execMinf {s0 : State} (p : Nat) (w : BitVec 24) (s : State) (hk : Keeps s0 s) :
    OutKeeps s0 (execMinf p w s) := by
  unfold execMinf
  repeat' (first
    | with_reducible assumption
    | with_reducible apply OutKeeps.next
    | with_reducible apply keeps_ecm
    | with_reducible intro _
    | extract_lets
    | split
    | simp -zeta only [Keeps.mk_upd_iff]
    | dsimp +zetaDelta only)

theorem keeps_execMaxf {s0 : State} (p : Nat) (w : BitVec 24) (s : State) (hk : Keeps s0 s) :
    OutKeeps s0 (execMaxf p w s) := by
  unfold execMaxf
  repeat' (first
    | with_reducible assumption
    | with_reducible apply OutKeeps.next
    | with_reducible apply keeps_ecm
    | with_reducible intro _
    | extract_lets
    | split
    | simp -zeta only [Keeps.mk_upd_iff]
    | dsimp +zetaDelta only)

theorem keeps_execAddq {s0 : State} (p : Nat) (w : BitVec 24) (s : State) (hk : Keeps s0 s) :
    OutKeeps s0 (execAddq p w s) := by
  unfold execAddq
  repeat' (first
    | with_reducible assumption
    | with_reducible apply OutKeeps.next
    | with_reducible apply keeps_ecm
    | with_reducible intro _
    | extract_lets
    | split
    | simp -zeta only [Keeps.mk_upd_iff]
    | dsimp +zetaDelta only)

theorem keeps_execSubq {s0 : State} (p : Nat) (w : BitVec 24) (s : State) (hk : Keeps s0 s) :
    OutKeeps s0 (execSubq p w s) := by
  unfold execSubq
  repeat' (first
    | with_reducible assumption
    | with_reducible apply OutKeeps.next
    | with_reducible apply keeps_ecm
    | with_reducible intro _
    | extract_lets
    | split
    | simp -zeta only [Keeps.mk_upd_iff]
    | dsimp +zetaDelta only)

theorem keeps_execMulq {s0 : State} (p : Nat) (w : BitVec 24) (s : State) (hk : Keeps s0 s) :
    OutKeeps s0 (execMulq p w s) := by
  unfold execMulq
  repeat' (first
    | with_reducible assumption
    | with_reducible apply OutKeeps.next
    | with_reducible apply keeps_ecm
    | with_reducible intro _
    | extract_lets
    | split
    | simp -zeta only [Keeps.mk_upd_iff]
    | dsimp +zetaDelta only)

theorem keeps_execDivq {s0 : State} (p : Nat) (w : BitVec 24) (s : State) (hk : Keeps s0 s) :
    OutKeeps s0 (execDivq p w s) := by
  unfold execDivq
  repeat' (first
    | with_reducible assumption
    | with_reducible apply OutKeeps.next
    | with_reducible apply keeps_ecm
    | with_reducible intro _
    | extract_lets
    | split
    | simp -zeta only [Keeps.mk_upd_iff]
    | dsimp +zetaDelta only)

theorem keeps_execItf {s0 : State} (p : Nat) (w : BitVec 24) (s : State) (hk : Keeps s0 s) :
    OutKeeps s0 (execItf p w s) := by
  unfold execItf
  repeat' (first
    | with_reducible assumption
    | with_reducible apply OutKeeps.next
    | with_reducible apply keeps_ecm
    | with_reducible intro _
    | extract_lets
    | split
    | simp -zeta only [Keeps.mk_upd_iff]
    | dsimp +zetaDelta only)

theorem keeps_execFti {s0 : State} (p : Nat) (w : BitVec 24) (s : State) (hk : Keeps s0 s) :
    OutKeeps s0 (execFti p w s) := by
  unfold execFti
  repeat' (first
    | with_reducible assumption
    | with_reducible apply OutKeeps.next
    | with_reducible apply keeps_ecm
    | with_reducible intro _
    | extract_lets
    | split
    | simp -zeta only [Keeps.mk_upd_iff]
    | dsimp +zetaDelta only)

theorem keeps_execItq {s0 : State} (p : Nat) (w : BitVec 24) (s : State) (hk : Keeps s0 s) :
    OutKeeps s0 (execItq p w s) := by
  unfold execItq
  repeat' (first
    | with_reducible assumption
    | with_reducible apply OutKeeps.next
    | with_reducible apply keeps_ecm
    | with_reducible intro _
    | extract_lets
    | split
    | simp -zeta only [Keeps.mk_upd_iff]
    | dsimp +zetaDelta only)

theorem keeps_execQti {s0 : State} (p : Nat) (w : BitVec 24) (s : State) (hk : Keeps s0 s) :
    OutKeeps s0 (execQti p w s) := by
  unfold execQti
  repeat' (first
    | with_reducible assumption
    | with_reducible apply OutKeeps.next
    | with_reducible apply keeps_ecm
    | with_reducible intro _
    | extract_lets
    | split
    | simp -zeta only [Keeps.mk_upd_iff]
    | dsimp +zetaDelta only)

theorem keeps_execFtq {s0 : State} (p : Nat) (w : BitVec 24) (s : State) (hk : Keeps s0 s) :
    OutKeeps s0 (execFtq p w s) := by
  unfold execFtq
  repeat' (first
    | with_reducible assumption
    | with_reducible apply OutKeeps.next
    | with_reducible apply keeps_ecm
    | with_reducible intro _
    | extract_lets
    | split
    | simp -zeta only [Keeps.mk_upd_iff]
    | dsimp +zetaDelta only)

theorem keeps_execQtf {s0 : State} (p : Nat) (w : BitVec 24) (s : State) (hk : Keeps s0 s) :
    OutKeeps s0 (execQtf p w s) := by
  unfold execQtf
  repeat' (first
    | with_reducible assumption
    | with_reducible apply OutKeeps.next
    | with_reducible apply keeps_ecm
    | with_reducible intro _
    | extract_lets
    | split
    | simp -zeta only [Keeps.mk_upd_iff]
    | dsimp +zetaDelta only)

theorem keeps_execEqi {s0 : State} (p : Nat) (w : BitVec 24) (s : State) (hk : Keeps s0 s) :
    OutKeeps s0 (execEqi p w s) := by
  unfold execEqi
  repeat' (first
    | with_reducible assumption
    | with_reducible apply OutKeeps.next
    | with_reducible apply keeps_ecm
    | with_reducible intro _
    | extract_lets
    | split
    | simp -zeta only [Keeps.mk_upd_iff]
    | dsimp +zetaDelta only)

theorem keeps_execNei {s0 : State} (p : Nat) (w : BitVec 24) (s : State) (hk : Keeps s0 s) :
    OutKeeps s0 (execNei p w s) := by
  unfold execNei
  repeat' (first
    | with_reducible assumption
    | with_reducible apply OutKeeps.next
    | with_reducible apply keeps_ecm
    | with_reducible intro _
    | extract_lets
    | split
    | simp -zeta only [Keeps.mk_upd_iff]
    | dsimp +zetaDelta only)

theorem keeps_execGti {s0 : State} (p : Nat) (w : BitVec 24) (s : State) (hk : Keeps s0 s) :
    OutKeeps s0 (execGti p w s) := by
  unfold execGti
  repeat' (first
    | with_reducible assumption
    | with_reducible apply OutKeeps.next
    | with_reducible apply keeps_ecm
    | with_reducible intro _
    | extract_lets
    | split
    | simp -zeta only [Keeps.mk_upd_iff]
    | dsimp +zetaDelta only)

theorem keeps_execGei {s0 : State} (p : Nat) (w : BitVec 24) (s : State) (hk : Keeps s0 s) :
    OutKeeps s0 (execGei p w s) := by
  unfold execGei
  repeat' (first
    | with_reducible assumption
    | with_reducible apply OutKeeps.next
    | with_reducible apply keeps_ecm
    | with_reducible intro _
    | extract_lets
    | split
    | simp -zeta only [Keeps.mk_upd_iff]
    | dsimp +zetaDelta only)

theorem keeps_execLti {s0 : State} (p : Nat) (w : BitVec 24) (s : State) (hk : Keeps s0 s) :
    OutKeeps s0 (execLti p w s) := by
  unfold execLti
  repeat' (first
    | with_reducible assumption
    | with_reducible apply OutKeeps.next
    | with_reducible apply keeps_ecm
    | with_reducible intro _
    | extract_lets
    | split
    | simp -zeta only [Keeps.mk_upd_iff]
    | dsimp +zetaDelta only)

theorem keeps_execLei {s0 : State} (p : Nat) (w : BitVec 24) (s : State) (hk : Keeps s0 s) :
    OutKeeps s0 (execLei p w s) := by
  unfold execLei
  repeat' (first
    | with_reducible assumption
    | with_reducible apply OutKeeps.next
    | with_reducible apply keeps_ecm
    | with_reducible intro _
    | extract_lets
    | split
    | simp -zeta only [Keeps.mk_upd_iff]
    | dsimp +zetaDelta only)

theorem keeps_execEqf {s0 : State} (p : Nat) (w : BitVec 24) (s : State) (hk : Keeps s0 s) :
    OutKeeps s0 (execEqf p w s) := by
  unfold execEqf
  repeat' (first
    | with_reducible assumption
    | with_reducible apply OutKeeps.next
    | with_reducible apply keeps_ecm
    | with_reducible intro _
    | extract_lets
    | split
    | simp -zeta only [Keeps.mk_upd_iff]
    | dsimp +zetaDelta only)

theorem keeps_execNef {s0 : State} (p : Nat) (w : BitVec 24) (s : State) (hk : Keeps s0 s) :
    OutKeeps s0 (execNef p w s) := by
  unfold execNef
  repeat' (first
    | with_reducible assumption
    | with_reducible apply OutKeeps.next
    | with_reducible apply keeps_ecm
    | with_reducible intro _
    | extract_lets
    | split
    | simp -zeta only [Keeps.mk_upd_iff]
    | dsimp +zetaDelta only)

theorem keeps_execGtf {s0 : State} (p : Nat) (w : BitVec 24) (s : State) (hk : Keeps s0 s) :
    OutKeeps s0 (execGtf p w s) := by
  unfold execGtf
  repeat' (first
    | with_reducible assumption
    | with_reducible apply OutKeeps.next
    | with_reducible apply keeps_ecm
    | with_reducible intro _
    | extract_lets
    | split
    | simp -zeta only [Keeps.mk_upd_iff]
    | dsimp +zetaDelta only)

theorem keeps_execGef {s0 : State} (p : Nat) (w : BitVec 24) (s : State) (hk : Keeps s0 s) :
    OutKeeps s0 (execGef p w s) := by
  unfold execGef
  repeat' (first
    | with_reducible assumption
    | with_reducible apply OutKeeps.next
    | with_reducible apply keeps_ecm
    | with_reducible intro _
    | extract_lets
    | split
    | simp -zeta only [Keeps.mk_upd_iff]
    | dsimp +zetaDelta only)

theorem keeps_execLtf {s0 : State} (p : Nat) (w : BitVec 24) (s : State) (hk : Keeps s0 s) :
    OutKeeps s0 (execLtf p w s) := by
  unfold execLtf
  repeat' (first
    | with_reducible assumption
    | with_reducible apply OutKeeps.next
    | with_reducible apply keeps_ecm
    | with_reducible intro _
    | extract_lets
    | split
    | simp -zeta only [Keeps.mk_upd_iff]
    | dsimp +zetaDelta only)

theorem keeps_execLef {s0 : State} (p : Nat) (w : BitVec 24) (s : State) (hk : Keeps s0 s) :
    OutKeeps s0 (execLef p w s) := by
  unfold execLef
  repeat' (first
    | with_reducible assumption
    | with_reducible apply OutKeeps.next
    | with_reducible apply keeps_ecm
    | with_reducible intro _
    | extract_lets
    | split
    | simp -zeta only [Keeps.mk_upd_iff]
    | dsimp +zetaDelta only)

theorem keeps_execQset {s0 : State} (p : Nat) (w : BitVec 24) (s : State) (hk : Keeps s0 s) :
    OutKeeps s0 (execQset p w s) := by
  unfold execQset
  repeat' (first
    | with_reducible assumption
    | with_reducible apply OutKeeps.next
    | with_reducible apply keeps_ecm
    | with_reducible intro _
    | extract_lets
    | split
    | simp -zeta only [Keeps.mk_upd_iff]
    | dsimp +zetaDelta only)

theorem keeps_execQclr {s0 : State} (p : Nat) (w : BitVec 24) (s : State) (hk : Keeps s0 s) :
    OutKeeps s0 (execQclr p w s) := by
  unfold execQclr
  repeat' (first
    | with_reducible assumption
    | with_reducible apply OutKeeps.next
    | with_reducible apply keeps_ecm
    | with_reducible intro _
    | extract_lets
    | split
    | simp -zeta only [Keeps.mk_upd_iff]
    | dsimp +zetaDelta only)

theorem keeps_execQget {s0 : State} (p : Nat) (w : BitVec 24) (s : State) (hk : Keeps s0 s) :
    OutKeeps s0 (execQget p w s) := by
  unfold execQget
  repeat' (first
    | with_reducible assumption
    | with_reducible apply OutKeeps.next
    | with_reducible apply keeps_ecm
    | with_reducible intro _
    | extract_lets
    | split
    | simp -zeta only [Keeps.mk_upd_iff]
    | dsimp +zetaDelta only)

theorem keeps_execQput {s0 : State} (p : Nat) (w : BitVec 24) (s : State) (hk : Keeps s0 s) :
    OutKeeps s0 (execQput p w s) := by
  unfold execQput
  repeat' (first
    | with_reducible assumption
    | with_reducible apply OutKeeps.next
    | with_reducible apply keeps_ecm
    | with_reducible intro _
    | extract_lets
    | split
    | simp -zeta only [Keeps.mk_upd_iff]
    | dsimp +zetaDelta only)

/-! ### Machine/EcmControl.lean -/

theorem keeps_execJmp {s0 : State} (p : Nat) (w : BitVec 24) (s : State) (hk : Keeps s0 s) :
    OutKeeps s0 (execJmp p w s) := by
  unfold execJmp
  repeat' (first
    | with_reducible assumption
    | with_reducible apply OutKeeps.next
    | with_reducible apply keeps_ecm
    | with_reducible intro _
    | extract_lets
    | split
    | simp -zeta only [Keeps.mk_upd_iff]
    | dsimp +zetaDelta only)

theorem keeps_execJt {s0 : State} (p : Nat) (w : BitVec 24) (s : State) (hk : Keeps s0 s) :
    OutKeeps s0 (execJt p w s) := by
  unfold execJt
  repeat' (first
    | with_reducible assumption
    | with_reducible apply OutKeeps.next
    | with_reducible apply keeps_ecm
    | with_reducible intro _
    | extract_lets
    | split
    | simp -zeta only [Keeps.mk_upd_iff]
    | dsimp +zetaDelta only)

theorem keeps_execJf {s0 : State} (p : Nat) (w : BitVec 24) (s : State) (hk : Keeps s0 s) :
    OutKeeps s0 (execJf p w s) := by
  unfold execJf
  repeat' (first
    | with_reducible assumption
    | with_reducible apply OutKeeps.next
    | with_reducible apply keeps_ecm
    | with_reducible intro _
    | extract_lets
    | split
    | simp -zeta only [Keeps.mk_upd_iff]
    | dsimp +zetaDelta only)

theorem keeps_execJz {s0 : State} (p : Nat) (w : BitVec 24) (s : State) (hk : Keeps s0 s) :
    OutKeeps s0 (execJz p w s) := by
  unfold execJz
  repeat' (first
    | with_reducible assumption
    | with_reducible apply OutKeeps.next
    | with_reducible apply keeps_ecm
    | with_reducible intro _
    | extract_lets
    | split
    | simp -zeta only [Keeps.mk_upd_iff]
    | dsimp +zetaDelta only)

theorem keeps_execJnz {s0 : State} (p : Nat) (w : BitVec 24) (s : State) (hk : Keeps s0 s) :
    OutKeeps s0 (execJnz p w s) := by
  unfold execJnz
  repeat' (first
    | with_reducible assumption
    | with_reducible apply OutKeeps.next
    | with_reducible apply keeps_ecm
    | with_reducible intro _
    | extract_lets
    | split
    | simp -zeta only [Keeps.mk_upd_iff]
    | dsimp +zetaDelta only)

theorem keeps_execJneg {s0 : State} (p : Nat) (w : BitVec 24) (s : State) (hk : Keeps s0 s) :
    OutKeeps s0 (execJneg p w s) := by
  unfold execJneg
  repeat' (first
    | with_reducible assumption
    | with_reducible apply OutKeeps.next
    | with_reducible apply keeps_ecm
    | with_reducible intro _
    | extract_lets
    | split
    | simp -zeta only [Keeps.mk_upd_iff]
    | dsimp +zetaDelta only)

theorem keeps_execJpos {s0 : State} (p : Nat) (w : BitVec 24) (s : State) (hk : Keeps s0 s) :
    OutKeeps s0 (execJpos p w s) := by
  unfold execJpos
  repeat' (first
    | with_reducible assumption
    | with_reducible apply OutKeeps.next
    | with_reducible apply keeps_ecm
    | with_reducible intro _
    | extract_lets
    | split
    | simp -zeta only [Keeps.mk_upd_iff]
    | dsimp +zetaDelta only)

theorem keeps_execLoopOp {s0 : State} (p : Nat) (w : BitVec 24) (s : State) (hk : Keeps s0 s) :
    OutKeeps s0 (execLoopOp p w s) := by
  unfold execLoopOp
  repeat' (first
    | with_reducible assumption
    | with_reducible apply OutKeeps.next
    | with_reducible apply keeps_ecm
    | with_reducible intro _
    | extract_lets
    | split
    | simp -zeta only [Keeps.mk_upd_iff]
    | dsimp +zetaDelta only)

theorem keeps_execEndl {s0 : State} (p : Nat) (w : BitVec 24) (s : State) (hk : Keeps s0 s) :
    OutKeeps s0 (execEndl p w s) := by
  unfold execEndl
  repeat' (first
    | with_reducible assumption
    | with_reducible apply OutKeeps.next
    | with_reducible apply keeps_ecm
    | with_reducible intro _
    | extract_lets
    | split
    | simp -zeta only [Keeps.mk_upd_iff]
    | dsimp +zetaDelta only)

theorem keeps_execLexit {s0 : State} (p : Nat) (w : BitVec 24) (s : State) (hk : Keeps s0 s) :
    OutKeeps s0 (execLexit p w s) := by
  unfold execLexit
  repeat' (first
    | with_reducible assumption
    | with_reducible apply OutKeeps.next
    | with_reducible apply keeps_ecm
    | with_reducible intro _
    | extract_lets
    | split
    | simp -zeta only [Keeps.mk_upd_iff]
    | dsimp +zetaDelta only)

theorem keeps_execLexitc {s0 : State} (p : Nat) (w : BitVec 24) (s : State) (hk : Keeps s0 s) :
    OutKeeps s0 (execLexitc p w s) := by
  unfold execLexitc
  repeat' (first
    | with_reducible assumption
    | with_reducible apply OutKeeps.next
    | with_reducible apply keeps_ecm
    | with_reducible intro _
    | extract_lets
    | split
    | simp -zeta only [Keeps.mk_upd_iff]
    | dsimp +zetaDelta only)

theorem keeps_execCallS {s0 : State} (p : Nat) (w : BitVec 24) (s : State) (hk : Keeps s0 s) :
    OutKeeps s0 (execCallS p w s) := by
  unfold execCallS
  repeat' (first
    | with_reducible assumption
    | with_reducible apply OutKeeps.next
    | with_reducible apply keeps_ecm
    | with_reducible intro _
    | extract_lets
    | split
    | simp -zeta only [Keeps.mk_upd_iff]
    | dsimp +zetaDelta only)

theorem keeps_execRet {s0 : State} (p : Nat) (w : BitVec 24) (s : State) (hk : Keeps s0 s) :
    OutKeeps s0 (execRet p w s) := by
  unfold execRet
  repeat' (first
    | with_reducible assumption
    | with_reducible apply OutKeeps.next
    | with_reducible apply keeps_ecm
    | with_reducible intro _
    | extract_lets
    | split
    | simp -zeta only [Keeps.mk_upd_iff]
    | dsimp +zetaDelta only)

theorem keeps_execRetc {s0 : State} (p : Nat) (w : BitVec 24) (s : State) (hk : Keeps s0 s) :
    OutKeeps s0 (execRetc p w s) := by
  unfold execRetc
  repeat' (first
    | with_reducible assumption
    | with_reducible apply OutKeeps.next
    | with_reducible apply keeps_ecm
    | with_reducible intro _
    | extract_lets
    | split
    | simp -zeta only [Keeps.mk_upd_iff]
    | dsimp +zetaDelta only)

theorem keeps_completeSection {s0 : State} (p : Nat) (r : SecRun) (s : State) (hk : Keeps s0 s) :
    Keeps s0 (completeSection p r s) := by
  unfold completeSection
  repeat' (first
    | with_reducible assumption
    | with_reducible apply keeps_putFlt
    | with_reducible apply keeps_sceneCheck
    | with_reducible apply keeps_freePair
    | with_reducible apply keeps_markSlot
    | with_reducible apply keeps_done
    | with_reducible intro _
    | extract_lets
    | split
    | simp -zeta only [Keeps.mk_upd_iff]
    | dsimp +zetaDelta only)

theorem keeps_execEndS {s0 : State} (p : Nat) (w : BitVec 24) (s : State) (hk : Keeps s0 s) :
    OutKeeps s0 (execEndS p w s) := by
  unfold execEndS
  repeat' (first
    | with_reducible assumption
    | with_reducible apply OutKeeps.next
    | with_reducible apply keeps_haltSection
    | with_reducible apply keeps_completeSection
    | with_reducible intro _
    | extract_lets
    | split
    | simp -zeta only [Keeps.mk_upd_iff]
    | dsimp +zetaDelta only)

theorem keeps_execSectionBudget {s0 : State} (p : Nat) (s : State) (hk : Keeps s0 s) :
    OutKeeps s0 (execSectionBudget p s) := by
  unfold execSectionBudget
  repeat' (first
    | with_reducible assumption
    | with_reducible apply OutKeeps.next
    | with_reducible apply keeps_haltSection
    | with_reducible intro _
    | extract_lets
    | split
    | simp -zeta only [Keeps.mk_upd_iff]
    | dsimp +zetaDelta only)

theorem keeps_execReservedEncoding {s0 : State} (p : Nat) (enc : Word) (s : State) (hk : Keeps s0 s) :
    OutKeeps s0 (execReservedEncoding p enc s) := by
  unfold execReservedEncoding
  repeat' (first
    | with_reducible assumption
    | with_reducible apply OutKeeps.next
    | with_reducible apply keeps_haltSection
    | with_reducible intro _
    | extract_lets
    | split
    | simp -zeta only [Keeps.mk_upd_iff]
    | dsimp +zetaDelta only)

theorem keeps_execLsp {s0 : State} (p : Nat) (w : BitVec 24) (s : State) (hk : Keeps s0 s) :
    OutKeeps s0 (execLsp p w s) := by
  unfold execLsp
  repeat' (first
    | with_reducible assumption
    | with_reducible apply OutKeeps.next
    | with_reducible apply keeps_ecm
    | with_reducible intro _
    | extract_lets
    | split
    | simp -zeta only [Keeps.mk_upd_iff]
    | dsimp +zetaDelta only)

theorem keeps_execLman {s0 : State} (p : Nat) (w : BitVec 24) (s : State) (hk : Keeps s0 s) :
    OutKeeps s0 (execLman p w s) := by
  unfold execLman
  repeat' (first
    | with_reducible assumption
    | with_reducible apply OutKeeps.next
    | with_reducible apply keeps_ecm
    | with_reducible intro _
    | extract_lets
    | split
    | simp -zeta only [Keeps.mk_upd_iff]
    | dsimp +zetaDelta only)

theorem keeps_execLtrk {s0 : State} (p : Nat) (w : BitVec 24) (s : State) (hk : Keeps s0 s) :
    OutKeeps s0 (execLtrk p w s) := by
  unfold execLtrk
  repeat' (first
    | with_reducible assumption
    | with_reducible apply OutKeeps.next
    | with_reducible apply keeps_ecm
    | with_reducible intro _
    | extract_lets
    | split
    | simp -zeta only [Keeps.mk_upd_iff]
    | dsimp +zetaDelta only)

theorem keeps_execLmode {s0 : State} (p : Nat) (w : BitVec 24) (s : State) (hk : Keeps s0 s) :
    OutKeeps s0 (execLmode p w s) := by
  unfold execLmode
  repeat' (first
    | with_reducible assumption
    | with_reducible apply OutKeeps.next
    | with_reducible apply keeps_ecm
    | with_reducible intro _
    | extract_lets
    | split
    | simp -zeta only [Keeps.mk_upd_iff]
    | dsimp +zetaDelta only)

theorem keeps_execLrd {s0 : State} (p : Nat) (w : BitVec 24) (s : State) (hk : Keeps s0 s) :
    OutKeeps s0 (execLrd p w s) := by
  unfold execLrd
  repeat' (first
    | with_reducible assumption
    | with_reducible apply OutKeeps.next
    | with_reducible apply keeps_ecm
    | with_reducible intro _
    | extract_lets
    | split
    | simp -zeta only [Keeps.mk_upd_iff]
    | dsimp +zetaDelta only)

theorem keeps_execEvt {s0 : State} (p : Nat) (w : BitVec 24) (s : State) (hk : Keeps s0 s) :
    OutKeeps s0 (execEvt p w s) := by
  unfold execEvt
  repeat' (first
    | with_reducible assumption
    | with_reducible apply OutKeeps.next
    | with_reducible apply keeps_ecm
    | with_reducible intro _
    | extract_lets
    | split
    | simp -zeta only [Keeps.mk_upd_iff]
    | dsimp +zetaDelta only)

theorem keeps_execNop {s0 : State} (p : Nat) (w : BitVec 24) (s : State) (hk : Keeps s0 s) :
    OutKeeps s0 (execNop p w s) := by
  unfold execNop
  repeat' (first
    | with_reducible assumption
    | with_reducible apply OutKeeps.next
    | with_reducible apply keeps_ecm
    | exact id ‹_›
    | with_reducible intro _
    | extract_lets
    | split
    | simp -zeta only [Keeps.mk_upd_iff]
    | dsimp +zetaDelta only)

theorem keeps_execLmt {s0 : State} (p : Nat) (w : BitVec 24) (s : State) (hk : Keeps s0 s) :
    OutKeeps s0 (execLmt p w s) := by
  unfold execLmt
  repeat' (first
    | with_reducible assumption
    | with_reducible apply OutKeeps.next
    | with_reducible apply keeps_ecm
    | with_reducible intro _
    | extract_lets
    | split
    | simp -zeta only [Keeps.mk_upd_iff]
    | dsimp +zetaDelta only)

theorem keeps_execLmth {s0 : State} (p : Nat) (w : BitVec 24) (s : State) (hk : Keeps s0 s) :
    OutKeeps s0 (execLmth p w s) := by
  unfold execLmth
  repeat' (first
    | with_reducible assumption
    | with_reducible apply OutKeeps.next
    | with_reducible apply keeps_ecm
    | with_reducible intro _
    | extract_lets
    | split
    | simp -zeta only [Keeps.mk_upd_iff]
    | dsimp +zetaDelta only)

theorem keeps_execLflt {s0 : State} (p : Nat) (w : BitVec 24) (s : State) (hk : Keeps s0 s) :
    OutKeeps s0 (execLflt p w s) := by
  unfold execLflt
  repeat' (first
    | with_reducible assumption
    | with_reducible apply OutKeeps.next
    | with_reducible apply keeps_ecm
    | with_reducible intro _
    | extract_lets
    | split
    | simp -zeta only [Keeps.mk_upd_iff]
    | dsimp +zetaDelta only)

theorem keeps_execLidx {s0 : State} (p : Nat) (w : BitVec 24) (s : State) (hk : Keeps s0 s) :
    OutKeeps s0 (execLidx p w s) := by
  unfold execLidx
  repeat' (first
    | with_reducible assumption
    | with_reducible apply OutKeeps.next
    | with_reducible apply keeps_ecm
    | with_reducible intro _
    | extract_lets
    | split
    | simp -zeta only [Keeps.mk_upd_iff]
    | dsimp +zetaDelta only)

theorem keeps_execLstw {s0 : State} (p : Nat) (w : BitVec 24) (s : State) (hk : Keeps s0 s) :
    OutKeeps s0 (execLstw p w s) := by
  unfold execLstw
  repeat' (first
    | with_reducible assumption
    | with_reducible apply OutKeeps.next
    | with_reducible apply keeps_ecm
    | with_reducible intro _
    | extract_lets
    | split
    | simp -zeta only [Keeps.mk_upd_iff]
    | dsimp +zetaDelta only)

theorem keeps_execCstw {s0 : State} (p : Nat) (w : BitVec 24) (s : State) (hk : Keeps s0 s) :
    OutKeeps s0 (execCstw p w s) := by
  unfold execCstw
  repeat' (first
    | with_reducible assumption
    | with_reducible apply OutKeeps.next
    | with_reducible apply keeps_ecm
    | with_reducible intro _
    | extract_lets
    | split
    | simp -zeta only [Keeps.mk_upd_iff]
    | dsimp +zetaDelta only)

/-! ### Machine/Modstate.lean -/

theorem keeps_refreshMod {s0 : State} (s : State) (hk : Keeps s0 s) :
    Keeps s0 (refreshMod s) := by
  unfold refreshMod
  repeat' (first
    | with_reducible assumption
    | with_reducible apply keeps_logEv
    | with_reducible intro _
    | extract_lets
    | split
    | simp -zeta only [Keeps.mk_upd_iff]
    | dsimp +zetaDelta only)

theorem keeps_predict {s0 : State} (cause : Nat) (s : State) (hk : Keeps s0 s) :
    Keeps s0 (predict cause s) := by
  unfold predict
  repeat' (first
    | with_reducible assumption
    | with_reducible apply keeps_logEv
    | with_reducible intro _
    | extract_lets
    | split
    | simp -zeta only [Keeps.mk_upd_iff]
    | dsimp +zetaDelta only)

theorem keeps_unpredict {s0 : State} (cause : Nat) (s : State) (hk : Keeps s0 s) :
    Keeps s0 (unpredict cause s) := by
  unfold unpredict
  repeat' (first
    | with_reducible assumption
    | with_reducible intro _
    | extract_lets
    | split
    | simp -zeta only [Keeps.mk_upd_iff]
    | dsimp +zetaDelta only)

end Sys2Proof.Machine
end

