-- ==== Sys2Proof/Laws/KeepsSlate.lean ====
section
/-! SUPPORT. What the loop engine, the logic engine and the slate keep of a state: the queue, the clock, the variant, the count
of free values, and a sound point image and sound tables. One lemma for each operation and for each meaning. -/

namespace Sys2Proof.Machine
open Sys2Proof

/-! ### Machine/Burst.lean -/

theorem keeps_takeStamp {s0 : State} (stamp : Nat) (s : State) (hk : Keeps s0 s) :
    Keeps s0 (takeStamp stamp s) := by
  unfold takeStamp
  repeat' (first
    | with_reducible assumption
    | with_reducible intro _
    | extract_lets
    | split
    | simp -zeta only [Keeps.mk_upd_iff]
    | dsimp +zetaDelta only
    | (with_reducible apply Keeps.mk_sound) <;> first
        | exact id
        | exact Table.wf_set
        | exact fun _ => Table.wf_nil
        | exact fun x => ⟨Table.wf_set x.1, x.2⟩
        | exact fun x => ⟨x.1, Table.wf_set x.2⟩
        | exact fun x => ⟨x.2, x.2⟩
        | exact fun x => PointsOk.like x rfl rfl rfl
        | exact fun x => PointsOk.retain x rfl rfl rfl
        | exact fun x => PointsOk.restore x rfl rfl rfl
        | exact fun x => PointsOk.frozen x rfl rfl rfl
        | exact fun x => PointsOk.put x (quality_masked _)
        | exact fun x => PointsOk.putRetained x (quality_masked _)
        | skip
    | fail)

theorem keeps_slotField {s0 : State} (h : FrameHdr) (differ : Bool) (s : State) (hk : Keeps s0 s) :
    Keeps s0 (slotField h differ s).2 := by
  unfold slotField
  repeat' (first
    | with_reducible assumption
    | with_reducible intro _
    | extract_lets
    | split
    | dsimp only
    | simp -zeta only [Keeps.mk_upd_iff]
    | dsimp +zetaDelta only
    | (with_reducible apply Keeps.mk_sound) <;> first
        | exact id
        | exact Table.wf_set
        | exact fun _ => Table.wf_nil
        | exact fun x => ⟨Table.wf_set x.1, x.2⟩
        | exact fun x => ⟨x.1, Table.wf_set x.2⟩
        | exact fun x => ⟨x.2, x.2⟩
        | exact fun x => PointsOk.like x rfl rfl rfl
        | exact fun x => PointsOk.retain x rfl rfl rfl
        | exact fun x => PointsOk.restore x rfl rfl rfl
        | exact fun x => PointsOk.frozen x rfl rfl rfl
        | exact fun x => PointsOk.put x (quality_masked _)
        | exact fun x => PointsOk.putRetained x (quality_masked _)
        | skip
    | fail)

theorem keeps_slotCore {s0 : State} (h : FrameHdr) (differ : Bool) (s : State) (hk : Keeps s0 s) :
    Keeps s0 (slotCore h differ s).2 := by
  unfold slotCore
  repeat' (first
    | with_reducible assumption
    | with_reducible apply keeps_logEv
    | with_reducible intro _
    | extract_lets
    | split
    | dsimp only
    | simp -zeta only [Keeps.mk_upd_iff]
    | dsimp +zetaDelta only)

theorem keeps_fieldSlot {s0 : State} (kind sub : Nat) (pay : List Byte) (h : FrameHdr) (f : State → State) (s : State) (hk : Keeps s0 s)
    (hk_f : ∀ t, Keeps s0 t → Keeps s0 (f t)) :
    Keeps s0 (fieldSlot kind sub pay h f s) := by
  unfold fieldSlot
  repeat' (first
    | with_reducible assumption
    | with_reducible apply hk_f
    | with_reducible apply keeps_slotField
    | with_reducible apply keeps_takeStamp
    | with_reducible intro _
    | extract_lets
    | split
    | dsimp only
    | simp -zeta only [Keeps.mk_upd_iff]
    | dsimp +zetaDelta only)

theorem keeps_toField {s0 : State} (kind sub : Nat) (pay : List Byte) (h : FrameHdr) (f : State → State) (s : State) (hk : Keeps s0 s)
    (hk_f : ∀ t, Keeps s0 t → Keeps s0 (f t)) :
    OutKeeps s0 (toField kind sub pay h f s) := by
  unfold toField
  repeat' (first
    | with_reducible assumption
    | with_reducible apply outKeeps_whenUp
    | with_reducible apply OutKeeps.next
    | with_reducible apply hk_f
    | with_reducible apply keeps_fieldSlot
    | with_reducible intro _
    | extract_lets
    | split
    | simp -zeta only [Keeps.mk_upd_iff]
    | dsimp +zetaDelta only)

theorem keeps_coreSlot {s0 : State} (kind sub : Nat) (pay : List Byte) (h : FrameHdr) (f : State → State) (s : State) (hk : Keeps s0 s)
    (hk_f : ∀ t, Keeps s0 t → Keeps s0 (f t)) :
    Keeps s0 (coreSlot kind sub pay h f s) := by
  unfold coreSlot
  repeat' (first
    | with_reducible assumption
    | with_reducible apply hk_f
    | with_reducible apply keeps_slotCore
    | with_reducible intro _
    | extract_lets
    | split
    | dsimp only
    | simp -zeta only [Keeps.mk_upd_iff]
    | dsimp +zetaDelta only)

theorem keeps_toCore {s0 : State} (kind sub : Nat) (pay : List Byte) (h : FrameHdr) (f : State → State) (s : State) (hk : Keeps s0 s)
    (hk_f : ∀ t, Keeps s0 t → Keeps s0 (f t)) :
    OutKeeps s0 (toCore kind sub pay h f s) := by
  unfold toCore
  repeat' (first
    | with_reducible assumption
    | with_reducible apply outKeeps_whenUp
    | with_reducible apply OutKeeps.next
    | with_reducible apply hk_f
    | with_reducible apply keeps_coreSlot
    | with_reducible intro _
    | extract_lets
    | split
    | simp -zeta only [Keeps.mk_upd_iff]
    | dsimp +zetaDelta only)

/-! ### Machine/Loops.lean -/

theorem keeps_dropDue {s0 : State} (n : Nat) (s : State) (hk : Keeps s0 s) :
    Keeps s0 (dropDue n s) := by
  unfold dropDue
  repeat' (first
    | with_reducible assumption
    | with_reducible intro _
    | extract_lets
    | split
    | simp -zeta only [Keeps.mk_upd_iff]
    | dsimp +zetaDelta only
    | (with_reducible apply Keeps.mk_sound) <;> first
        | exact id
        | exact Table.wf_set
        | exact fun _ => Table.wf_nil
        | exact fun x => ⟨Table.wf_set x.1, x.2⟩
        | exact fun x => ⟨x.1, Table.wf_set x.2⟩
        | exact fun x => ⟨x.2, x.2⟩
        | exact fun x => PointsOk.like x rfl rfl rfl
        | exact fun x => PointsOk.retain x rfl rfl rfl
        | exact fun x => PointsOk.restore x rfl rfl rfl
        | exact fun x => PointsOk.frozen x rfl rfl rfl
        | exact fun x => PointsOk.put x (quality_masked _)
        | exact fun x => PointsOk.putRetained x (quality_masked _)
        | skip
    | fail)

theorem keeps_retainLoop {s0 : State} (n : Nat) (s : State) (hk : Keeps s0 s) :
    Keeps s0 (retainLoop n s) := by
  unfold retainLoop
  repeat' (first
    | with_reducible assumption
    | with_reducible intro _
    | extract_lets
    | split
    | simp -zeta only [Keeps.mk_upd_iff]
    | dsimp +zetaDelta only
    | (with_reducible apply Keeps.mk_sound) <;> first
        | exact id
        | exact Table.wf_set
        | exact fun _ => Table.wf_nil
        | exact fun x => ⟨Table.wf_set x.1, x.2⟩
        | exact fun x => ⟨x.1, Table.wf_set x.2⟩
        | exact fun x => ⟨x.2, x.2⟩
        | exact fun x => PointsOk.like x rfl rfl rfl
        | exact fun x => PointsOk.retain x rfl rfl rfl
        | exact fun x => PointsOk.restore x rfl rfl rfl
        | exact fun x => PointsOk.frozen x rfl rfl rfl
        | exact fun x => PointsOk.put x (quality_masked _)
        | exact fun x => PointsOk.putRetained x (quality_masked _)
        | skip
    | fail)

theorem keeps_coldLoop {s0 : State} (n : Nat) (s : State) (hk : Keeps s0 s) :
    Keeps s0 (coldLoop n s) := by
  unfold coldLoop
  repeat' (first
    | with_reducible assumption
    | with_reducible apply keeps_retainLoop
    | with_reducible apply keeps_dropDue
    | with_reducible apply keeps_putLoop
    | with_reducible intro _
    | extract_lets
    | split
    | simp -zeta only [Keeps.mk_upd_iff]
    | dsimp +zetaDelta only)

theorem keeps_loopEnterFb {s0 : State} (n : Nat) (s : State) (hk : Keeps s0 s) :
    Keeps s0 (loopEnterFb n s) := by
  unfold loopEnterFb
  repeat' (first
    | with_reducible assumption
    | with_reducible apply keeps_putLoop
    | with_reducible intro _
    | extract_lets
    | split
    | simp -zeta only [Keeps.mk_upd_iff]
    | dsimp +zetaDelta only)

theorem keeps_loopLeaveFb {s0 : State} (n : Nat) (s : State) (hk : Keeps s0 s) :
    Keeps s0 (loopLeaveFb n s) := by
  unfold loopLeaveFb
  repeat' (first
    | with_reducible assumption
    | with_reducible apply keeps_putLoop
    | with_reducible intro _
    | extract_lets
    | split
    | simp -zeta only [Keeps.mk_upd_iff]
    | dsimp +zetaDelta only)

theorem keeps_loopCommands {s0 : State} (n : Nat) (c : LoopCmd) (s : State) (hk : Keeps s0 s) :
    Keeps s0 (loopCommands n c s) := by
  unfold loopCommands
  repeat' (first
    | with_reducible assumption
    | with_reducible apply keeps_putLoop
    | with_reducible intro _
    | extract_lets
    | split
    | simp -zeta only [Keeps.mk_upd_iff]
    | dsimp +zetaDelta only)

theorem keeps_groupSample {s0 : State} (step lead : Nat) (dp : List Nat) (s : State) (hk : Keeps s0 s) :
    Keeps s0 (groupSample step lead dp s) := by
  unfold groupSample
  extract_lets d frz mode trk ms g s1 s2
  refine keeps_foldS _ _ _ ?_ (fun _ _ h => keeps_retainLoop _ _ h)
  have h1 : Keeps s0 s1 := keeps_foldS _ _ _ hk (fun _ _ h => keeps_putLoop _ _ _ h)
  exact ⟨h1.pending, h1.now, h1.variant, h1.draws, h1.image, fun x => { h1.tables x with }⟩

theorem keeps_groupVoid {s0 : State} (lead : Nat) (dp : List Nat) (s : State) (hk : Keeps s0 s) :
    Keeps s0 (groupVoid lead dp s) := by
  unfold groupVoid
  repeat' (first
    | with_reducible assumption
    | with_reducible apply keeps_foldS
    | with_reducible apply keeps_retainLoop
    | with_reducible apply keeps_putLoop
    | with_reducible apply keeps_spoilProof
    | with_reducible intro _
    | extract_lets
    | split
    | simp -zeta only [Keeps.mk_upd_iff]
    | dsimp +zetaDelta only)

theorem keeps_engineOut {s0 : State} (s : State) (hk : Keeps s0 s) :
    Keeps s0 (engineOut s) := by
  unfold engineOut
  repeat' (first
    | with_reducible assumption
    | with_reducible apply keeps_foldS
    | with_reducible apply keeps_mapQual
    | with_reducible apply keeps_putLoop
    | with_reducible apply keeps_spoilProof
    | with_reducible apply keeps_refreshMod
    | with_reducible intro _
    | extract_lets
    | split
    | simp -zeta only [Keeps.mk_upd_iff]
    | dsimp +zetaDelta only
    | (with_reducible apply Keeps.mk_sound) <;> first
        | exact id
        | exact Table.wf_set
        | exact fun _ => Table.wf_nil
        | exact fun x => ⟨Table.wf_set x.1, x.2⟩
        | exact fun x => ⟨x.1, Table.wf_set x.2⟩
        | exact fun x => ⟨x.2, x.2⟩
        | exact fun x => PointsOk.like x rfl rfl rfl
        | exact fun x => PointsOk.retain x rfl rfl rfl
        | exact fun x => PointsOk.restore x rfl rfl rfl
        | exact fun x => PointsOk.frozen x rfl rfl rfl
        | exact fun x => PointsOk.put x (quality_masked _)
        | exact fun x => PointsOk.putRetained x (quality_masked _)
        | skip
    | fail)

theorem keeps_doubleDisagree {s0 : State} (lead : Nat) (s : State) (hk : Keeps s0 s) :
    Keeps s0 (doubleDisagree lead s) := by
  unfold doubleDisagree
  repeat' (first
    | with_reducible assumption
    | with_reducible apply keeps_engineOut
    | with_reducible apply keeps_logEv
    | with_reducible intro _
    | extract_lets
    | split
    | simp -zeta only [Keeps.mk_upd_iff]
    | dsimp +zetaDelta only
    | (with_reducible apply Keeps.mk_sound) <;> first
        | exact id
        | exact Table.wf_set
        | exact fun _ => Table.wf_nil
        | exact fun x => ⟨Table.wf_set x.1, x.2⟩
        | exact fun x => ⟨x.1, Table.wf_set x.2⟩
        | exact fun x => ⟨x.2, x.2⟩
        | exact fun x => PointsOk.like x rfl rfl rfl
        | exact fun x => PointsOk.retain x rfl rfl rfl
        | exact fun x => PointsOk.restore x rfl rfl rfl
        | exact fun x => PointsOk.frozen x rfl rfl rfl
        | exact fun x => PointsOk.put x (quality_masked _)
        | exact fun x => PointsOk.putRetained x (quality_masked _)
        | skip
    | fail)

theorem keeps_execLoopSample {s0 : State} (off : Nat) (mis : List (Nat × Bool)) (s : State) (hk : Keeps s0 s) :
    OutKeeps s0 (execLoopSample off mis s) := by
  unfold execLoopSample
  repeat' (first
    | with_reducible assumption
    | with_reducible apply outKeeps_whenUpAnd
    | with_reducible apply OutKeeps.next
    | with_reducible apply keeps_foldS
    | with_reducible apply keeps_doubleDisagree
    | with_reducible apply keeps_groupVoid
    | with_reducible apply keeps_groupSample
    | with_reducible intro _
    | extract_lets
    | split
    | dsimp only
    | simp -zeta only [Keeps.mk_upd_iff]
    | dsimp +zetaDelta only
    | (with_reducible apply Keeps.mk_sound) <;> first
        | exact id
        | exact Table.wf_set
        | exact fun _ => Table.wf_nil
        | exact fun x => ⟨Table.wf_set x.1, x.2⟩
        | exact fun x => ⟨x.1, Table.wf_set x.2⟩
        | exact fun x => ⟨x.2, x.2⟩
        | exact fun x => PointsOk.like x rfl rfl rfl
        | exact fun x => PointsOk.retain x rfl rfl rfl
        | exact fun x => PointsOk.restore x rfl rfl rfl
        | exact fun x => PointsOk.frozen x rfl rfl rfl
        | exact fun x => PointsOk.put x (quality_masked _)
        | exact fun x => PointsOk.putRetained x (quality_masked _)
        | skip
    | fail)

theorem keeps_loopToField {s0 : State} (off pt : Nat) (s : State) (hk : Keeps s0 s) :
    Keeps s0 (loopToField off pt s) := by
  unfold loopToField
  repeat' (first
    | with_reducible assumption
    | with_reducible intro _
    | extract_lets
    | split
    | simp -zeta only [Keeps.mk_upd_iff]
    | dsimp +zetaDelta only)

theorem keeps_writeDue {s0 : State} (off : Nat) (o : DueOut) (s : State) (hk : Keeps s0 s) :
    Keeps s0 (writeDue off o s) := by
  unfold writeDue
  repeat' (first
    | with_reducible assumption
    | with_reducible apply keeps_foldS
    | with_reducible apply keeps_putPoint
    | with_reducible apply keeps_putLoop
    | with_reducible apply keeps_loopToField
    | with_reducible intro _
    | extract_lets
    | split
    | simp -zeta only [Keeps.mk_upd_iff]
    | dsimp +zetaDelta only)

theorem keeps_execLoopOutputWrite {s0 : State} (off : Nat) (s : State) (hk : Keeps s0 s) :
    OutKeeps s0 (execLoopOutputWrite off s) := by
  unfold execLoopOutputWrite
  repeat' (first
    | with_reducible assumption
    | with_reducible apply outKeeps_whenUpAnd
    | with_reducible apply OutKeeps.next
    | with_reducible apply keeps_foldS
    | with_reducible apply keeps_writeDue
    | with_reducible intro _
    | extract_lets
    | split
    | simp -zeta only [Keeps.mk_upd_iff]
    | dsimp +zetaDelta only
    | (with_reducible apply Keeps.mk_sound) <;> first
        | exact id
        | exact Table.wf_set
        | exact fun _ => Table.wf_nil
        | exact fun x => ⟨Table.wf_set x.1, x.2⟩
        | exact fun x => ⟨x.1, Table.wf_set x.2⟩
        | exact fun x => ⟨x.2, x.2⟩
        | exact fun x => PointsOk.like x rfl rfl rfl
        | exact fun x => PointsOk.retain x rfl rfl rfl
        | exact fun x => PointsOk.restore x rfl rfl rfl
        | exact fun x => PointsOk.frozen x rfl rfl rfl
        | exact fun x => PointsOk.put x (quality_masked _)
        | exact fun x => PointsOk.putRetained x (quality_masked _)
        | skip
    | fail)

theorem keeps_execLoopEngineKat {s0 : State} (pass : Bool) (s : State) (hk : Keeps s0 s) :
    OutKeeps s0 (execLoopEngineKat pass s) := by
  unfold execLoopEngineKat
  repeat' (first
    | with_reducible assumption
    | with_reducible apply outKeeps_whenUpAnd
    | with_reducible apply OutKeeps.next
    | with_reducible apply keeps_engineOut
    | with_reducible apply keeps_logEv
    | with_reducible intro _
    | extract_lets
    | split
    | simp -zeta only [Keeps.mk_upd_iff]
    | dsimp +zetaDelta only
    | (with_reducible apply Keeps.mk_sound) <;> first
        | exact id
        | exact Table.wf_set
        | exact fun _ => Table.wf_nil
        | exact fun x => ⟨Table.wf_set x.1, x.2⟩
        | exact fun x => ⟨x.1, Table.wf_set x.2⟩
        | exact fun x => ⟨x.2, x.2⟩
        | exact fun x => PointsOk.like x rfl rfl rfl
        | exact fun x => PointsOk.retain x rfl rfl rfl
        | exact fun x => PointsOk.restore x rfl rfl rfl
        | exact fun x => PointsOk.frozen x rfl rfl rfl
        | exact fun x => PointsOk.put x (quality_masked _)
        | exact fun x => PointsOk.putRetained x (quality_masked _)
        | skip
    | fail)

/-! ### Machine/Engine.lean -/

theorem keeps_enterFallback {s0 : State} (k st : Nat) (s : State) (hk : Keeps s0 s) :
    Keeps s0 (enterFallback k st s) := by
  unfold enterFallback
  repeat' (first
    | with_reducible assumption
    | with_reducible apply keeps_putStg
    | with_reducible apply keeps_logEv
    | with_reducible intro _
    | extract_lets
    | split
    | simp -zeta only [Keeps.mk_upd_iff]
    | dsimp +zetaDelta only)

theorem keeps_leaveFallback {s0 : State} (k st : Nat) (s : State) (hk : Keeps s0 s) :
    Keeps s0 (leaveFallback k st s) := by
  unfold leaveFallback
  repeat' (first
    | with_reducible assumption
    | with_reducible apply keeps_foldS
    | with_reducible apply keeps_putStg
    | with_reducible apply keeps_loopLeaveFb
    | with_reducible apply keeps_logEv
    | with_reducible intro _
    | extract_lets
    | split
    | simp -zeta only [Keeps.mk_upd_iff]
    | dsimp +zetaDelta only)

theorem keeps_lanesGone {s0 : State} (s : State) (hk : Keeps s0 s) :
    Keeps s0 (lanesGone s) := by
  unfold lanesGone
  repeat' (first
    | with_reducible assumption
    | with_reducible apply keeps_foldS
    | with_reducible apply keeps_enterFallback
    | with_reducible intro _
    | extract_lets
    | split
    | simp -zeta only [Keeps.mk_upd_iff]
    | dsimp +zetaDelta only)

theorem keeps_retirePair {s0 : State} (p cause : Nat) (s : State) (hk : Keeps s0 s) :
    Keeps s0 (retirePair p cause s) := by
  unfold retirePair
  repeat' (first
    | with_reducible assumption
    | with_reducible apply keeps_placeCheck
    | with_reducible apply keeps_logEv
    | with_reducible apply keeps_spoilProof
    | with_reducible apply keeps_refreshMod
    | with_reducible apply keeps_lanesGone
    | with_reducible apply keeps_predict
    | with_reducible intro _
    | extract_lets
    | split
    | simp -zeta only [Keeps.mk_upd_iff]
    | dsimp +zetaDelta only)

theorem keeps_disagree {s0 : State} (p : Nat) (r : SecRun) (s : State) (hk : Keeps s0 s) :
    Keeps s0 (disagree p r s) := by
  unfold disagree
  repeat' (first
    | with_reducible assumption
    | with_reducible apply keeps_retirePair
    | with_reducible apply keeps_putRun
    | with_reducible intro _
    | extract_lets
    | split
    | simp -zeta only [Keeps.mk_upd_iff]
    | dsimp +zetaDelta only)

theorem keeps_execBlockCheckpoint {s0 : State} (p : Nat) (agree : Bool) (s : State) (hk : Keeps s0 s) :
    OutKeeps s0 (execBlockCheckpoint p agree s) := by
  unfold execBlockCheckpoint
  repeat' (first
    | with_reducible assumption
    | with_reducible apply OutKeeps.next
    | with_reducible apply keeps_putRun
    | with_reducible apply keeps_disagree
    | with_reducible intro _
    | extract_lets
    | split
    | simp -zeta only [Keeps.mk_upd_iff]
    | dsimp +zetaDelta only)

theorem keeps_execSceneStart {s0 : State} (k j : Nat) (s : State) (hk : Keeps s0 s) :
    OutKeeps s0 (execSceneStart k j s) := by
  unfold execSceneStart
  repeat' (first
    | with_reducible assumption
    | with_reducible apply outKeeps_whenUpAnd
    | with_reducible apply OutKeeps.next
    | with_reducible apply keeps_sceneCheck
    | with_reducible intro _
    | extract_lets
    | split
    | simp -zeta only [Keeps.mk_upd_iff]
    | dsimp +zetaDelta only)

theorem keeps_execSectionDispatch {s0 : State} (s : State) (hk : Keeps s0 s) :
    OutKeeps s0 (execSectionDispatch s) := by
  unfold execSectionDispatch
  repeat' (first
    | with_reducible assumption
    | with_reducible apply OutKeeps.next
    | with_reducible apply keeps_putRun
    | with_reducible apply keeps_markSlot
    | with_reducible intro _
    | extract_lets
    | split
    | simp -zeta only [Keeps.mk_upd_iff]
    | dsimp +zetaDelta only)

theorem keeps_resumeWaiting {s0 : State} (s : State) (hk : Keeps s0 s) :
    Keeps s0 (resumeWaiting s) := by
  unfold resumeWaiting
  repeat' (first
    | with_reducible assumption
    | with_reducible apply keeps_foldS
    | with_reducible apply keeps_freePair
    | with_reducible intro _
    | extract_lets
    | split
    | simp -zeta only [Keeps.mk_upd_iff]
    | dsimp +zetaDelta only)

theorem keeps_overrunStage {s0 : State} (k st : Nat) (s : State) (hk : Keeps s0 s) :
    Keeps s0 (overrunStage k st s) := by
  unfold overrunStage
  repeat' (first
    | with_reducible assumption
    | with_reducible apply keeps_putTake
    | with_reducible apply keeps_putStg
    | with_reducible apply keeps_sceneCheck
    | with_reducible apply keeps_logEv
    | with_reducible apply keeps_resumeWaiting
    | with_reducible intro _
    | extract_lets
    | split
    | dsimp only
    | simp -zeta only [Keeps.mk_upd_iff]
    | dsimp +zetaDelta only)

theorem keeps_deadline {s0 : State} (k : Nat) (s : State) (hk : Keeps s0 s) :
    Keeps s0 (deadline k s) := by
  unfold deadline
  repeat' (first
    | with_reducible assumption
    | with_reducible apply keeps_foldS
    | with_reducible apply keeps_overrunStage
    | with_reducible intro _
    | extract_lets
    | split
    | simp -zeta only [Keeps.mk_upd_iff]
    | dsimp +zetaDelta only)

theorem keeps_execHalfPeriodDeadline {s0 : State} (s : State) (hk : Keeps s0 s) :
    OutKeeps s0 (execHalfPeriodDeadline s) := by
  unfold execHalfPeriodDeadline
  repeat' (first
    | with_reducible assumption
    | with_reducible apply outKeeps_whenUpAnd
    | with_reducible apply OutKeeps.next
    | with_reducible apply keeps_foldS
    | with_reducible apply keeps_deadline
    | with_reducible intro _
    | extract_lets
    | split
    | simp -zeta only [Keeps.mk_upd_iff]
    | dsimp +zetaDelta only)

/-! ### Machine/Slate.lean -/

theorem keeps_enterMode {s0 : State} (m : SlateMode) (s : State) (hk : Keeps s0 s) :
    Keeps s0 (enterMode m s) := by
  unfold enterMode
  repeat' (first
    | with_reducible assumption
    | with_reducible apply keeps_logEv
    | with_reducible intro _
    | extract_lets
    | split
    | simp -zeta only [Keeps.mk_upd_iff]
    | dsimp +zetaDelta only)

theorem keeps_afterPlausible {s0 : State} (err : Int) (s : State) (hk : Keeps s0 s) :
    Keeps s0 (afterPlausible err s) := by
  unfold afterPlausible
  repeat' (first
    | with_reducible assumption
    | with_reducible apply keeps_enterMode
    | with_reducible intro _
    | extract_lets
    | split
    | simp -zeta only [Keeps.mk_upd_iff]
    | dsimp +zetaDelta only)

theorem keeps_afterFault {s0 : State} (s : State) (hk : Keeps s0 s) :
    Keeps s0 (afterFault s) := by
  unfold afterFault
  repeat' (first
    | with_reducible assumption
    | with_reducible apply keeps_enterMode
    | with_reducible intro _
    | extract_lets
    | split
    | simp -zeta only [Keeps.mk_upd_iff]
    | dsimp +zetaDelta only)

theorem keeps_closePeriod {s0 : State} (p : Nat) (s : State) (hk : Keeps s0 s) :
    Keeps s0 (closePeriod p s) := by
  unfold closePeriod
  repeat' (first
    | with_reducible assumption
    | with_reducible apply keeps_afterPlausible
    | with_reducible apply keeps_afterFault
    | with_reducible intro _
    | extract_lets
    | split
    | simp -zeta only [Keeps.mk_upd_iff]
    | dsimp +zetaDelta only)

theorem keeps_execMainsCrossing {s0 : State} (amp : Word) (s : State) (hk : Keeps s0 s) :
    OutKeeps s0 (execMainsCrossing amp s) := by
  unfold execMainsCrossing
  repeat' (first
    | with_reducible assumption
    | with_reducible apply outKeeps_whenUpAnd
    | with_reducible apply OutKeeps.next
    | with_reducible apply keeps_closePeriod
    | with_reducible intro _
    | extract_lets
    | split
    | simp -zeta only [Keeps.mk_upd_iff]
    | dsimp +zetaDelta only
    | (with_reducible apply Keeps.mk_sound) <;> first
        | exact id
        | exact Table.wf_set
        | exact fun _ => Table.wf_nil
        | exact fun x => ⟨Table.wf_set x.1, x.2⟩
        | exact fun x => ⟨x.1, Table.wf_set x.2⟩
        | exact fun x => ⟨x.2, x.2⟩
        | exact fun x => PointsOk.like x rfl rfl rfl
        | exact fun x => PointsOk.retain x rfl rfl rfl
        | exact fun x => PointsOk.restore x rfl rfl rfl
        | exact fun x => PointsOk.frozen x rfl rfl rfl
        | exact fun x => PointsOk.put x (quality_masked _)
        | exact fun x => PointsOk.putRetained x (quality_masked _)
        | skip
    | fail)

theorem keeps_execMissingPeriod {s0 : State} (s : State) (hk : Keeps s0 s) :
    OutKeeps s0 (execMissingPeriod s) := by
  unfold execMissingPeriod
  repeat' (first
    | with_reducible assumption
    | with_reducible apply outKeeps_whenUpAnd
    | with_reducible apply OutKeeps.next
    | with_reducible apply keeps_afterFault
    | with_reducible intro _
    | extract_lets
    | split
    | simp -zeta only [Keeps.mk_upd_iff]
    | dsimp +zetaDelta only)

theorem keeps_execNominalEntry {s0 : State} (s : State) (hk : Keeps s0 s) :
    OutKeeps s0 (execNominalEntry s) := by
  unfold execNominalEntry
  repeat' (first
    | with_reducible assumption
    | with_reducible apply outKeeps_whenUpAnd
    | with_reducible apply OutKeeps.next
    | with_reducible apply keeps_enterMode
    | with_reducible intro _
    | extract_lets
    | split
    | simp -zeta only [Keeps.mk_upd_iff]
    | dsimp +zetaDelta only)

theorem keeps_slewToward {s0 : State} (p target : Nat) (s : State) (hk : Keeps s0 s) :
    Keeps s0 (slewToward p target s).2 := by
  unfold slewToward
  repeat' (first
    | with_reducible assumption
    | with_reducible apply keeps_drawIn
    | with_reducible intro _
    | extract_lets
    | split
    | dsimp only
    | simp -zeta only [Keeps.mk_upd_iff]
    | dsimp +zetaDelta only)

theorem keeps_correctPhase {s0 : State} (lo hi : Nat) (s : State) (hk : Keeps s0 s) :
    Keeps s0 (correctPhase lo hi s).2 := by
  unfold correctPhase
  repeat' (first
    | with_reducible assumption
    | with_reducible apply keeps_drawIn
    | with_reducible intro _
    | extract_lets
    | split
    | dsimp only
    | simp -zeta only [Keeps.mk_upd_iff]
    | dsimp +zetaDelta only)

theorem keeps_nextPeriod {s0 : State} (s : State) (hk : Keeps s0 s) :
    Keeps s0 (nextPeriod s).2 := by
  unfold nextPeriod
  repeat' (first
    | with_reducible assumption
    | with_reducible apply keeps_slewToward
    | with_reducible apply keeps_correctPhase
    | with_reducible intro _
    | extract_lets
    | split
    | dsimp only
    | simp -zeta only [Keeps.mk_upd_iff]
    | dsimp +zetaDelta only)

theorem keeps_endPeriod {s0 : State} (s : State) (hk : Keeps s0 s) :
    Keeps s0 (endPeriod s) := by
  unfold endPeriod
  repeat' (first
    | with_reducible assumption
    | with_reducible apply keeps_nextPeriod
    | with_reducible intro _
    | extract_lets
    | split
    | dsimp only
    | simp -zeta only [Keeps.mk_upd_iff]
    | dsimp +zetaDelta only)

theorem keeps_beginHalf {s0 : State} (s : State) (hk : Keeps s0 s) :
    Keeps s0 (beginHalf s) := by
  unfold beginHalf
  repeat' (first
    | with_reducible assumption
    | with_reducible apply keeps_endPeriod
    | with_reducible intro _
    | extract_lets
    | split
    | simp -zeta only [Keeps.mk_upd_iff]
    | dsimp +zetaDelta only)

end Sys2Proof.Machine
end

