-- ==== Sys2Proof/Laws/KeepsField.lean ====
section
/-! SUPPORT. What local I/O, the safety pair and its telegrams, and the jobs of the key unit keep of a state: the queue, the clock, the variant, the count
of free values, and a sound point image and sound tables. One lemma for each operation and for each meaning. -/

namespace Sys2Proof.Machine
open Sys2Proof

/-! ### Machine/Field.lean -/

theorem keeps_fieldEvent {s0 : State} (e : FieldEv) (s : State) (hk : Keeps s0 s) :
    Keeps s0 (fieldEvent e s) := by
  unfold fieldEvent
  repeat' (first
    | with_reducible assumption
    | with_reducible intro _
    | extract_lets
    | split
    | simp -zeta only [Keeps.mk_upd_iff]
    | dsimp +zetaDelta only
    | (with_reducible apply Keeps.mk_sound) <;> first
        | exact id
        | exact Table.wf_set
        | exact fun _ => Table.wf_nil
        | exact fun x => ⟨Table.wf_set x.1, x.2⟩
        | exact fun x => ⟨x.1, Table.wf_set x.2⟩
        | exact fun x => ⟨x.2, x.2⟩
        | exact fun x => PointsOk.like x rfl rfl rfl
        | exact fun x => PointsOk.retain x rfl rfl rfl
        | exact fun x => PointsOk.restore x rfl rfl rfl
        | exact fun x => PointsOk.frozen x rfl rfl rfl
        | exact fun x => PointsOk.put x (quality_masked _)
        | exact fun x => PointsOk.putRetained x (quality_masked _)
        | skip
    | fail)

theorem keeps_putDi {s0 : State} (n : Nat) (d : DiS) (s : State) (hk : Keeps s0 s) :
    Keeps s0 (putDi n d s) := by
  unfold putDi
  repeat' (first
    | with_reducible assumption
    | with_reducible intro _
    | extract_lets
    | split
    | simp -zeta only [Keeps.mk_upd_iff]
    | dsimp +zetaDelta only
    | (with_reducible apply Keeps.mk_sound) <;> first
        | exact id
        | exact Table.wf_set
        | exact fun _ => Table.wf_nil
        | exact fun x => ⟨Table.wf_set x.1, x.2⟩
        | exact fun x => ⟨x.1, Table.wf_set x.2⟩
        | exact fun x => ⟨x.2, x.2⟩
        | exact fun x => PointsOk.like x rfl rfl rfl
        | exact fun x => PointsOk.retain x rfl rfl rfl
        | exact fun x => PointsOk.restore x rfl rfl rfl
        | exact fun x => PointsOk.frozen x rfl rfl rfl
        | exact fun x => PointsOk.put x (quality_masked _)
        | exact fun x => PointsOk.putRetained x (quality_masked _)
        | skip
    | fail)

theorem keeps_execDiFilterChange {s0 : State} (n : Nat) (x : LevelRun) (s : State) (hk : Keeps s0 s) :
    OutKeeps s0 (execDiFilterChange n x s) := by
  unfold execDiFilterChange
  repeat' (first
    | with_reducible assumption
    | with_reducible apply outKeeps_whenUpAnd
    | with_reducible apply OutKeeps.next
    | with_reducible apply keeps_putDi
    | with_reducible intro _
    | extract_lets
    | split
    | simp -zeta only [Keeps.mk_upd_iff]
    | dsimp +zetaDelta only)

theorem keeps_execDiWireBreak {s0 : State} (n : Nat) (broken : Bool) (s : State) (hk : Keeps s0 s) :
    OutKeeps s0 (execDiWireBreak n broken s) := by
  unfold execDiWireBreak
  repeat' (first
    | with_reducible assumption
    | with_reducible apply outKeeps_whenUpAnd
    | with_reducible apply OutKeeps.next
    | with_reducible apply keeps_putDi
    | with_reducible intro _
    | extract_lets
    | split
    | simp -zeta only [Keeps.mk_upd_iff]
    | dsimp +zetaDelta only)

theorem keeps_execDiComparatorTest {s0 : State} (n : Nat) (pass : Bool) (s : State) (hk : Keeps s0 s) :
    OutKeeps s0 (execDiComparatorTest n pass s) := by
  unfold execDiComparatorTest
  repeat' (first
    | with_reducible assumption
    | with_reducible apply outKeeps_whenUp
    | with_reducible apply OutKeeps.next
    | with_reducible apply keeps_putDi
    | with_reducible intro _
    | extract_lets
    | split
    | simp -zeta only [Keeps.mk_upd_iff]
    | dsimp +zetaDelta only)

theorem keeps_putDoHot {s0 : State} (was is : Bool) (n : Nat) (d : DoS) (s : State) (hk : Keeps s0 s) :
    Keeps s0 (putDoHot was is n d s) := by
  unfold putDoHot
  repeat' (first
    | with_reducible assumption
    | with_reducible apply keeps_fieldEvent
    | with_reducible intro _
    | extract_lets
    | split
    | simp -zeta only [Keeps.mk_upd_iff]
    | dsimp +zetaDelta only
    | (with_reducible apply Keeps.mk_sound) <;> first
        | exact id
        | exact Table.wf_set
        | exact fun _ => Table.wf_nil
        | exact fun x => ⟨Table.wf_set x.1, x.2⟩
        | exact fun x => ⟨x.1, Table.wf_set x.2⟩
        | exact fun x => ⟨x.2, x.2⟩
        | exact fun x => PointsOk.like x rfl rfl rfl
        | exact fun x => PointsOk.retain x rfl rfl rfl
        | exact fun x => PointsOk.restore x rfl rfl rfl
        | exact fun x => PointsOk.frozen x rfl rfl rfl
        | exact fun x => PointsOk.put x (quality_masked _)
        | exact fun x => PointsOk.putRetained x (quality_masked _)
        | skip
    | fail)

theorem keeps_putDo {s0 : State} (n : Nat) (d : DoS) (s : State) (hk : Keeps s0 s) :
    Keeps s0 (putDo n d s) := by
  unfold putDo
  repeat' (first
    | with_reducible assumption
    | with_reducible apply keeps_putDoHot
    | with_reducible intro _
    | extract_lets
    | split
    | simp -zeta only [Keeps.mk_upd_iff]
    | dsimp +zetaDelta only)

theorem keeps_endPulses {s0 : State} (s : State) (hk : Keeps s0 s) :
    Keeps s0 (endPulses s) := by
  unfold endPulses
  repeat' (first
    | with_reducible assumption
    | with_reducible apply keeps_foldS
    | with_reducible apply keeps_putDo
    | with_reducible intro _
    | extract_lets
    | split
    | simp -zeta only [Keeps.mk_upd_iff]
    | dsimp +zetaDelta only)

theorem keeps_execDoOverloadLatch {s0 : State} (n : Nat) (s : State) (hk : Keeps s0 s) :
    OutKeeps s0 (execDoOverloadLatch n s) := by
  unfold execDoOverloadLatch
  repeat' (first
    | with_reducible assumption
    | with_reducible apply outKeeps_whenUpAnd
    | with_reducible apply OutKeeps.next
    | with_reducible apply keeps_putDo
    | with_reducible intro _
    | extract_lets
    | split
    | simp -zeta only [Keeps.mk_upd_iff]
    | dsimp +zetaDelta only)

theorem keeps_execDoRearm {s0 : State} (n : Nat) (s : State) (hk : Keeps s0 s) :
    OutKeeps s0 (execDoRearm n s) := by
  unfold execDoRearm
  repeat' (first
    | with_reducible assumption
    | with_reducible apply outKeeps_whenUpAnd
    | with_reducible apply OutKeeps.next
    | with_reducible apply keeps_putDo
    | with_reducible intro _
    | extract_lets
    | split
    | simp -zeta only [Keeps.mk_upd_iff]
    | dsimp +zetaDelta only)

theorem keeps_execDoCondition {s0 : State} (n code : Nat) (present : Bool) (s : State) (hk : Keeps s0 s) :
    OutKeeps s0 (execDoCondition n code present s) := by
  unfold execDoCondition
  repeat' (first
    | with_reducible assumption
    | with_reducible apply outKeeps_whenUpAnd
    | with_reducible apply OutKeeps.next
    | with_reducible apply keeps_putDo
    | with_reducible intro _
    | extract_lets
    | split
    | simp -zeta only [Keeps.mk_upd_iff]
    | dsimp +zetaDelta only)

theorem keeps_execDarkTestPulse {s0 : State} (n : Nat) (s : State) (hk : Keeps s0 s) :
    OutKeeps s0 (execDarkTestPulse n s) := by
  unfold execDarkTestPulse
  repeat' (first
    | with_reducible assumption
    | with_reducible apply outKeeps_whenUpAnd
    | with_reducible apply OutKeeps.next
    | with_reducible apply keeps_endPulses
    | with_reducible apply keeps_putDo
    | with_reducible intro _
    | extract_lets
    | split
    | simp -zeta only [Keeps.mk_upd_iff]
    | dsimp +zetaDelta only)

theorem keeps_execDarkTestCheck {s0 : State} (n : Nat) (low : Bool) (s : State) (hk : Keeps s0 s) :
    OutKeeps s0 (execDarkTestCheck n low s) := by
  unfold execDarkTestCheck
  repeat' (first
    | with_reducible assumption
    | with_reducible apply outKeeps_whenUpAnd
    | with_reducible apply OutKeeps.next
    | with_reducible apply keeps_putDo
    | with_reducible intro _
    | extract_lets
    | split
    | simp -zeta only [Keeps.mk_upd_iff]
    | dsimp +zetaDelta only)

theorem keeps_execFieldOvertemp {s0 : State} (s : State) (hk : Keeps s0 s) :
    OutKeeps s0 (execFieldOvertemp s) := by
  unfold execFieldOvertemp
  repeat' (first
    | with_reducible assumption
    | with_reducible apply outKeeps_whenUpAnd
    | with_reducible apply OutKeeps.next
    | with_reducible apply keeps_foldS
    | with_reducible apply keeps_endPulses
    | with_reducible apply keeps_putDoHot
    | with_reducible intro _
    | extract_lets
    | split
    | simp -zeta only [Keeps.mk_upd_iff]
    | dsimp +zetaDelta only
    | (with_reducible apply Keeps.mk_sound) <;> first
        | exact id
        | exact Table.wf_set
        | exact fun _ => Table.wf_nil
        | exact fun x => ⟨Table.wf_set x.1, x.2⟩
        | exact fun x => ⟨x.1, Table.wf_set x.2⟩
        | exact fun x => ⟨x.2, x.2⟩
        | exact fun x => PointsOk.like x rfl rfl rfl
        | exact fun x => PointsOk.retain x rfl rfl rfl
        | exact fun x => PointsOk.restore x rfl rfl rfl
        | exact fun x => PointsOk.frozen x rfl rfl rfl
        | exact fun x => PointsOk.put x (quality_masked _)
        | exact fun x => PointsOk.putRetained x (quality_masked _)
        | skip
    | fail)

theorem keeps_execFieldDieCooled {s0 : State} (s : State) (hk : Keeps s0 s) :
    OutKeeps s0 (execFieldDieCooled s) := by
  unfold execFieldDieCooled
  repeat' (first
    | with_reducible assumption
    | with_reducible apply outKeeps_whenUp
    | with_reducible apply OutKeeps.next
    | with_reducible apply keeps_foldS
    | with_reducible apply keeps_putDoHot
    | with_reducible apply keeps_endPulses
    | with_reducible intro _
    | extract_lets
    | split
    | simp -zeta only [Keeps.mk_upd_iff]
    | dsimp +zetaDelta only
    | (with_reducible apply Keeps.mk_sound) <;> first
        | exact id
        | exact Table.wf_set
        | exact fun _ => Table.wf_nil
        | exact fun x => ⟨Table.wf_set x.1, x.2⟩
        | exact fun x => ⟨x.1, Table.wf_set x.2⟩
        | exact fun x => ⟨x.2, x.2⟩
        | exact fun x => PointsOk.like x rfl rfl rfl
        | exact fun x => PointsOk.retain x rfl rfl rfl
        | exact fun x => PointsOk.restore x rfl rfl rfl
        | exact fun x => PointsOk.frozen x rfl rfl rfl
        | exact fun x => PointsOk.put x (quality_masked _)
        | exact fun x => PointsOk.putRetained x (quality_masked _)
        | skip
    | fail)

theorem keeps_execAiShuntOpen {s0 : State} (n : Nat) (s : State) (hk : Keeps s0 s) :
    OutKeeps s0 (execAiShuntOpen n s) := by
  unfold execAiShuntOpen
  repeat' (first
    | with_reducible assumption
    | with_reducible apply outKeeps_whenUpAnd
    | with_reducible apply OutKeeps.next
    | with_reducible intro _
    | extract_lets
    | split
    | simp -zeta only [Keeps.mk_upd_iff]
    | dsimp +zetaDelta only
    | (with_reducible apply Keeps.mk_sound) <;> first
        | exact id
        | exact Table.wf_set
        | exact fun _ => Table.wf_nil
        | exact fun x => ⟨Table.wf_set x.1, x.2⟩
        | exact fun x => ⟨x.1, Table.wf_set x.2⟩
        | exact fun x => ⟨x.2, x.2⟩
        | exact fun x => PointsOk.like x rfl rfl rfl
        | exact fun x => PointsOk.retain x rfl rfl rfl
        | exact fun x => PointsOk.restore x rfl rfl rfl
        | exact fun x => PointsOk.frozen x rfl rfl rfl
        | exact fun x => PointsOk.put x (quality_masked _)
        | exact fun x => PointsOk.putRetained x (quality_masked _)
        | skip
    | fail)

theorem keeps_execAiShuntRetry {s0 : State} (n : Nat) (ovr : Bool) (s : State) (hk : Keeps s0 s) :
    OutKeeps s0 (execAiShuntRetry n ovr s) := by
  unfold execAiShuntRetry
  repeat' (first
    | with_reducible assumption
    | with_reducible apply outKeeps_whenUpAnd
    | with_reducible apply OutKeeps.next
    | with_reducible intro _
    | extract_lets
    | split
    | simp -zeta only [Keeps.mk_upd_iff]
    | dsimp +zetaDelta only
    | (with_reducible apply Keeps.mk_sound) <;> first
        | exact id
        | exact Table.wf_set
        | exact fun _ => Table.wf_nil
        | exact fun x => ⟨Table.wf_set x.1, x.2⟩
        | exact fun x => ⟨x.1, Table.wf_set x.2⟩
        | exact fun x => ⟨x.2, x.2⟩
        | exact fun x => PointsOk.like x rfl rfl rfl
        | exact fun x => PointsOk.retain x rfl rfl rfl
        | exact fun x => PointsOk.restore x rfl rfl rfl
        | exact fun x => PointsOk.frozen x rfl rfl rfl
        | exact fun x => PointsOk.put x (quality_masked _)
        | exact fun x => PointsOk.putRetained x (quality_masked _)
        | skip
    | fail)

theorem keeps_putAo {s0 : State} (n : Nat) (a : AoS) (s : State) (hk : Keeps s0 s) :
    Keeps s0 (putAo n a s) := by
  unfold putAo
  repeat' (first
    | with_reducible assumption
    | with_reducible intro _
    | extract_lets
    | split
    | simp -zeta only [Keeps.mk_upd_iff]
    | dsimp +zetaDelta only
    | (with_reducible apply Keeps.mk_sound) <;> first
        | exact id
        | exact Table.wf_set
        | exact fun _ => Table.wf_nil
        | exact fun x => ⟨Table.wf_set x.1, x.2⟩
        | exact fun x => ⟨x.1, Table.wf_set x.2⟩
        | exact fun x => ⟨x.2, x.2⟩
        | exact fun x => PointsOk.like x rfl rfl rfl
        | exact fun x => PointsOk.retain x rfl rfl rfl
        | exact fun x => PointsOk.restore x rfl rfl rfl
        | exact fun x => PointsOk.frozen x rfl rfl rfl
        | exact fun x => PointsOk.put x (quality_masked _)
        | exact fun x => PointsOk.putRetained x (quality_masked _)
        | skip
    | fail)

theorem keeps_execAoDeviation {s0 : State} (n : Nat) (dev : Bool) (s : State) (hk : Keeps s0 s) :
    OutKeeps s0 (execAoDeviation n dev s) := by
  unfold execAoDeviation
  repeat' (first
    | with_reducible assumption
    | with_reducible apply outKeeps_whenUp
    | with_reducible apply OutKeeps.next
    | with_reducible apply keeps_putAo
    | with_reducible intro _
    | extract_lets
    | split
    | simp -zeta only [Keeps.mk_upd_iff]
    | dsimp +zetaDelta only)

theorem keeps_putEnc {s0 : State} (c : Nat) (e : EncS) (s : State) (hk : Keeps s0 s) :
    Keeps s0 (putEnc c e s) := by
  unfold putEnc
  repeat' (first
    | with_reducible assumption
    | with_reducible intro _
    | extract_lets
    | split
    | simp -zeta only [Keeps.mk_upd_iff]
    | dsimp +zetaDelta only
    | (with_reducible apply Keeps.mk_sound) <;> first
        | exact id
        | exact Table.wf_set
        | exact fun _ => Table.wf_nil
        | exact fun x => ⟨Table.wf_set x.1, x.2⟩
        | exact fun x => ⟨x.1, Table.wf_set x.2⟩
        | exact fun x => ⟨x.2, x.2⟩
        | exact fun x => PointsOk.like x rfl rfl rfl
        | exact fun x => PointsOk.retain x rfl rfl rfl
        | exact fun x => PointsOk.restore x rfl rfl rfl
        | exact fun x => PointsOk.frozen x rfl rfl rfl
        | exact fun x => PointsOk.put x (quality_masked _)
        | exact fun x => PointsOk.putRetained x (quality_masked _)
        | skip
    | fail)

theorem keeps_execEncoderEdge {s0 : State} (c : Nat) (a b : Bool) (x : EncLevels) (s : State) (hk : Keeps s0 s) :
    OutKeeps s0 (execEncoderEdge c a b x s) := by
  unfold execEncoderEdge
  repeat' (first
    | with_reducible assumption
    | with_reducible apply outKeeps_whenUpAnd
    | with_reducible apply OutKeeps.next
    | with_reducible apply keeps_putEnc
    | with_reducible intro _
    | extract_lets
    | split
    | dsimp only
    | simp -zeta only [Keeps.mk_upd_iff]
    | dsimp +zetaDelta only)

theorem keeps_encVel {s0 : State} (e : EncS) (s : State) (hk : Keeps s0 s) :
    Keeps s0 (encVel e s).2 := by
  unfold encVel
  repeat' (first
    | with_reducible assumption
    | with_reducible apply keeps_draw
    | with_reducible intro _
    | extract_lets
    | split
    | dsimp only
    | simp -zeta only [Keeps.mk_upd_iff]
    | dsimp +zetaDelta only)

theorem keeps_latchEnc {s0 : State} (c : Nat) (s : State) (hk : Keeps s0 s) :
    Keeps s0 (latchEnc c s).2 := by
  unfold latchEnc
  repeat' (first
    | with_reducible assumption
    | with_reducible apply keeps_encVel
    | with_reducible apply keeps_putEnc
    | with_reducible intro _
    | extract_lets
    | split
    | dsimp only
    | simp -zeta only [Keeps.mk_upd_iff]
    | dsimp +zetaDelta only)

theorem keeps_fieldLatch {s0 : State} (s : State) (hk : Keeps s0 s) :
    Keeps s0 (fieldLatch s) := by
  have h : Keeps s0 (latchEnc 1 (latchEnc 0 (endPulses s)).2).2 :=
    keeps_latchEnc _ _ (keeps_latchEnc _ _ (keeps_endPulses _ hk))
  unfold fieldLatch
  extract_lets s1 e0 e1 s2
  change Keeps s0 s2 at h
  clear_value s2
  exact h.setField rfl rfl rfl rfl

theorem keeps_applyDo {s0 : State} (at_ n : Nat) (v : Bool) (s : State) (hk : Keeps s0 s) :
    Keeps s0 (applyDo at_ n v s) := by
  unfold applyDo
  repeat' (first
    | with_reducible assumption
    | with_reducible apply keeps_putDo
    | with_reducible intro _
    | extract_lets
    | split
    | simp -zeta only [Keeps.mk_upd_iff]
    | dsimp +zetaDelta only)

theorem keeps_applyAo {s0 : State} (n : Nat) (v : Word) (s : State) (hk : Keeps s0 s) :
    Keeps s0 (applyAo n v s) := by
  unfold applyAo
  repeat' (first
    | with_reducible assumption
    | with_reducible apply keeps_putAo
    | with_reducible intro _
    | extract_lets
    | split
    | dsimp only
    | simp -zeta only [Keeps.mk_upd_iff]
    | dsimp +zetaDelta only)

theorem keeps_applyOut {s0 : State} (c : OutCmd) (s : State) (hk : Keeps s0 s) :
    Keeps s0 (applyOut c s) := by
  unfold applyOut
  repeat' (first
    | with_reducible assumption
    | with_reducible apply keeps_foldS
    | with_reducible apply keeps_applyDo
    | with_reducible apply keeps_applyAo
    | with_reducible intro _
    | extract_lets
    | split
    | simp -zeta only [Keeps.mk_upd_iff]
    | dsimp +zetaDelta only)

theorem keeps_leaveLoss {s0 : State} (s : State) (hk : Keeps s0 s) :
    Keeps s0 (leaveLoss s) := by
  unfold leaveLoss
  repeat' (first
    | with_reducible assumption
    | with_reducible intro _
    | extract_lets
    | split
    | simp -zeta only [Keeps.mk_upd_iff]
    | dsimp +zetaDelta only
    | (with_reducible apply Keeps.mk_sound) <;> first
        | exact id
        | exact Table.wf_set
        | exact fun _ => Table.wf_nil
        | exact fun x => ⟨Table.wf_set x.1, x.2⟩
        | exact fun x => ⟨x.1, Table.wf_set x.2⟩
        | exact fun x => ⟨x.2, x.2⟩
        | exact fun x => PointsOk.like x rfl rfl rfl
        | exact fun x => PointsOk.retain x rfl rfl rfl
        | exact fun x => PointsOk.restore x rfl rfl rfl
        | exact fun x => PointsOk.frozen x rfl rfl rfl
        | exact fun x => PointsOk.put x (quality_masked _)
        | exact fun x => PointsOk.putRetained x (quality_masked _)
        | skip
    | fail)

theorem keeps_execOutputApply {s0 : State} (k : Nat) (s : State) (hk : Keeps s0 s) :
    OutKeeps s0 (execOutputApply k s) := by
  unfold execOutputApply
  repeat' (first
    | with_reducible assumption
    | with_reducible apply outKeeps_whenUp
    | with_reducible apply OutKeeps.next
    | with_reducible apply keeps_applyOut
    | with_reducible apply keeps_leaveLoss
    | with_reducible intro _
    | extract_lets
    | split
    | simp -zeta only [Keeps.mk_upd_iff]
    | dsimp +zetaDelta only
    | (with_reducible apply Keeps.mk_sound) <;> first
        | exact id
        | exact Table.wf_set
        | exact fun _ => Table.wf_nil
        | exact fun x => ⟨Table.wf_set x.1, x.2⟩
        | exact fun x => ⟨x.1, Table.wf_set x.2⟩
        | exact fun x => ⟨x.2, x.2⟩
        | exact fun x => PointsOk.like x rfl rfl rfl
        | exact fun x => PointsOk.retain x rfl rfl rfl
        | exact fun x => PointsOk.restore x rfl rfl rfl
        | exact fun x => PointsOk.frozen x rfl rfl rfl
        | exact fun x => PointsOk.put x (quality_masked _)
        | exact fun x => PointsOk.putRetained x (quality_masked _)
        | skip
    | fail)

theorem keeps_execAlignedTarget {s0 : State} (n : Nat) (s : State) (hk : Keeps s0 s) :
    OutKeeps s0 (execAlignedTarget n s) := by
  unfold execAlignedTarget
  repeat' (first
    | with_reducible assumption
    | with_reducible apply outKeeps_whenUp
    | with_reducible apply OutKeeps.next
    | with_reducible apply keeps_putDo
    | with_reducible intro _
    | extract_lets
    | split
    | simp -zeta only [Keeps.mk_upd_iff]
    | dsimp +zetaDelta only)

theorem keeps_holdOutputs {s0 : State} (s : State) (hk : Keeps s0 s) :
    Keeps s0 (holdOutputs s) := by
  have h : Keeps s0 (foldS (List.range 16) (fun n t => putDo n { doOf t n with pend := none } t) s) :=
    keeps_foldS _ _ _ hk (fun _ _ h => keeps_putDo _ _ _ h)
  unfold holdOutputs
  extract_lets s1
  change Keeps s0 s1 at h
  clear_value s1
  exact h.setField rfl rfl rfl rfl

theorem keeps_execBlholdExpiry {s0 : State} (s : State) (hk : Keeps s0 s) :
    OutKeeps s0 (execBlholdExpiry s) := by
  unfold execBlholdExpiry
  repeat' (first
    | with_reducible assumption
    | with_reducible apply outKeeps_whenUpAnd
    | with_reducible apply OutKeeps.next
    | with_reducible apply keeps_foldS
    | with_reducible apply keeps_putDo
    | with_reducible apply keeps_putAo
    | with_reducible intro _
    | extract_lets
    | split
    | simp -zeta only [Keeps.mk_upd_iff]
    | dsimp +zetaDelta only
    | (with_reducible apply Keeps.mk_sound) <;> first
        | exact id
        | exact Table.wf_set
        | exact fun _ => Table.wf_nil
        | exact fun x => ⟨Table.wf_set x.1, x.2⟩
        | exact fun x => ⟨x.1, Table.wf_set x.2⟩
        | exact fun x => ⟨x.2, x.2⟩
        | exact fun x => PointsOk.like x rfl rfl rfl
        | exact fun x => PointsOk.retain x rfl rfl rfl
        | exact fun x => PointsOk.restore x rfl rfl rfl
        | exact fun x => PointsOk.frozen x rfl rfl rfl
        | exact fun x => PointsOk.put x (quality_masked _)
        | exact fun x => PointsOk.putRetained x (quality_masked _)
        | skip
    | fail)

/-! ### Machine/SafetyPair.lean -/

theorem keeps_putSin {s0 : State} (n : Nat) (x : SinS) (s : State) (hk : Keeps s0 s) :
    Keeps s0 (putSin n x s) := by
  unfold putSin
  repeat' (first
    | with_reducible assumption
    | with_reducible intro _
    | extract_lets
    | split
    | simp -zeta only [Keeps.mk_upd_iff]
    | dsimp +zetaDelta only
    | (with_reducible apply Keeps.mk_sound) <;> first
        | exact id
        | exact Table.wf_set
        | exact fun _ => Table.wf_nil
        | exact fun x => ⟨Table.wf_set x.1, x.2⟩
        | exact fun x => ⟨x.1, Table.wf_set x.2⟩
        | exact fun x => ⟨x.2, x.2⟩
        | exact fun x => PointsOk.like x rfl rfl rfl
        | exact fun x => PointsOk.retain x rfl rfl rfl
        | exact fun x => PointsOk.restore x rfl rfl rfl
        | exact fun x => PointsOk.frozen x rfl rfl rfl
        | exact fun x => PointsOk.put x (quality_masked _)
        | exact fun x => PointsOk.putRetained x (quality_masked _)
        | skip
    | fail)

theorem keeps_putSq {s0 : State} (m : Nat) (x : SqS) (s : State) (hk : Keeps s0 s) :
    Keeps s0 (putSq m x s) := by
  unfold putSq
  repeat' (first
    | with_reducible assumption
    | with_reducible intro _
    | extract_lets
    | split
    | simp -zeta only [Keeps.mk_upd_iff]
    | dsimp +zetaDelta only
    | (with_reducible apply Keeps.mk_sound) <;> first
        | exact id
        | exact Table.wf_set
        | exact fun _ => Table.wf_nil
        | exact fun x => ⟨Table.wf_set x.1, x.2⟩
        | exact fun x => ⟨x.1, Table.wf_set x.2⟩
        | exact fun x => ⟨x.2, x.2⟩
        | exact fun x => PointsOk.like x rfl rfl rfl
        | exact fun x => PointsOk.retain x rfl rfl rfl
        | exact fun x => PointsOk.restore x rfl rfl rfl
        | exact fun x => PointsOk.frozen x rfl rfl rfl
        | exact fun x => PointsOk.put x (quality_masked _)
        | exact fun x => PointsOk.putRetained x (quality_masked _)
        | skip
    | fail)

theorem keeps_putSf {s0 : State} (f : Nat) (x : SfS) (s : State) (hk : Keeps s0 s) :
    Keeps s0 (putSf f x s) := by
  unfold putSf
  repeat' (first
    | with_reducible assumption
    | with_reducible intro _
    | extract_lets
    | split
    | simp -zeta only [Keeps.mk_upd_iff]
    | dsimp +zetaDelta only
    | (with_reducible apply Keeps.mk_sound) <;> first
        | exact id
        | exact Table.wf_set
        | exact fun _ => Table.wf_nil
        | exact fun x => ⟨Table.wf_set x.1, x.2⟩
        | exact fun x => ⟨x.1, Table.wf_set x.2⟩
        | exact fun x => ⟨x.2, x.2⟩
        | exact fun x => PointsOk.like x rfl rfl rfl
        | exact fun x => PointsOk.retain x rfl rfl rfl
        | exact fun x => PointsOk.restore x rfl rfl rfl
        | exact fun x => PointsOk.frozen x rfl rfl rfl
        | exact fun x => PointsOk.put x (quality_masked _)
        | exact fun x => PointsOk.putRetained x (quality_masked _)
        | skip
    | fail)

theorem keeps_swapHalves {s0 : State} (s : State) (hk : Keeps s0 s) : Keeps s0 (swapHalves s) :=
  ⟨hk.pending, hk.now, hk.variant, hk.draws, hk.image, fun x =>
    let y := hk.tables x
    { y with safIn := y.safInB, safFn := y.safFnB, safInB := y.safIn, safFnB := y.safFn }⟩

theorem keeps_onB {s0 : State} (g : State → State) (s : State) (hk : Keeps s0 s)
    (hk_g : ∀ x t, Keeps x t → Keeps x (g t)) : Keeps s0 (onB g s) :=
  have h := hk_g s0 _ (keeps_swapHalves s hk)
  ⟨hk.pending, hk.now, hk.variant, hk.draws, hk.image, fun x =>
    { hk.tables x with safInB := (h.tables x).safIn, safFnB := (h.tables x).safFn }⟩

theorem keeps_onBoth {s0 : State} (g : State → State) (s : State) (hk : Keeps s0 s)
    (hk_g : ∀ x t, Keeps x t → Keeps x (g t)) : Keeps s0 (onBoth g s) :=
  have h := hk_g s0 _ (keeps_swapHalves s hk)
  have k := hk_g s0 _ hk
  ⟨k.pending, k.now, k.variant, k.draws, k.image, fun x =>
    { k.tables x with safInB := (h.tables x).safIn, safFnB := (h.tables x).safFn }⟩

theorem keeps_putMsl {s0 : State} (slot : Nat) (x : MslSlot) (s : State) (hk : Keeps s0 s) :
    Keeps s0 (putMsl slot x s) := by
  unfold putMsl
  repeat' (first
    | with_reducible assumption
    | with_reducible intro _
    | extract_lets
    | split
    | simp -zeta only [Keeps.mk_upd_iff]
    | dsimp +zetaDelta only
    | (with_reducible apply Keeps.mk_sound) <;> first
        | exact id
        | exact Table.wf_set
        | exact fun _ => Table.wf_nil
        | exact fun x => ⟨Table.wf_set x.1, x.2⟩
        | exact fun x => ⟨x.1, Table.wf_set x.2⟩
        | exact fun x => ⟨x.2, x.2⟩
        | exact fun x => PointsOk.like x rfl rfl rfl
        | exact fun x => PointsOk.retain x rfl rfl rfl
        | exact fun x => PointsOk.restore x rfl rfl rfl
        | exact fun x => PointsOk.frozen x rfl rfl rfl
        | exact fun x => PointsOk.put x (quality_masked _)
        | exact fun x => PointsOk.putRetained x (quality_masked _)
        | skip
    | fail)

theorem keeps_stateEvent {s0 : State} (f old new src : Nat) (s : State) (hk : Keeps s0 s) :
    Keeps s0 (stateEvent f old new src s) := by
  unfold stateEvent
  repeat' (first
    | with_reducible assumption
    | with_reducible apply keeps_fieldEvent
    | with_reducible intro _
    | extract_lets
    | split
    | simp -zeta only [Keeps.mk_upd_iff]
    | dsimp +zetaDelta only)

theorem keeps_listLockout {s0 : State} (f : Nat) (code : Byte) (exp : Bool) (s : State) (hk : Keeps s0 s) :
    Keeps s0 (listLockout f code exp s) := by
  unfold listLockout
  repeat' (first
    | with_reducible assumption
    | with_reducible intro _
    | extract_lets
    | split
    | dsimp only
    | simp -zeta only [Keeps.mk_upd_iff]
    | dsimp +zetaDelta only
    | (with_reducible apply Keeps.mk_sound) <;> first
        | exact id
        | exact Table.wf_set
        | exact fun _ => Table.wf_nil
        | exact fun x => ⟨Table.wf_set x.1, x.2⟩
        | exact fun x => ⟨x.1, Table.wf_set x.2⟩
        | exact fun x => ⟨x.2, x.2⟩
        | exact fun x => PointsOk.like x rfl rfl rfl
        | exact fun x => PointsOk.retain x rfl rfl rfl
        | exact fun x => PointsOk.restore x rfl rfl rfl
        | exact fun x => PointsOk.frozen x rfl rfl rfl
        | exact fun x => PointsOk.put x (quality_masked _)
        | exact fun x => PointsOk.putRetained x (quality_masked _)
        | skip
    | fail)

theorem keeps_goState {s0 : State} (f : Nat) (st : SfState) (src : Nat) (s : State) (hk : Keeps s0 s) :
    Keeps s0 (goState f st src s) := by
  unfold goState
  repeat' (first
    | with_reducible assumption
    | with_reducible apply keeps_putSf
    | with_reducible apply keeps_stateEvent
    | with_reducible intro _
    | extract_lets
    | split
    | simp -zeta only [Keeps.mk_upd_iff]
    | dsimp +zetaDelta only)

theorem keeps_lockFn {s0 : State} (f code : Nat) (cause : Option (Nat × Nat)) (exp : Bool) (s : State) (hk : Keeps s0 s) :
    Keeps s0 (lockFn f code cause exp s) := by
  unfold lockFn
  repeat' (first
    | with_reducible assumption
    | with_reducible apply keeps_putSf
    | with_reducible apply keeps_goState
    | with_reducible apply keeps_listLockout
    | with_reducible apply keeps_fieldEvent
    | with_reducible intro _
    | extract_lets
    | split
    | simp -zeta only [Keeps.mk_upd_iff]
    | dsimp +zetaDelta only)

theorem keeps_markFault {s0 : State} (code idx : Nat) (s : State) (hk : Keeps s0 s) :
    Keeps s0 (markFault code idx s) := by
  unfold markFault
  repeat' (first
    | with_reducible assumption
    | with_reducible apply keeps_foldS
    | with_reducible apply keeps_putSin
    | with_reducible apply keeps_putSq
    | with_reducible apply keeps_fieldEvent
    | with_reducible intro _
    | extract_lets
    | split
    | simp -zeta only [Keeps.mk_upd_iff]
    | dsimp +zetaDelta only
    | (with_reducible apply Keeps.mk_sound) <;> first
        | exact id
        | exact Table.wf_set
        | exact fun _ => Table.wf_nil
        | exact fun x => ⟨Table.wf_set x.1, x.2⟩
        | exact fun x => ⟨x.1, Table.wf_set x.2⟩
        | exact fun x => ⟨x.2, x.2⟩
        | exact fun x => PointsOk.like x rfl rfl rfl
        | exact fun x => PointsOk.retain x rfl rfl rfl
        | exact fun x => PointsOk.restore x rfl rfl rfl
        | exact fun x => PointsOk.frozen x rfl rfl rfl
        | exact fun x => PointsOk.put x (quality_masked _)
        | exact fun x => PointsOk.putRetained x (quality_masked _)
        | skip
    | fail)

theorem keeps_countFault {s0 : State} (code idx : Nat) (s : State) (hk : Keeps s0 s) :
    Keeps s0 (countFault code idx s) := by
  unfold countFault
  repeat' (first
    | with_reducible assumption
    | with_reducible apply keeps_onBoth
    | with_reducible apply keeps_markFault
    | with_reducible apply keeps_fieldEvent
    | with_reducible intro _
    | extract_lets
    | split
    | simp -zeta only [Keeps.mk_upd_iff]
    | dsimp +zetaDelta only
    | (with_reducible apply Keeps.mk_sound) <;> first
        | exact id
        | exact Table.wf_set
        | exact fun _ => Table.wf_nil
        | exact fun x => ⟨Table.wf_set x.1, x.2⟩
        | exact fun x => ⟨x.1, Table.wf_set x.2⟩
        | exact fun x => ⟨x.2, x.2⟩
        | exact fun x => PointsOk.like x rfl rfl rfl
        | exact fun x => PointsOk.retain x rfl rfl rfl
        | exact fun x => PointsOk.restore x rfl rfl rfl
        | exact fun x => PointsOk.frozen x rfl rfl rfl
        | exact fun x => PointsOk.put x (quality_masked _)
        | exact fun x => PointsOk.putRetained x (quality_masked _)
        | skip
    | fail)

theorem keeps_raiseFault {s0 : State} (code idx at_ : Nat) (s : State) (hk : Keeps s0 s) :
    Keeps s0 (raiseFault code idx at_ s) := by
  unfold raiseFault
  repeat' (first
    | with_reducible assumption
    | with_reducible apply keeps_countFault
    | with_reducible intro _
    | extract_lets
    | split
    | simp -zeta only [Keeps.mk_upd_iff]
    | dsimp +zetaDelta only
    | (with_reducible apply Keeps.mk_sound) <;> first
        | exact id
        | exact Table.wf_set
        | exact fun _ => Table.wf_nil
        | exact fun x => ⟨Table.wf_set x.1, x.2⟩
        | exact fun x => ⟨x.1, Table.wf_set x.2⟩
        | exact fun x => ⟨x.2, x.2⟩
        | exact fun x => PointsOk.like x rfl rfl rfl
        | exact fun x => PointsOk.retain x rfl rfl rfl
        | exact fun x => PointsOk.restore x rfl rfl rfl
        | exact fun x => PointsOk.frozen x rfl rfl rfl
        | exact fun x => PointsOk.put x (quality_masked _)
        | exact fun x => PointsOk.putRetained x (quality_masked _)
        | skip
    | fail)

theorem keeps_startTiming {s0 : State} (n : Nat) (s : State) (hk : Keeps s0 s) :
    Keeps s0 (startTiming n s) := by
  unfold startTiming
  repeat' (first
    | with_reducible assumption
    | with_reducible apply keeps_putSin
    | with_reducible intro _
    | extract_lets
    | split
    | simp -zeta only [Keeps.mk_upd_iff]
    | dsimp +zetaDelta only)

theorem keeps_clearMarks {s0 : State} (f : Nat) (s : State) (hk : Keeps s0 s) :
    Keeps s0 (clearMarks f s) := by
  unfold clearMarks
  repeat' (first
    | with_reducible assumption
    | with_reducible apply keeps_foldS
    | with_reducible apply keeps_startTiming
    | with_reducible apply keeps_putSin
    | with_reducible apply keeps_putSq
    | with_reducible intro _
    | extract_lets
    | split
    | simp -zeta only [Keeps.mk_upd_iff]
    | dsimp +zetaDelta only)

theorem keeps_driveSq {s0 : State} (m : Nat) (s : State) (hk : Keeps s0 s) :
    Keeps s0 (driveSq m s) := by
  unfold driveSq
  repeat' (first
    | with_reducible assumption
    | with_reducible apply keeps_swapHalves
    | with_reducible apply keeps_putSq
    | with_reducible apply keeps_raiseFault
    | with_reducible intro _
    | extract_lets
    | split
    | simp -zeta only [Keeps.mk_upd_iff]
    | dsimp +zetaDelta only)

theorem keeps_followFn {s0 : State} (old : State) (f : Nat) (u : State) (hk : Keeps s0 u) :
    Keeps s0 (followFn old f u) := keeps_putSf _ _ _ hk

theorem keeps_driveOutputs {s0 : State} (s : State) (hk : Keeps s0 s) :
    Keeps s0 (driveOutputs s) := by
  unfold driveOutputs
  repeat' (first
    | with_reducible assumption
    | with_reducible apply keeps_foldS
    | with_reducible apply keeps_onBoth
    | with_reducible apply keeps_followFn
    | with_reducible apply keeps_driveSq
    | with_reducible intro _
    | extract_lets
    | split
    | simp -zeta only [Keeps.mk_upd_iff]
    | dsimp +zetaDelta only)

theorem keeps_latchStatus {s0 : State} (s : State) (hk : Keeps s0 s) :
    Keeps s0 (latchStatus s) := by
  unfold latchStatus
  repeat' (first
    | with_reducible assumption
    | with_reducible apply keeps_foldl
    | with_reducible intro _
    | extract_lets
    | split
    | simp -zeta only [Keeps.mk_upd_iff]
    | dsimp +zetaDelta only
    | (with_reducible apply Keeps.mk_sound) <;> first
        | exact id
        | exact Table.wf_set
        | exact fun _ => Table.wf_nil
        | exact fun x => ⟨Table.wf_set x.1, x.2⟩
        | exact fun x => ⟨x.1, Table.wf_set x.2⟩
        | exact fun x => ⟨x.2, x.2⟩
        | exact fun x => PointsOk.like x rfl rfl rfl
        | exact fun x => PointsOk.retain x rfl rfl rfl
        | exact fun x => PointsOk.restore x rfl rfl rfl
        | exact fun x => PointsOk.frozen x rfl rfl rfl
        | exact fun x => PointsOk.put x (quality_masked _)
        | exact fun x => PointsOk.putRetained x (quality_masked _)
        | skip
    | fail)

theorem keeps_filterIn {s0 : State} (n : Nat) (chB lvl : Bool) (s : State) (hk : Keeps s0 s) :
    Keeps s0 (filterIn n chB lvl s) := by
  unfold filterIn
  repeat' (first
    | with_reducible assumption
    | with_reducible apply keeps_putSin
    | with_reducible intro _
    | extract_lets
    | split
    | simp -zeta only [Keeps.mk_upd_iff]
    | dsimp +zetaDelta only)

theorem keeps_execSafetyFilterChange {s0 : State} (x : HalfChannel) (lvl : Bool) (samples : Nat) (s : State) (hk : Keeps s0 s) :
    OutKeeps s0 (execSafetyFilterChange x lvl samples s) := by
  unfold execSafetyFilterChange
  repeat' (first
    | with_reducible assumption
    | with_reducible apply outKeeps_whenUpAnd
    | with_reducible apply OutKeeps.next
    | with_reducible apply keeps_onB
    | with_reducible apply keeps_filterIn
    | with_reducible intro _
    | extract_lets
    | split
    | simp -zeta only [Keeps.mk_upd_iff]
    | dsimp +zetaDelta only)

theorem keeps_execTestPulse {s0 : State} (j : Nat) (s : State) (hk : Keeps s0 s) :
    OutKeeps s0 (execTestPulse j s) := by
  unfold execTestPulse
  repeat' (first
    | with_reducible assumption
    | with_reducible apply outKeeps_whenUpAnd
    | with_reducible apply OutKeeps.next
    | with_reducible intro _
    | extract_lets
    | split
    | simp -zeta only [Keeps.mk_upd_iff]
    | dsimp +zetaDelta only
    | (with_reducible apply Keeps.mk_sound) <;> first
        | exact id
        | exact Table.wf_set
        | exact fun _ => Table.wf_nil
        | exact fun x => ⟨Table.wf_set x.1, x.2⟩
        | exact fun x => ⟨x.1, Table.wf_set x.2⟩
        | exact fun x => ⟨x.2, x.2⟩
        | exact fun x => PointsOk.like x rfl rfl rfl
        | exact fun x => PointsOk.retain x rfl rfl rfl
        | exact fun x => PointsOk.restore x rfl rfl rfl
        | exact fun x => PointsOk.frozen x rfl rfl rfl
        | exact fun x => PointsOk.put x (quality_masked _)
        | exact fun x => PointsOk.putRetained x (quality_masked _)
        | skip
    | fail)

theorem keeps_pulseChannel {s0 : State} (j t0 n : Nat) (chB fell : Bool) (s : State) (hk : Keeps s0 s) :
    Keeps s0 (pulseChannel j t0 n chB fell s) := by
  unfold pulseChannel
  repeat' (first
    | with_reducible assumption
    | with_reducible apply keeps_raiseFault
    | with_reducible apply keeps_putSin
    | with_reducible intro _
    | extract_lets
    | split
    | simp -zeta only [Keeps.mk_upd_iff]
    | dsimp +zetaDelta only)

theorem keeps_pulseChannels {s0 : State} (j t0 : Nat) (low : BitVec 16) (s : State) (hk : Keeps s0 s) :
    Keeps s0 (pulseChannels j t0 low s) := by
  unfold pulseChannels
  repeat' (first
    | with_reducible assumption
    | with_reducible apply keeps_foldS
    | with_reducible apply keeps_pulseChannel
    | with_reducible intro _
    | extract_lets
    | split
    | simp -zeta only [Keeps.mk_upd_iff]
    | dsimp +zetaDelta only)

theorem keeps_sourceCheck {s0 : State} (j t0 : Nat) (rb : Bool) (s : State) (hk : Keeps s0 s) :
    Keeps s0 (sourceCheck j t0 rb s) := by
  unfold sourceCheck
  repeat' (first
    | with_reducible assumption
    | with_reducible apply keeps_raiseFault
    | with_reducible intro _
    | extract_lets
    | split
    | simp -zeta only [Keeps.mk_upd_iff]
    | dsimp +zetaDelta only
    | (with_reducible apply Keeps.mk_sound) <;> first
        | exact id
        | exact Table.wf_set
        | exact fun _ => Table.wf_nil
        | exact fun x => ⟨Table.wf_set x.1, x.2⟩
        | exact fun x => ⟨x.1, Table.wf_set x.2⟩
        | exact fun x => ⟨x.2, x.2⟩
        | exact fun x => PointsOk.like x rfl rfl rfl
        | exact fun x => PointsOk.retain x rfl rfl rfl
        | exact fun x => PointsOk.restore x rfl rfl rfl
        | exact fun x => PointsOk.frozen x rfl rfl rfl
        | exact fun x => PointsOk.put x (quality_masked _)
        | exact fun x => PointsOk.putRetained x (quality_masked _)
        | skip
    | fail)

theorem keeps_execTestPulseCheck {s0 : State} (j : Nat) (low : BitVec 16) (rb : Bool) (s : State) (hk : Keeps s0 s) :
    OutKeeps s0 (execTestPulseCheck j low rb s) := by
  unfold execTestPulseCheck
  repeat' (first
    | with_reducible assumption
    | with_reducible apply outKeeps_whenUpAnd
    | with_reducible apply OutKeeps.next
    | with_reducible apply keeps_sourceCheck
    | with_reducible apply keeps_onB
    | with_reducible apply keeps_pulseChannels
    | with_reducible intro _
    | extract_lets
    | split
    | simp -zeta only [Keeps.mk_upd_iff]
    | dsimp +zetaDelta only
    | (with_reducible apply Keeps.mk_sound) <;> first
        | exact id
        | exact Table.wf_set
        | exact fun _ => Table.wf_nil
        | exact fun x => ⟨Table.wf_set x.1, x.2⟩
        | exact fun x => ⟨x.1, Table.wf_set x.2⟩
        | exact fun x => ⟨x.2, x.2⟩
        | exact fun x => PointsOk.like x rfl rfl rfl
        | exact fun x => PointsOk.retain x rfl rfl rfl
        | exact fun x => PointsOk.restore x rfl rfl rfl
        | exact fun x => PointsOk.frozen x rfl rfl rfl
        | exact fun x => PointsOk.put x (quality_masked _)
        | exact fun x => PointsOk.putRetained x (quality_masked _)
        | skip
    | fail)

theorem keeps_execDiscTimeout {s0 : State} (n : Nat) (s : State) (hk : Keeps s0 s) :
    OutKeeps s0 (execDiscTimeout n s) := by
  unfold execDiscTimeout
  repeat' (first
    | with_reducible assumption
    | with_reducible apply outKeeps_whenUpAnd
    | with_reducible apply OutKeeps.next
    | with_reducible apply keeps_raiseFault
    | with_reducible intro _
    | extract_lets
    | split
    | simp -zeta only [Keeps.mk_upd_iff]
    | dsimp +zetaDelta only)

theorem keeps_execFeedbackTimeout {s0 : State} (m : Nat) (s : State) (hk : Keeps s0 s) :
    OutKeeps s0 (execFeedbackTimeout m s) := by
  unfold execFeedbackTimeout
  repeat' (first
    | with_reducible assumption
    | with_reducible apply outKeeps_whenUpAnd
    | with_reducible apply OutKeeps.next
    | with_reducible apply keeps_raiseFault
    | with_reducible apply keeps_putSq
    | with_reducible intro _
    | extract_lets
    | split
    | simp -zeta only [Keeps.mk_upd_iff]
    | dsimp +zetaDelta only)

theorem keeps_pulsedOff {s0 : State} (q : Nat) (s : State) (hk : Keeps s0 s) :
    Keeps s0 (pulsedOff q s) := by
  unfold pulsedOff
  repeat' (first
    | with_reducible assumption
    | with_reducible intro _
    | extract_lets
    | split
    | simp -zeta only [Keeps.mk_upd_iff]
    | dsimp +zetaDelta only
    | (with_reducible apply Keeps.mk_sound) <;> first
        | exact id
        | exact Table.wf_set
        | exact fun _ => Table.wf_nil
        | exact fun x => ⟨Table.wf_set x.1, x.2⟩
        | exact fun x => ⟨x.1, Table.wf_set x.2⟩
        | exact fun x => ⟨x.2, x.2⟩
        | exact fun x => PointsOk.like x rfl rfl rfl
        | exact fun x => PointsOk.retain x rfl rfl rfl
        | exact fun x => PointsOk.restore x rfl rfl rfl
        | exact fun x => PointsOk.frozen x rfl rfl rfl
        | exact fun x => PointsOk.put x (quality_masked _)
        | exact fun x => PointsOk.putRetained x (quality_masked _)
        | skip
    | fail)

theorem keeps_testedOff {s0 : State} (q : Nat) (s : State) (hk : Keeps s0 s) :
    Keeps s0 (testedOff q s) := by
  unfold testedOff
  repeat' (first
    | with_reducible assumption
    | with_reducible intro _
    | extract_lets
    | split
    | simp -zeta only [Keeps.mk_upd_iff]
    | dsimp +zetaDelta only
    | (with_reducible apply Keeps.mk_sound) <;> first
        | exact id
        | exact Table.wf_set
        | exact fun _ => Table.wf_nil
        | exact fun x => ⟨Table.wf_set x.1, x.2⟩
        | exact fun x => ⟨x.1, Table.wf_set x.2⟩
        | exact fun x => ⟨x.2, x.2⟩
        | exact fun x => PointsOk.like x rfl rfl rfl
        | exact fun x => PointsOk.retain x rfl rfl rfl
        | exact fun x => PointsOk.restore x rfl rfl rfl
        | exact fun x => PointsOk.frozen x rfl rfl rfl
        | exact fun x => PointsOk.put x (quality_masked _)
        | exact fun x => PointsOk.putRetained x (quality_masked _)
        | skip
    | fail)

theorem keeps_execSwitchOffPulse {s0 : State} (q : Nat) (fell : Bool) (s : State) (hk : Keeps s0 s) :
    OutKeeps s0 (execSwitchOffPulse q fell s) := by
  unfold execSwitchOffPulse
  repeat' (first
    | with_reducible assumption
    | with_reducible apply outKeeps_whenUpAnd
    | with_reducible apply OutKeeps.next
    | with_reducible apply keeps_pulsedOff
    | with_reducible apply keeps_putSq
    | with_reducible apply keeps_raiseFault
    | with_reducible intro _
    | extract_lets
    | split
    | simp -zeta only [Keeps.mk_upd_iff]
    | dsimp +zetaDelta only)

theorem keeps_execSwitchQlow {s0 : State} (q : Nat) (s : State) (hk : Keeps s0 s) :
    OutKeeps s0 (execSwitchQlow q s) := by
  unfold execSwitchQlow
  repeat' (first
    | with_reducible assumption
    | with_reducible apply outKeeps_whenUpAnd
    | with_reducible apply OutKeeps.next
    | with_reducible apply keeps_raiseFault
    | with_reducible apply keeps_putSq
    | with_reducible intro _
    | extract_lets
    | split
    | simp -zeta only [Keeps.mk_upd_iff]
    | dsimp +zetaDelta only)

theorem keeps_execSwitchQovl {s0 : State} (q : Nat) (s : State) (hk : Keeps s0 s) :
    OutKeeps s0 (execSwitchQovl q s) := by
  unfold execSwitchQovl
  repeat' (first
    | with_reducible assumption
    | with_reducible apply outKeeps_whenUpAnd
    | with_reducible apply OutKeeps.next
    | with_reducible apply keeps_driveOutputs
    | with_reducible apply keeps_raiseFault
    | with_reducible apply keeps_putSq
    | with_reducible intro _
    | extract_lets
    | split
    | simp -zeta only [Keeps.mk_upd_iff]
    | dsimp +zetaDelta only)

theorem keeps_execLockoutOffTest {s0 : State} (q : Nat) (pass : Bool) (s : State) (hk : Keeps s0 s) :
    OutKeeps s0 (execLockoutOffTest q pass s) := by
  unfold execLockoutOffTest
  repeat' (first
    | with_reducible assumption
    | with_reducible apply outKeeps_whenUpAnd
    | with_reducible apply OutKeeps.next
    | with_reducible apply keeps_testedOff
    | with_reducible apply keeps_putSq
    | with_reducible intro _
    | extract_lets
    | split
    | simp -zeta only [Keeps.mk_upd_iff]
    | dsimp +zetaDelta only)

theorem keeps_execSupplyFault {s0 : State} (s : State) (hk : Keeps s0 s) :
    OutKeeps s0 (execSupplyFault s) := by
  unfold execSupplyFault
  repeat' (first
    | with_reducible assumption
    | with_reducible apply outKeeps_whenUpAnd
    | with_reducible apply OutKeeps.next
    | with_reducible apply keeps_foldS
    | with_reducible apply keeps_markFault
    | with_reducible apply keeps_driveOutputs
    | with_reducible apply keeps_onBoth
    | with_reducible apply keeps_goState
    | with_reducible intro _
    | extract_lets
    | split
    | simp -zeta only [Keeps.mk_upd_iff]
    | dsimp +zetaDelta only
    | (with_reducible apply Keeps.mk_sound) <;> first
        | exact id
        | exact Table.wf_set
        | exact fun _ => Table.wf_nil
        | exact fun x => ⟨Table.wf_set x.1, x.2⟩
        | exact fun x => ⟨x.1, Table.wf_set x.2⟩
        | exact fun x => ⟨x.2, x.2⟩
        | exact fun x => PointsOk.like x rfl rfl rfl
        | exact fun x => PointsOk.retain x rfl rfl rfl
        | exact fun x => PointsOk.restore x rfl rfl rfl
        | exact fun x => PointsOk.frozen x rfl rfl rfl
        | exact fun x => PointsOk.put x (quality_masked _)
        | exact fun x => PointsOk.putRetained x (quality_masked _)
        | skip
    | fail)

theorem keeps_execSupplyRecovered {s0 : State} (s : State) (hk : Keeps s0 s) :
    OutKeeps s0 (execSupplyRecovered s) := by
  unfold execSupplyRecovered
  repeat' (first
    | with_reducible assumption
    | with_reducible apply outKeeps_whenUp
    | with_reducible apply OutKeeps.next
    | with_reducible intro _
    | extract_lets
    | split
    | simp -zeta only [Keeps.mk_upd_iff]
    | dsimp +zetaDelta only
    | (with_reducible apply Keeps.mk_sound) <;> first
        | exact id
        | exact Table.wf_set
        | exact fun _ => Table.wf_nil
        | exact fun x => ⟨Table.wf_set x.1, x.2⟩
        | exact fun x => ⟨x.1, Table.wf_set x.2⟩
        | exact fun x => ⟨x.2, x.2⟩
        | exact fun x => PointsOk.like x rfl rfl rfl
        | exact fun x => PointsOk.retain x rfl rfl rfl
        | exact fun x => PointsOk.restore x rfl rfl rfl
        | exact fun x => PointsOk.frozen x rfl rfl rfl
        | exact fun x => PointsOk.put x (quality_masked _)
        | exact fun x => PointsOk.putRetained x (quality_masked _)
        | skip
    | fail)

theorem keeps_execTempFault {s0 : State} (s : State) (hk : Keeps s0 s) :
    OutKeeps s0 (execTempFault s) := by
  unfold execTempFault
  repeat' (first
    | with_reducible assumption
    | with_reducible apply outKeeps_whenUpAnd
    | with_reducible apply OutKeeps.next
    | with_reducible apply keeps_raiseFault
    | with_reducible intro _
    | extract_lets
    | split
    | simp -zeta only [Keeps.mk_upd_iff]
    | dsimp +zetaDelta only
    | (with_reducible apply Keeps.mk_sound) <;> first
        | exact id
        | exact Table.wf_set
        | exact fun _ => Table.wf_nil
        | exact fun x => ⟨Table.wf_set x.1, x.2⟩
        | exact fun x => ⟨x.1, Table.wf_set x.2⟩
        | exact fun x => ⟨x.2, x.2⟩
        | exact fun x => PointsOk.like x rfl rfl rfl
        | exact fun x => PointsOk.retain x rfl rfl rfl
        | exact fun x => PointsOk.restore x rfl rfl rfl
        | exact fun x => PointsOk.frozen x rfl rfl rfl
        | exact fun x => PointsOk.put x (quality_masked _)
        | exact fun x => PointsOk.putRetained x (quality_masked _)
        | skip
    | fail)

theorem keeps_execStandinExpiry {s0 : State} (f : Nat) (s : State) (hk : Keeps s0 s) :
    OutKeeps s0 (execStandinExpiry f s) := by
  unfold execStandinExpiry
  repeat' (first
    | with_reducible assumption
    | with_reducible apply outKeeps_whenUpAnd
    | with_reducible apply OutKeeps.next
    | with_reducible apply keeps_driveOutputs
    | with_reducible apply keeps_onBoth
    | with_reducible apply keeps_lockFn
    | with_reducible intro _
    | extract_lets
    | split
    | simp -zeta only [Keeps.mk_upd_iff]
    | dsimp +zetaDelta only)

theorem keeps_execLockRelease {s0 : State} (f : Nat) (s : State) (hk : Keeps s0 s) :
    OutKeeps s0 (execLockRelease f s) := by
  unfold execLockRelease
  repeat' (first
    | with_reducible assumption
    | with_reducible apply outKeeps_whenUpAnd
    | with_reducible apply OutKeeps.next
    | with_reducible apply keeps_driveOutputs
    | with_reducible apply keeps_onBoth
    | with_reducible apply keeps_putSf
    | with_reducible intro _
    | extract_lets
    | split
    | simp -zeta only [Keeps.mk_upd_iff]
    | dsimp +zetaDelta only)

theorem keeps_execTwoHandTimeout {s0 : State} (f : Nat) (s : State) (hk : Keeps s0 s) :
    OutKeeps s0 (execTwoHandTimeout f s) := by
  unfold execTwoHandTimeout
  repeat' (first
    | with_reducible assumption
    | with_reducible apply outKeeps_whenUpAnd
    | with_reducible apply OutKeeps.next
    | with_reducible apply keeps_onBoth
    | with_reducible apply keeps_goState
    | with_reducible intro _
    | extract_lets
    | split
    | simp -zeta only [Keeps.mk_upd_iff]
    | dsimp +zetaDelta only)

theorem keeps_execSafreqLapse {s0 : State} (s : State) (hk : Keeps s0 s) :
    OutKeeps s0 (execSafreqLapse s) := by
  unfold execSafreqLapse
  repeat' (first
    | with_reducible assumption
    | with_reducible apply outKeeps_whenUpAnd
    | with_reducible apply OutKeeps.next
    | with_reducible apply keeps_foldS
    | with_reducible apply keeps_onBoth
    | with_reducible apply keeps_putSf
    | with_reducible intro _
    | extract_lets
    | split
    | simp -zeta only [Keeps.mk_upd_iff]
    | dsimp +zetaDelta only
    | (with_reducible apply Keeps.mk_sound) <;> first
        | exact id
        | exact Table.wf_set
        | exact fun _ => Table.wf_nil
        | exact fun x => ⟨Table.wf_set x.1, x.2⟩
        | exact fun x => ⟨x.1, Table.wf_set x.2⟩
        | exact fun x => ⟨x.2, x.2⟩
        | exact fun x => PointsOk.like x rfl rfl rfl
        | exact fun x => PointsOk.retain x rfl rfl rfl
        | exact fun x => PointsOk.restore x rfl rfl rfl
        | exact fun x => PointsOk.frozen x rfl rfl rfl
        | exact fun x => PointsOk.put x (quality_masked _)
        | exact fun x => PointsOk.putRetained x (quality_masked _)
        | skip
    | fail)

theorem keeps_ignoredHold {s0 : State} (f bit : Nat) (r : ReqS) (lvl : Bool) (s : State) (hk : Keeps s0 s) :
    Keeps s0 (ignoredHold f bit r lvl s) := by
  unfold ignoredHold
  repeat' (first
    | with_reducible assumption
    | with_reducible apply keeps_stateEvent
    | with_reducible intro _
    | extract_lets
    | split
    | dsimp only
    | simp -zeta only [Keeps.mk_upd_iff]
    | dsimp +zetaDelta only)

theorem keeps_takeRequests {s0 : State} (bits : BitVec 24) (s : State) (hk : Keeps s0 s) :
    Keeps s0 (takeRequests bits s) := by
  unfold takeRequests
  repeat' (first
    | with_reducible assumption
    | with_reducible apply keeps_foldS
    | with_reducible apply keeps_onBoth
    | with_reducible apply keeps_ignoredHold
    | with_reducible apply keeps_putSf
    | with_reducible intro _
    | extract_lets
    | split
    | dsimp only
    | simp -zeta only [Keeps.mk_upd_iff]
    | dsimp +zetaDelta only
    | (with_reducible apply Keeps.mk_sound) <;> first
        | exact id
        | exact Table.wf_set
        | exact fun _ => Table.wf_nil
        | exact fun x => ⟨Table.wf_set x.1, x.2⟩
        | exact fun x => ⟨x.1, Table.wf_set x.2⟩
        | exact fun x => ⟨x.2, x.2⟩
        | exact fun x => PointsOk.like x rfl rfl rfl
        | exact fun x => PointsOk.retain x rfl rfl rfl
        | exact fun x => PointsOk.restore x rfl rfl rfl
        | exact fun x => PointsOk.frozen x rfl rfl rfl
        | exact fun x => PointsOk.put x (quality_masked _)
        | exact fun x => PointsOk.putRetained x (quality_masked _)
        | skip
    | fail)

theorem keeps_commitSaf {s0 : State} (bs : List Byte) (s : State) (hk : Keeps s0 s) :
    Keeps s0 (commitSaf bs s) := by
  unfold commitSaf
  repeat' (first
    | with_reducible assumption
    | with_reducible apply keeps_foldS
    | with_reducible apply keeps_onBoth
    | with_reducible apply keeps_stateEvent
    | with_reducible apply keeps_putSf
    | with_reducible apply keeps_driveOutputs
    | with_reducible intro _
    | extract_lets
    | split
    | simp -zeta only [Keeps.mk_upd_iff]
    | dsimp +zetaDelta only
    | (with_reducible apply Keeps.mk_sound) <;> first
        | exact id
        | exact Table.wf_set
        | exact fun _ => Table.wf_nil
        | exact fun x => ⟨Table.wf_set x.1, x.2⟩
        | exact fun x => ⟨x.1, Table.wf_set x.2⟩
        | exact fun x => ⟨x.2, x.2⟩
        | exact fun x => PointsOk.like x rfl rfl rfl
        | exact fun x => PointsOk.retain x rfl rfl rfl
        | exact fun x => PointsOk.restore x rfl rfl rfl
        | exact fun x => PointsOk.frozen x rfl rfl rfl
        | exact fun x => PointsOk.put x (quality_masked _)
        | exact fun x => PointsOk.putRetained x (quality_masked _)
        | skip
    | fail)

theorem keeps_receiveSaf {s0 : State} (bs : List Byte) (s : State) (hk : Keeps s0 s) :
    Keeps s0 (receiveSaf bs s) := by
  unfold receiveSaf
  repeat' (first
    | with_reducible assumption
    | with_reducible apply keeps_foldS
    | with_reducible apply keeps_onBoth
    | with_reducible apply keeps_startTiming
    | with_reducible apply keeps_markFault
    | with_reducible intro _
    | extract_lets
    | split
    | simp -zeta only [Keeps.mk_upd_iff]
    | dsimp +zetaDelta only
    | (with_reducible apply Keeps.mk_sound) <;> first
        | exact id
        | exact Table.wf_set
        | exact fun _ => Table.wf_nil
        | exact fun x => ⟨Table.wf_set x.1, x.2⟩
        | exact fun x => ⟨x.1, Table.wf_set x.2⟩
        | exact fun x => ⟨x.2, x.2⟩
        | exact fun x => PointsOk.like x rfl rfl rfl
        | exact fun x => PointsOk.retain x rfl rfl rfl
        | exact fun x => PointsOk.restore x rfl rfl rfl
        | exact fun x => PointsOk.frozen x rfl rfl rfl
        | exact fun x => PointsOk.put x (quality_masked _)
        | exact fun x => PointsOk.putRetained x (quality_masked _)
        | skip
    | fail)

theorem keeps_pairRestart {s0 : State} (s : State) (hk : Keeps s0 s) :
    Keeps s0 (pairRestart s) := by
  unfold pairRestart
  extract_lets s1
  have h : Keeps s0 s1 := keeps_foldS _ _ _ hk (fun f t h => by
    split
    · exact h
    · exact keeps_stateEvent _ _ _ _ _ h)
  clear_value s1
  exact ⟨h.pending, h.now, h.variant, h.draws, h.image, fun x => { h.tables x with
    safIn := rfl, safFn := rfl, safInB := rfl, safFnB := rfl, safOut := Table.wf_fill _ _ _ Table.wf_nil }⟩

theorem keeps_startFn {s0 : State} (found : List (Nat × Nat)) (f : Nat) (s : State) (hk : Keeps s0 s) :
    Keeps s0 (startFn found f s) := by
  unfold startFn
  repeat' (first
    | with_reducible assumption
    | with_reducible apply keeps_lockFn
    | with_reducible apply keeps_putSf
    | with_reducible apply keeps_goState
    | with_reducible intro _
    | extract_lets
    | split
    | dsimp only
    | simp -zeta only [Keeps.mk_upd_iff]
    | dsimp +zetaDelta only)

theorem keeps_startPasses {s0 : State} (s : State) (hk : Keeps s0 s) :
    Keeps s0 (startPasses s) := by
  unfold startPasses
  repeat' (first
    | with_reducible assumption
    | with_reducible apply keeps_foldS
    | with_reducible apply keeps_foldl
    | with_reducible apply keeps_putSin
    | with_reducible apply keeps_putSq
    | with_reducible intro _
    | extract_lets
    | split
    | simp -zeta only [Keeps.mk_upd_iff]
    | dsimp +zetaDelta only)

theorem keeps_execStartDiagnostics {s0 : State} (found : List (Nat × Nat)) (s : State) (hk : Keeps s0 s) :
    OutKeeps s0 (execStartDiagnostics found s) := by
  unfold execStartDiagnostics
  refine outKeeps_whenUpAnd hk (fun t h => ?_)
  extract_lets l s1 s2
  have h1 : Keeps s0 s1 := keeps_foldS _ _ _ h (fun e u h => keeps_countFault e.1 e.2 _ h)
  have h2 : Keeps s0 s2 := keeps_onBoth _ _ h1 (fun _ _ h => keeps_startPasses _ h)
  clear_value s2
  exact keeps_driveOutputs _ (keeps_onBoth _ _ (h2.setSaf rfl rfl rfl rfl rfl)
    (fun _ _ h => keeps_foldS _ _ _ h (fun _ _ h => keeps_startFn _ _ _ h)))

theorem keeps_beginStandin {s0 : State} (f : Nat) (e : Nat × Nat × Nat) (s : State) (hk : Keeps s0 s) :
    Keeps s0 (beginStandin f e s) := by
  unfold beginStandin
  repeat' (first
    | with_reducible assumption
    | with_reducible apply keeps_putSf
    | with_reducible apply keeps_listLockout
    | with_reducible apply keeps_fieldEvent
    | with_reducible intro _
    | extract_lets
    | split
    | dsimp only
    | simp -zeta only [Keeps.mk_upd_iff]
    | dsimp +zetaDelta only
    | (with_reducible apply Keeps.mk_sound) <;> first
        | exact id
        | exact Table.wf_set
        | exact fun _ => Table.wf_nil
        | exact fun x => ⟨Table.wf_set x.1, x.2⟩
        | exact fun x => ⟨x.1, Table.wf_set x.2⟩
        | exact fun x => ⟨x.2, x.2⟩
        | exact fun x => PointsOk.like x rfl rfl rfl
        | exact fun x => PointsOk.retain x rfl rfl rfl
        | exact fun x => PointsOk.restore x rfl rfl rfl
        | exact fun x => PointsOk.frozen x rfl rfl rfl
        | exact fun x => PointsOk.put x (quality_masked _)
        | exact fun x => PointsOk.putRetained x (quality_masked _)
        | skip
    | fail)

theorem keeps_judgeFaults {s0 : State} (f : Nat) (fs : List (Nat × Nat × Nat)) (s : State) (hk : Keeps s0 s) :
    Keeps s0 (judgeFaults f fs s).2 := by
  unfold judgeFaults
  repeat' (first
    | with_reducible assumption
    | with_reducible apply keeps_putSf
    | with_reducible apply keeps_beginStandin
    | with_reducible apply keeps_lockFn
    | with_reducible intro _
    | extract_lets
    | split
    | dsimp only
    | simp -zeta only [Keeps.mk_upd_iff]
    | dsimp +zetaDelta only)

theorem keeps_twoHand {s0 : State} (f : Nat) (s : State) (hk : Keeps s0 s) :
    Keeps s0 (twoHand f s) := by
  unfold twoHand
  repeat' (first
    | with_reducible assumption
    | with_reducible apply keeps_goState
    | with_reducible apply keeps_putSf
    | with_reducible intro _
    | extract_lets
    | split
    | simp -zeta only [Keeps.mk_upd_iff]
    | dsimp +zetaDelta only)

theorem keeps_judgeDemand {s0 : State} (f : Nat) (s : State) (hk : Keeps s0 s) :
    Keeps s0 (judgeDemand f s) := by
  unfold judgeDemand
  repeat' (first
    | with_reducible assumption
    | with_reducible apply keeps_goState
    | with_reducible apply keeps_twoHand
    | with_reducible apply keeps_clearMarks
    | with_reducible apply keeps_putSf
    | with_reducible intro _
    | extract_lets
    | split
    | dsimp only
    | simp -zeta only [Keeps.mk_upd_iff]
    | dsimp +zetaDelta only
    | (with_reducible apply Keeps.mk_sound) <;> first
        | exact id
        | exact Table.wf_set
        | exact fun _ => Table.wf_nil
        | exact fun x => ⟨Table.wf_set x.1, x.2⟩
        | exact fun x => ⟨x.1, Table.wf_set x.2⟩
        | exact fun x => ⟨x.2, x.2⟩
        | exact fun x => PointsOk.like x rfl rfl rfl
        | exact fun x => PointsOk.retain x rfl rfl rfl
        | exact fun x => PointsOk.restore x rfl rfl rfl
        | exact fun x => PointsOk.frozen x rfl rfl rfl
        | exact fun x => PointsOk.put x (quality_masked _)
        | exact fun x => PointsOk.putRetained x (quality_masked _)
        | skip
    | fail)

theorem keeps_endFn {s0 : State} (old : SfState) (f : Nat) (s : State) (hk : Keeps s0 s) :
    Keeps s0 (endFn old f s) := by
  unfold endFn
  repeat' (first
    | with_reducible assumption
    | with_reducible apply keeps_stateEvent
    | with_reducible apply keeps_putSf
    | with_reducible intro _
    | extract_lets
    | split
    | simp -zeta only [Keeps.mk_upd_iff]
    | dsimp +zetaDelta only)

theorem keeps_cycleFn {s0 : State} (fs : List (Nat × Nat × Nat)) (f : Nat) (s : State) (hk : Keeps s0 s) :
    Keeps s0 (cycleFn fs f s) := by
  unfold cycleFn
  repeat' (first
    | with_reducible assumption
    | with_reducible apply keeps_endFn
    | with_reducible apply keeps_putSf
    | with_reducible apply keeps_judgeFaults
    | with_reducible apply keeps_judgeDemand
    | with_reducible intro _
    | extract_lets
    | split
    | dsimp only
    | simp -zeta only [Keeps.mk_upd_iff]
    | dsimp +zetaDelta only)

theorem keeps_readEdm {s0 : State} (edm : BitVec 4) (s : State) (hk : Keeps s0 s) :
    Keeps s0 (readEdm edm s) := by
  unfold readEdm
  repeat' (first
    | with_reducible assumption
    | with_reducible apply keeps_foldS
    | with_reducible apply keeps_putSq
    | with_reducible intro _
    | extract_lets
    | split
    | simp -zeta only [Keeps.mk_upd_iff]
    | dsimp +zetaDelta only)

theorem keeps_lockFaults {s0 : State} (s : State) (hk : Keeps s0 s) :
    Keeps s0 (lockFaults s) := by
  unfold lockFaults
  repeat' (first
    | with_reducible assumption
    | with_reducible apply keeps_foldS
    | with_reducible apply keeps_raiseFault
    | with_reducible intro _
    | extract_lets
    | split
    | simp -zeta only [Keeps.mk_upd_iff]
    | dsimp +zetaDelta only)

theorem keeps_evalFns {s0 : State} (fs : List (Nat × Nat × Nat)) (s : State) (hk : Keeps s0 s) :
    Keeps s0 (evalFns fs s) := by
  unfold evalFns
  repeat' (first
    | with_reducible assumption
    | with_reducible apply keeps_foldS
    | with_reducible apply keeps_driveOutputs
    | with_reducible apply keeps_onBoth
    | with_reducible apply keeps_cycleFn
    | with_reducible intro _
    | extract_lets
    | split
    | simp -zeta only [Keeps.mk_upd_iff]
    | dsimp +zetaDelta only)

theorem keeps_evalCycle {s0 : State} (edm : BitVec 4) (differ self : Bool) (s : State) (hk : Keeps s0 s) :
    Keeps s0 (evalCycle edm differ self s) := by
  have h1 : Keeps s0 { s with saf := { s.saf with cycle := s.saf.cycle + 1, cycAt := s.now } } :=
    hk.setSaf rfl rfl rfl rfl rfl
  have h2 := keeps_lockFaults _ (keeps_readEdm edm _ (keeps_onBoth _ _ h1
    (fun _ _ h => keeps_foldS (List.range 8) startTiming _ h (fun _ _ h => keeps_startTiming _ _ h))))
  unfold evalCycle
  refine keeps_latchStatus _ (Keeps.setSaf ?_ rfl rfl rfl rfl rfl)
  dsimp only
  split
  · exact keeps_evalFns _ _ (h2.setSaf rfl rfl rfl rfl rfl)
  · exact keeps_evalFns _ _ (keeps_foldS _ _ _ (h2.setSaf rfl rfl rfl rfl rfl)
      (fun _ _ h => keeps_markFault _ _ _ (h.setSaf rfl rfl rfl rfl rfl)))

/-! ### Machine/Msl.lean -/

theorem keeps_haltEvent {s0 : State} (slot : Nat) (entry : Bool) (s : State) (hk : Keeps s0 s) :
    Keeps s0 (haltEvent slot entry s) := by
  unfold haltEvent
  repeat' (first
    | with_reducible assumption
    | with_reducible apply keeps_fieldEvent
    | with_reducible intro _
    | extract_lets
    | split
    | simp -zeta only [Keeps.mk_upd_iff]
    | dsimp +zetaDelta only)

theorem keeps_beginSlot {s0 : State} (used : Bool) (slot : Nat) (s : State) (hk : Keeps s0 s) :
    Keeps s0 (beginSlot used slot s) := by
  unfold beginSlot
  repeat' (first
    | with_reducible assumption
    | with_reducible apply keeps_putMsl
    | with_reducible apply keeps_haltEvent
    | with_reducible intro _
    | extract_lets
    | split
    | simp -zeta only [Keeps.mk_upd_iff]
    | dsimp +zetaDelta only)

theorem keeps_receiveMsl {s0 : State} (bs : List Byte) (s : State) (hk : Keeps s0 s) :
    Keeps s0 (receiveMsl bs s) := by
  unfold receiveMsl
  split
  · extract_lets new s1
    have h : Keeps s0 s1 := keeps_foldS _ _ _ hk (fun i t h => by
      split
      · exact h
      · exact keeps_beginSlot _ _ _ h)
    clear_value s1
    exact h.setMsl id
  · extract_lets _ s1 s2
    have h1 : Keeps s0 s1 := keeps_markFault 0x31 0 _ (hk.setSaf rfl rfl rfl rfl rfl)
    have h2 : Keeps s0 s2 := keeps_foldS _ _ _ h1 (fun _ _ h => keeps_beginSlot _ _ _ h)
    clear_value s2
    exact h2.setMsl id

theorem keeps_mslRestart {s0 : State} (s : State) (hk : Keeps s0 s) :
    Keeps s0 (mslRestart s) := by
  unfold mslRestart
  extract_lets s1
  have h : Keeps s0 s1 := keeps_foldS _ _ _ hk (fun _ _ h => keeps_beginSlot _ _ _ h)
  clear_value s1
  exact h.setMsl id

theorem keeps_commitMsl {s0 : State} (bs : List Byte) (s : State) (hk : Keeps s0 s) :
    Keeps s0 (commitMsl bs s) := by
  unfold commitMsl
  repeat' (first
    | with_reducible assumption
    | with_reducible apply keeps_foldS
    | with_reducible apply keeps_beginSlot
    | with_reducible intro _
    | extract_lets
    | split
    | simp -zeta only [Keeps.mk_upd_iff]
    | dsimp +zetaDelta only
    | (with_reducible apply Keeps.mk_sound) <;> first
        | exact id
        | exact Table.wf_set
        | exact fun _ => Table.wf_nil
        | exact fun x => ⟨Table.wf_set x.1, x.2⟩
        | exact fun x => ⟨x.1, Table.wf_set x.2⟩
        | exact fun x => ⟨x.2, x.2⟩
        | exact fun x => PointsOk.like x rfl rfl rfl
        | exact fun x => PointsOk.retain x rfl rfl rfl
        | exact fun x => PointsOk.restore x rfl rfl rfl
        | exact fun x => PointsOk.frozen x rfl rfl rfl
        | exact fun x => PointsOk.put x (quality_masked _)
        | exact fun x => PointsOk.putRetained x (quality_masked _)
        | skip
    | fail)

theorem keeps_crcFailure {s0 : State} (slot : Nat) (s : State) (hk : Keeps s0 s) :
    Keeps s0 (crcFailure slot s) := by
  unfold crcFailure
  repeat' (first
    | with_reducible assumption
    | with_reducible apply keeps_haltEvent
    | with_reducible apply keeps_putMsl
    | with_reducible intro _
    | extract_lets
    | split
    | simp -zeta only [Keeps.mk_upd_iff]
    | dsimp +zetaDelta only)

theorem keeps_repetition {s0 : State} (slot : Nat) (s : State) (hk : Keeps s0 s) :
    Keeps s0 (repetition slot s) := by
  unfold repetition
  repeat' (first
    | with_reducible assumption
    | with_reducible apply keeps_putMsl
    | with_reducible intro _
    | extract_lets
    | split
    | simp -zeta only [Keeps.mk_upd_iff]
    | dsimp +zetaDelta only)

theorem keeps_sendTg {s0 : State} (slot : Nat) (tg : List Byte) (s : State) (hk : Keeps s0 s) :
    Keeps s0 (sendTg slot tg s) := by
  unfold sendTg
  repeat' (first
    | with_reducible assumption
    | with_reducible intro _
    | extract_lets
    | split
    | simp -zeta only [Keeps.mk_upd_iff]
    | dsimp +zetaDelta only
    | (with_reducible apply Keeps.mk_sound) <;> first
        | exact id
        | exact Table.wf_set
        | exact fun _ => Table.wf_nil
        | exact fun x => ⟨Table.wf_set x.1, x.2⟩
        | exact fun x => ⟨x.1, Table.wf_set x.2⟩
        | exact fun x => ⟨x.2, x.2⟩
        | exact fun x => PointsOk.like x rfl rfl rfl
        | exact fun x => PointsOk.retain x rfl rfl rfl
        | exact fun x => PointsOk.restore x rfl rfl rfl
        | exact fun x => PointsOk.frozen x rfl rfl rfl
        | exact fun x => PointsOk.put x (quality_masked _)
        | exact fun x => PointsOk.putRetained x (quality_masked _)
        | skip
    | fail)

theorem keeps_startValue {s0 : State} (s : State) (hk : Keeps s0 s) :
    Keeps s0 (startValue s).2 := by
  unfold startValue
  repeat' (first
    | with_reducible assumption
    | with_reducible apply keeps_drawIn
    | with_reducible intro _
    | extract_lets
    | split
    | dsimp only
    | simp -zeta only [Keeps.mk_upd_iff]
    | dsimp +zetaDelta only)

theorem keeps_halvesPart {s0 : State} (s : State) (hk : Keeps s0 s) :
    Keeps s0 (halvesPart s) := by
  unfold halvesPart
  repeat' (first
    | with_reducible assumption
    | with_reducible intro _
    | extract_lets
    | split
    | simp -zeta only [Keeps.mk_upd_iff]
    | dsimp +zetaDelta only
    | (with_reducible apply Keeps.mk_sound) <;> first
        | exact id
        | exact Table.wf_set
        | exact fun _ => Table.wf_nil
        | exact fun x => ⟨Table.wf_set x.1, x.2⟩
        | exact fun x => ⟨x.1, Table.wf_set x.2⟩
        | exact fun x => ⟨x.2, x.2⟩
        | exact fun x => PointsOk.like x rfl rfl rfl
        | exact fun x => PointsOk.retain x rfl rfl rfl
        | exact fun x => PointsOk.restore x rfl rfl rfl
        | exact fun x => PointsOk.frozen x rfl rfl rfl
        | exact fun x => PointsOk.put x (quality_masked _)
        | exact fun x => PointsOk.putRetained x (quality_masked _)
        | skip
    | fail)

theorem keeps_openSlot {s0 : State} (slot : Nat) (differ : Bool) (s : State) (hk : Keeps s0 s) :
    Keeps s0 (openSlot slot differ s) := by
  unfold openSlot
  repeat' (first
    | with_reducible assumption
    | with_reducible apply keeps_startValue
    | with_reducible apply keeps_putMsl
    | with_reducible apply keeps_halvesPart
    | with_reducible apply keeps_sendTg
    | with_reducible intro _
    | extract_lets
    | split
    | dsimp only
    | simp -zeta only [Keeps.mk_upd_iff]
    | dsimp +zetaDelta only)

theorem keeps_dropInbox {s0 : State} (slot : Nat) (s : State) (hk : Keeps s0 s) :
    Keeps s0 (dropInbox slot s) := by
  unfold dropInbox
  repeat' (first
    | with_reducible assumption
    | with_reducible intro _
    | extract_lets
    | split
    | dsimp only
    | simp -zeta only [Keeps.mk_upd_iff]
    | dsimp +zetaDelta only
    | (with_reducible apply Keeps.mk_sound) <;> first
        | exact id
        | exact Table.wf_set
        | exact fun _ => Table.wf_nil
        | exact fun x => ⟨Table.wf_set x.1, x.2⟩
        | exact fun x => ⟨x.1, Table.wf_set x.2⟩
        | exact fun x => ⟨x.2, x.2⟩
        | exact fun x => PointsOk.like x rfl rfl rfl
        | exact fun x => PointsOk.retain x rfl rfl rfl
        | exact fun x => PointsOk.restore x rfl rfl rfl
        | exact fun x => PointsOk.frozen x rfl rfl rfl
        | exact fun x => PointsOk.put x (quality_masked _)
        | exact fun x => PointsOk.putRetained x (quality_masked _)
        | skip
    | fail)

theorem keeps_receiveTg {s0 : State} (slot : Nat) (differ fits : Bool) (g : List Byte → State → State) (s : State) (hk : Keeps s0 s)
    (hk_g : ∀ x t, Keeps s0 t → Keeps s0 (g x t)) :
    OutKeeps s0 (receiveTg slot differ fits g s) := by
  unfold receiveTg
  repeat' (first
    | with_reducible assumption
    | with_reducible apply outKeeps_whenUpAnd
    | with_reducible apply OutKeeps.next
    | with_reducible apply hk_g
    | with_reducible apply keeps_dropInbox
    | with_reducible apply keeps_halvesPart
    | with_reducible intro _
    | extract_lets
    | split
    | simp -zeta only [Keeps.mk_upd_iff]
    | dsimp +zetaDelta only)

theorem keeps_consumerTimeout {s0 : State} (slot : Nat) (s : State) (hk : Keeps s0 s) :
    Keeps s0 (consumerTimeout slot s) := by
  unfold consumerTimeout
  repeat' (first
    | with_reducible assumption
    | with_reducible apply keeps_putMsl
    | with_reducible intro _
    | extract_lets
    | split
    | simp -zeta only [Keeps.mk_upd_iff]
    | dsimp +zetaDelta only)

theorem keeps_takeOpened {s0 : State} (slot : Nat) (tg : List Byte) (s : State) (hk : Keeps s0 s) :
    Keeps s0 (takeOpened slot tg s) := by
  unfold takeOpened
  repeat' (first
    | with_reducible assumption
    | with_reducible apply keeps_crcFailure
    | with_reducible apply keeps_putMsl
    | with_reducible intro _
    | extract_lets
    | split
    | simp -zeta only [Keeps.mk_upd_iff]
    | dsimp +zetaDelta only)

theorem keeps_execMslOpened {s0 : State} (slot : Nat) (differ : Bool) (s : State) (hk : Keeps s0 s) :
    OutKeeps s0 (execMslOpened slot differ s) := by
  unfold execMslOpened
  repeat' (first
    | with_reducible assumption
    | with_reducible apply OutKeeps.next
    | with_reducible apply keeps_receiveTg
    | with_reducible apply keeps_takeOpened
    | with_reducible intro _
    | extract_lets
    | split
    | simp -zeta only [Keeps.mk_upd_iff]
    | dsimp +zetaDelta only)

theorem keeps_takeData {s0 : State} (slot : Nat) (tg : List Byte) (s : State) (hk : Keeps s0 s) :
    Keeps s0 (takeData slot tg s) := by
  unfold takeData
  repeat' (first
    | with_reducible assumption
    | with_reducible apply keeps_crcFailure
    | with_reducible apply keeps_repetition
    | with_reducible apply keeps_putMsl
    | with_reducible intro _
    | extract_lets
    | split
    | simp -zeta only [Keeps.mk_upd_iff]
    | dsimp +zetaDelta only)

theorem keeps_execMslData {s0 : State} (slot : Nat) (differ : Bool) (s : State) (hk : Keeps s0 s) :
    OutKeeps s0 (execMslData slot differ s) := by
  unfold execMslData
  repeat' (first
    | with_reducible assumption
    | with_reducible apply OutKeeps.next
    | with_reducible apply keeps_receiveTg
    | with_reducible apply keeps_takeData
    | with_reducible intro _
    | extract_lets
    | split
    | simp -zeta only [Keeps.mk_upd_iff]
    | dsimp +zetaDelta only)

theorem keeps_execMslOpenRetry {s0 : State} (x : SlotHalves) (s : State) (hk : Keeps s0 s) :
    OutKeeps s0 (execMslOpenRetry x s) := by
  unfold execMslOpenRetry
  repeat' (first
    | with_reducible assumption
    | with_reducible apply outKeeps_whenUpAnd
    | with_reducible apply OutKeeps.next
    | with_reducible apply keeps_openSlot
    | with_reducible intro _
    | extract_lets
    | split
    | simp -zeta only [Keeps.mk_upd_iff]
    | dsimp +zetaDelta only)

theorem keeps_execMslTimeout {s0 : State} (slot : Nat) (s : State) (hk : Keeps s0 s) :
    OutKeeps s0 (execMslTimeout slot s) := by
  unfold execMslTimeout
  repeat' (first
    | with_reducible assumption
    | with_reducible apply outKeeps_whenUpAnd
    | with_reducible apply OutKeeps.next
    | with_reducible apply keeps_consumerTimeout
    | with_reducible intro _
    | extract_lets
    | split
    | simp -zeta only [Keeps.mk_upd_iff]
    | dsimp +zetaDelta only)

theorem keeps_takeOpen {s0 : State} (slot : Nat) (tg : List Byte) (s : State) (hk : Keeps s0 s) :
    Keeps s0 (takeOpen slot tg s) := by
  unfold takeOpen
  repeat' (first
    | with_reducible assumption
    | with_reducible apply keeps_crcFailure
    | with_reducible apply keeps_startValue
    | with_reducible apply keeps_sendTg
    | with_reducible apply keeps_putMsl
    | with_reducible intro _
    | extract_lets
    | split
    | dsimp only
    | simp -zeta only [Keeps.mk_upd_iff]
    | dsimp +zetaDelta only)

theorem keeps_execMslOpen {s0 : State} (slot : Nat) (differ : Bool) (s : State) (hk : Keeps s0 s) :
    OutKeeps s0 (execMslOpen slot differ s) := by
  unfold execMslOpen
  repeat' (first
    | with_reducible assumption
    | with_reducible apply OutKeeps.next
    | with_reducible apply keeps_receiveTg
    | with_reducible apply keeps_takeOpen
    | with_reducible intro _
    | extract_lets
    | split
    | simp -zeta only [Keeps.mk_upd_iff]
    | dsimp +zetaDelta only)

theorem keeps_takeCheck {s0 : State} (slot : Nat) (tg : List Byte) (s : State) (hk : Keeps s0 s) :
    Keeps s0 (takeCheck slot tg s) := by
  unfold takeCheck
  repeat' (first
    | with_reducible assumption
    | with_reducible apply keeps_crcFailure
    | with_reducible apply keeps_repetition
    | with_reducible apply keeps_putMsl
    | with_reducible intro _
    | extract_lets
    | split
    | simp -zeta only [Keeps.mk_upd_iff]
    | dsimp +zetaDelta only)

theorem keeps_execMslCheck {s0 : State} (slot : Nat) (differ : Bool) (s : State) (hk : Keeps s0 s) :
    OutKeeps s0 (execMslCheck slot differ s) := by
  unfold execMslCheck
  repeat' (first
    | with_reducible assumption
    | with_reducible apply OutKeeps.next
    | with_reducible apply keeps_receiveTg
    | with_reducible apply keeps_takeCheck
    | with_reducible intro _
    | extract_lets
    | split
    | simp -zeta only [Keeps.mk_upd_iff]
    | dsimp +zetaDelta only)

theorem keeps_execMslProducerListen {s0 : State} (slot : Nat) (s : State) (hk : Keeps s0 s) :
    OutKeeps s0 (execMslProducerListen slot s) := by
  unfold execMslProducerListen
  repeat' (first
    | with_reducible assumption
    | with_reducible apply outKeeps_whenUpAnd
    | with_reducible apply OutKeeps.next
    | with_reducible apply keeps_putMsl
    | with_reducible intro _
    | extract_lets
    | split
    | simp -zeta only [Keeps.mk_upd_iff]
    | dsimp +zetaDelta only)

theorem keeps_ackHalt {s0 : State} (slot : Nat) (s : State) (hk : Keeps s0 s) :
    Keeps s0 (ackHalt slot s) := by
  unfold ackHalt
  repeat' (first
    | with_reducible assumption
    | with_reducible apply keeps_haltEvent
    | with_reducible apply keeps_putMsl
    | with_reducible intro _
    | extract_lets
    | split
    | simp -zeta only [Keeps.mk_upd_iff]
    | dsimp +zetaDelta only)

theorem keeps_mslAcks {s0 : State} (s : State) (hk : Keeps s0 s) :
    Keeps s0 (mslAcks s) := by
  unfold mslAcks
  repeat' (first
    | with_reducible assumption
    | with_reducible apply keeps_foldS
    | with_reducible apply keeps_ackHalt
    | with_reducible intro _
    | extract_lets
    | split
    | simp -zeta only [Keeps.mk_upd_iff]
    | dsimp +zetaDelta only)

theorem keeps_slotCycle {s0 : State} (differ found : Bool) (slot : Nat) (s : State) (hk : Keeps s0 s) :
    Keeps s0 (slotCycle differ found slot s) := by
  unfold slotCycle
  repeat' (first
    | with_reducible assumption
    | with_reducible apply keeps_openSlot
    | with_reducible apply keeps_consumerTimeout
    | with_reducible apply keeps_halvesPart
    | with_reducible apply keeps_sendTg
    | with_reducible apply keeps_putMsl
    | with_reducible apply keeps_swapHalves
    | with_reducible intro _
    | extract_lets
    | split
    | simp -zeta only [Keeps.mk_upd_iff]
    | dsimp +zetaDelta only)

theorem keeps_statusCross {s0 : State} (s : State) (hk : Keeps s0 s) :
    Keeps s0 (statusCross s) := by
  unfold statusCross
  repeat' (first
    | with_reducible assumption
    | with_reducible apply keeps_foldS
    | with_reducible intro _
    | extract_lets
    | split
    | simp -zeta only [Keeps.mk_upd_iff]
    | dsimp +zetaDelta only
    | (with_reducible apply Keeps.mk_sound) <;> first
        | exact id
        | exact Table.wf_set
        | exact fun _ => Table.wf_nil
        | exact fun x => ⟨Table.wf_set x.1, x.2⟩
        | exact fun x => ⟨x.1, Table.wf_set x.2⟩
        | exact fun x => ⟨x.2, x.2⟩
        | exact fun x => PointsOk.like x rfl rfl rfl
        | exact fun x => PointsOk.retain x rfl rfl rfl
        | exact fun x => PointsOk.restore x rfl rfl rfl
        | exact fun x => PointsOk.frozen x rfl rfl rfl
        | exact fun x => PointsOk.put x (quality_masked _)
        | exact fun x => PointsOk.putRetained x (quality_masked _)
        | skip
    | fail)

theorem keeps_execSafetyCycle {s0 : State} (edm : BitVec 4) (x : HalfChecks) (s : State) (hk : Keeps s0 s) :
    OutKeeps s0 (execSafetyCycle edm x s) := by
  unfold execSafetyCycle
  repeat' (first
    | with_reducible assumption
    | with_reducible apply outKeeps_whenUpAnd
    | with_reducible apply OutKeeps.next
    | with_reducible apply keeps_foldS
    | with_reducible apply keeps_evalCycle
    | with_reducible apply keeps_mslAcks
    | with_reducible apply keeps_statusCross
    | with_reducible apply keeps_slotCycle
    | with_reducible intro _
    | extract_lets
    | split
    | simp -zeta only [Keeps.mk_upd_iff]
    | dsimp +zetaDelta only)

/-! ### Machine/Jobs.lean -/

theorem keeps_fillQueues {s0 : State} (s : State) (hk : Keeps s0 s) :
    Keeps s0 (fillQueues s) := by
  unfold fillQueues
  repeat' (first
    | with_reducible assumption
    | with_reducible intro _
    | extract_lets
    | split
    | dsimp only
    | simp -zeta only [Keeps.mk_upd_iff]
    | dsimp +zetaDelta only)

theorem keeps_startJob {s0 : State} (s : State) (hk : Keeps s0 s) :
    Keeps s0 (startJob s) := by
  unfold startJob
  repeat' (first
    | with_reducible assumption
    | with_reducible apply keeps_fillQueues
    | with_reducible intro _
    | extract_lets
    | split
    | simp -zeta only [Keeps.mk_upd_iff]
    | dsimp +zetaDelta only)

theorem keeps_addJobs {s0 : State} (b : Bool) (js : List KeyJob) (s : State) (hk : Keeps s0 s) :
    Keeps s0 (addJobs b js s) := by
  unfold addJobs
  repeat' (first
    | with_reducible assumption
    | with_reducible apply keeps_startJob
    | with_reducible apply keeps_fillQueues
    | with_reducible intro _
    | extract_lets
    | split
    | simp -zeta only [Keeps.mk_upd_iff]
    | dsimp +zetaDelta only)

theorem keeps_record {s0 : State} (cn : Nat) (s : State) (hk : Keeps s0 s) :
    Keeps s0 (record cn s) := by
  unfold record
  repeat' (first
    | with_reducible assumption
    | with_reducible apply keeps_addJobs
    | with_reducible intro _
    | extract_lets
    | split
    | simp -zeta only [Keeps.mk_upd_iff]
    | dsimp +zetaDelta only)

/-! ### Machine/Inputs.lean -/

theorem keeps_enterPt {s0 : State} (pt : Nat) (v : Word) (q : Byte) (s : State) (hk : Keeps s0 s) :
    Keeps s0 (enterPt pt v q s) := by
  unfold enterPt
  repeat' (first
    | with_reducible assumption
    | with_reducible apply keeps_putPoint
    | with_reducible intro _
    | extract_lets
    | split
    | simp -zeta only [Keeps.mk_upd_iff]
    | dsimp +zetaDelta only)

theorem keeps_patchPt {s0 : State} (pt : Nat) (s : State) (hk : Keeps s0 s) :
    Keeps s0 (patchPt pt s) := by
  unfold patchPt
  repeat' (first
    | with_reducible assumption
    | with_reducible apply keeps_foldS
    | with_reducible apply keeps_putTake
    | with_reducible intro _
    | extract_lets
    | split
    | simp -zeta only [Keeps.mk_upd_iff]
    | dsimp +zetaDelta only)

theorem keeps_stalePt {s0 : State} (pt : Nat) (s : State) (hk : Keeps s0 s) :
    Keeps s0 (stalePt pt s) := by
  unfold stalePt
  repeat' (first
    | with_reducible assumption
    | with_reducible apply keeps_mapQual
    | with_reducible intro _
    | extract_lets
    | split
    | simp -zeta only [Keeps.mk_upd_iff]
    | dsimp +zetaDelta only)

theorem keeps_substPt {s0 : State} (pt : Nat) (s : State) (hk : Keeps s0 s) :
    Keeps s0 (substPt pt s) := by
  unfold substPt
  repeat' (first
    | with_reducible assumption
    | with_reducible apply keeps_putPoint
    | with_reducible intro _
    | extract_lets
    | split
    | simp -zeta only [Keeps.mk_upd_iff]
    | dsimp +zetaDelta only)

theorem keeps_undelivPt {s0 : State} (b : Bool) (pt : Nat) (s : State) (hk : Keeps s0 s) :
    Keeps s0 (undelivPt b pt s) := by
  unfold undelivPt
  repeat' (first
    | with_reducible assumption
    | with_reducible apply keeps_mapQual
    | with_reducible intro _
    | extract_lets
    | split
    | simp -zeta only [Keeps.mk_upd_iff]
    | dsimp +zetaDelta only)

theorem keeps_missPts {s0 : State} (pts : List Nat) (r : Bool × Bool × Fresh) (s : State) (hk : Keeps s0 s) :
    Keeps s0 (missPts pts r s) := by
  unfold missPts
  repeat' (first
    | with_reducible assumption
    | with_reducible apply keeps_foldS
    | with_reducible apply keeps_substPt
    | with_reducible apply keeps_stalePt
    | with_reducible intro _
    | extract_lets
    | split
    | dsimp only
    | simp -zeta only [Keeps.mk_upd_iff]
    | dsimp +zetaDelta only)

theorem keeps_putConn {s0 : State} (cn : Nat) (c : Option Conn) (s : State) (hk : Keeps s0 s) :
    Keeps s0 (putConn cn c s) := by
  unfold putConn
  repeat' (first
    | with_reducible assumption
    | with_reducible intro _
    | extract_lets
    | split
    | simp -zeta only [Keeps.mk_upd_iff]
    | dsimp +zetaDelta only
    | (with_reducible apply Keeps.mk_sound) <;> first
        | exact id
        | exact Table.wf_set
        | exact fun _ => Table.wf_nil
        | exact fun x => ⟨Table.wf_set x.1, x.2⟩
        | exact fun x => ⟨x.1, Table.wf_set x.2⟩
        | exact fun x => ⟨x.2, x.2⟩
        | exact fun x => PointsOk.like x rfl rfl rfl
        | exact fun x => PointsOk.retain x rfl rfl rfl
        | exact fun x => PointsOk.restore x rfl rfl rfl
        | exact fun x => PointsOk.frozen x rfl rfl rfl
        | exact fun x => PointsOk.put x (quality_masked _)
        | exact fun x => PointsOk.putRetained x (quality_masked _)
        | skip
    | fail)

theorem keeps_putAdmit {s0 : State} (st : Nat) (a : Admit) (s : State) (hk : Keeps s0 s) :
    Keeps s0 (putAdmit st a s) := by
  unfold putAdmit
  repeat' (first
    | with_reducible assumption
    | with_reducible intro _
    | extract_lets
    | split
    | simp -zeta only [Keeps.mk_upd_iff]
    | dsimp +zetaDelta only
    | (with_reducible apply Keeps.mk_sound) <;> first
        | exact id
        | exact Table.wf_set
        | exact fun _ => Table.wf_nil
        | exact fun x => ⟨Table.wf_set x.1, x.2⟩
        | exact fun x => ⟨x.1, Table.wf_set x.2⟩
        | exact fun x => ⟨x.2, x.2⟩
        | exact fun x => PointsOk.like x rfl rfl rfl
        | exact fun x => PointsOk.retain x rfl rfl rfl
        | exact fun x => PointsOk.restore x rfl rfl rfl
        | exact fun x => PointsOk.frozen x rfl rfl rfl
        | exact fun x => PointsOk.put x (quality_masked _)
        | exact fun x => PointsOk.putRetained x (quality_masked _)
        | skip
    | fail)

theorem keeps_answer {s0 : State} (cn rq op status retry : Nat) (pay : List Word) (s : State) (hk : Keeps s0 s) :
    Keeps s0 (answer cn rq op status retry pay s) := by
  unfold answer
  repeat' (first
    | with_reducible assumption
    | with_reducible apply keeps_emit
    | with_reducible apply keeps_record
    | with_reducible intro _
    | extract_lets
    | split
    | simp -zeta only [Keeps.mk_upd_iff]
    | dsimp +zetaDelta only)

theorem keeps_notify {s0 : State} (cn op sub status : Nat) (gap : Bool) (pay : List Word) (s : State) (hk : Keeps s0 s) :
    Keeps s0 (notify cn op sub status gap pay s) := by
  unfold notify
  repeat' (first
    | with_reducible assumption
    | with_reducible apply keeps_emit
    | with_reducible apply keeps_record
    | with_reducible intro _
    | extract_lets
    | split
    | simp -zeta only [Keeps.mk_upd_iff]
    | dsimp +zetaDelta only)

theorem keeps_markOps {s0 : State} (s : State) (hk : Keeps s0 s) :
    Keeps s0 (markOps s) := by
  unfold markOps
  repeat' (first
    | with_reducible assumption
    | with_reducible intro _
    | extract_lets
    | split
    | simp -zeta only [Keeps.mk_upd_iff]
    | dsimp +zetaDelta only
    | (with_reducible apply Keeps.mk_sound) <;> first
        | exact id
        | exact Table.wf_set
        | exact fun _ => Table.wf_nil
        | exact fun x => ⟨Table.wf_set x.1, x.2⟩
        | exact fun x => ⟨x.1, Table.wf_set x.2⟩
        | exact fun x => ⟨x.2, x.2⟩
        | exact fun x => PointsOk.like x rfl rfl rfl
        | exact fun x => PointsOk.retain x rfl rfl rfl
        | exact fun x => PointsOk.restore x rfl rfl rfl
        | exact fun x => PointsOk.frozen x rfl rfl rfl
        | exact fun x => PointsOk.put x (quality_masked _)
        | exact fun x => PointsOk.putRetained x (quality_masked _)
        | skip
    | fail)

theorem keeps_beginOp {s0 : State} (cn st : Nat) (s : State) (hk : Keeps s0 s) :
    Keeps s0 (beginOp cn st s) := by
  unfold beginOp
  repeat' (first
    | with_reducible assumption
    | with_reducible apply keeps_putAdmit
    | with_reducible apply keeps_markOps
    | with_reducible apply keeps_putConn
    | with_reducible intro _
    | extract_lets
    | split
    | simp -zeta only [Keeps.mk_upd_iff]
    | dsimp +zetaDelta only)

theorem keeps_endOp {s0 : State} (cn rq st op status retry : Nat) (pay : List Word) (s : State) (hk : Keeps s0 s) :
    Keeps s0 (endOp cn rq st op status retry pay s) := by
  unfold endOp
  repeat' (first
    | with_reducible assumption
    | with_reducible apply keeps_answer
    | with_reducible apply keeps_putAdmit
    | with_reducible apply keeps_putConn
    | with_reducible intro _
    | extract_lets
    | split
    | simp -zeta only [Keeps.mk_upd_iff]
    | dsimp +zetaDelta only)

theorem keeps_putDevQueue {s0 : State} (key : Nat) (l : List DevReq) (s : State) (hk : Keeps s0 s) :
    Keeps s0 (putDevQueue key l s) := by
  unfold putDevQueue
  repeat' (first
    | with_reducible assumption
    | with_reducible intro _
    | extract_lets
    | split
    | simp -zeta only [Keeps.mk_upd_iff]
    | dsimp +zetaDelta only
    | (with_reducible apply Keeps.mk_sound) <;> first
        | exact id
        | exact Table.wf_set
        | exact fun _ => Table.wf_nil
        | exact fun x => ⟨Table.wf_set x.1, x.2⟩
        | exact fun x => ⟨x.1, Table.wf_set x.2⟩
        | exact fun x => ⟨x.2, x.2⟩
        | exact fun x => PointsOk.like x rfl rfl rfl
        | exact fun x => PointsOk.retain x rfl rfl rfl
        | exact fun x => PointsOk.restore x rfl rfl rfl
        | exact fun x => PointsOk.frozen x rfl rfl rfl
        | exact fun x => PointsOk.put x (quality_masked _)
        | exact fun x => PointsOk.putRetained x (quality_masked _)
        | skip
    | fail)

theorem keeps_endDev {s0 : State} (key status : Nat) (data : List Byte) (s : State) (hk : Keeps s0 s) :
    Keeps s0 (endDev key status data s) := by
  unfold endDev
  repeat' (first
    | with_reducible assumption
    | with_reducible apply keeps_putDevQueue
    | with_reducible apply keeps_endOp
    | with_reducible intro _
    | extract_lets
    | split
    | simp -zeta only [Keeps.mk_upd_iff]
    | dsimp +zetaDelta only
    | (with_reducible apply Keeps.mk_sound) <;> first
        | exact id
        | exact Table.wf_set
        | exact fun _ => Table.wf_nil
        | exact fun x => ⟨Table.wf_set x.1, x.2⟩
        | exact fun x => ⟨x.1, Table.wf_set x.2⟩
        | exact fun x => ⟨x.2, x.2⟩
        | exact fun x => PointsOk.like x rfl rfl rfl
        | exact fun x => PointsOk.retain x rfl rfl rfl
        | exact fun x => PointsOk.restore x rfl rfl rfl
        | exact fun x => PointsOk.frozen x rfl rfl rfl
        | exact fun x => PointsOk.put x (quality_masked _)
        | exact fun x => PointsOk.putRetained x (quality_masked _)
        | skip
    | fail)

end Sys2Proof.Machine
end

