-- ==== Sys2Proof/Laws/KeepsNet.lean ====
section
/-! SUPPORT. What CAN, Ethernet, the field exchange and the barrier keep of a state: the queue, the clock, the variant, the count
of free values, and a sound point image and sound tables. One lemma for each operation and for each meaning. -/

namespace Sys2Proof.Machine
open Sys2Proof

/-! ### Machine/Can.lean -/

theorem keeps_putCan {s0 : State} (c : Nat) (x : Can) (s : State) (hk : Keeps s0 s) :
    Keeps s0 (putCan c x s) := by
  unfold putCan
  repeat' (first
    | with_reducible assumption
    | with_reducible intro _
    | extract_lets
    | split
    | simp -zeta only [Keeps.mk_upd_iff]
    | dsimp +zetaDelta only)

theorem keeps_canEvent {s0 : State} (c : Nat) (s : State) (hk : Keeps s0 s) :
    Keeps s0 (canEvent c s) := by
  unfold canEvent
  repeat' (first
    | with_reducible assumption
    | with_reducible apply keeps_logEv
    | with_reducible intro _
    | extract_lets
    | split
    | simp -zeta only [Keeps.mk_upd_iff]
    | dsimp +zetaDelta only)

theorem keeps_removeEvent {s0 : State} (c : Nat) (f : CanTx) (s : State) (hk : Keeps s0 s) :
    Keeps s0 (removeEvent c f s) := by
  unfold removeEvent
  repeat' (first
    | with_reducible assumption
    | with_reducible apply keeps_logEv
    | with_reducible intro _
    | extract_lets
    | split
    | simp -zeta only [Keeps.mk_upd_iff]
    | dsimp +zetaDelta only)

theorem keeps_canPassive {s0 : State} (c : Nat) (s : State) (hk : Keeps s0 s) :
    Keeps s0 (canPassive c s) := by
  unfold canPassive
  repeat' (first
    | with_reducible assumption
    | with_reducible apply keeps_canEvent
    | with_reducible apply keeps_putCan
    | with_reducible intro _
    | extract_lets
    | split
    | simp -zeta only [Keeps.mk_upd_iff]
    | dsimp +zetaDelta only)

theorem keeps_canBusOff {s0 : State} (c : Nat) (s : State) (hk : Keeps s0 s) :
    Keeps s0 (canBusOff c s) := by
  unfold canBusOff
  repeat' (first
    | with_reducible assumption
    | with_reducible apply keeps_foldS
    | with_reducible apply keeps_foldl
    | with_reducible apply keeps_canEvent
    | with_reducible apply keeps_putCan
    | with_reducible apply keeps_endDev
    | with_reducible intro _
    | extract_lets
    | split
    | dsimp only
    | simp -zeta only [Keeps.mk_upd_iff]
    | dsimp +zetaDelta only)

theorem keeps_canTxError {s0 : State} (c n : Nat) (s : State) (hk : Keeps s0 s) :
    Keeps s0 (canTxError c n s) := by
  unfold canTxError
  repeat' (first
    | with_reducible assumption
    | with_reducible apply keeps_putCan
    | with_reducible apply keeps_canBusOff
    | with_reducible apply keeps_canPassive
    | with_reducible intro _
    | extract_lets
    | split
    | simp -zeta only [Keeps.mk_upd_iff]
    | dsimp +zetaDelta only)

theorem keeps_execCanReceiveError {s0 : State} (c lec inc : Nat) (s : State) (hk : Keeps s0 s) :
    OutKeeps s0 (execCanReceiveError c lec inc s) := by
  unfold execCanReceiveError
  repeat' (first
    | with_reducible assumption
    | with_reducible apply outKeeps_whenUpAnd
    | with_reducible apply OutKeeps.next
    | with_reducible apply keeps_canPassive
    | with_reducible apply keeps_putCan
    | with_reducible intro _
    | extract_lets
    | split
    | simp -zeta only [Keeps.mk_upd_iff]
    | dsimp +zetaDelta only)

theorem keeps_fromPrio {s0 : State} (x : Can) (s : State) (hk : Keeps s0 s) :
    Keeps s0 (fromPrio x s).2 := by
  unfold fromPrio
  repeat' (first
    | with_reducible assumption
    | with_reducible apply keeps_drawIn
    | with_reducible intro _
    | extract_lets
    | split
    | dsimp only
    | simp -zeta only [Keeps.mk_upd_iff]
    | dsimp +zetaDelta only)

theorem keeps_execCanFrameSent {s0 : State} (c : Nat) (s : State) (hk : Keeps s0 s) :
    OutKeeps s0 (execCanFrameSent c s) := by
  unfold execCanFrameSent
  repeat' (first
    | with_reducible assumption
    | with_reducible apply outKeeps_whenUpAnd
    | with_reducible apply OutKeeps.next
    | with_reducible apply keeps_fromPrio
    | with_reducible apply keeps_drawIn
    | with_reducible apply keeps_canPassive
    | with_reducible apply keeps_putCan
    | with_reducible intro _
    | extract_lets
    | split
    | dsimp only
    | simp -zeta only [Keeps.mk_upd_iff]
    | dsimp +zetaDelta only)

theorem keeps_canRemoveHead {s0 : State} (c : Nat) (record : Bool) (s : State) (hk : Keeps s0 s) :
    Keeps s0 (canRemoveHead c record s) := by
  unfold canRemoveHead
  repeat' (first
    | with_reducible assumption
    | with_reducible apply keeps_putCan
    | with_reducible apply keeps_record
    | with_reducible apply keeps_removeEvent
    | with_reducible intro _
    | extract_lets
    | split
    | simp -zeta only [Keeps.mk_upd_iff]
    | dsimp +zetaDelta only)

theorem keeps_execCanAttemptFail {s0 : State} (c : Nat) (why : CanFail) (s : State) (hk : Keeps s0 s) :
    OutKeeps s0 (execCanAttemptFail c why s) := by
  unfold execCanAttemptFail
  repeat' (first
    | with_reducible assumption
    | with_reducible apply outKeeps_whenUpAnd
    | with_reducible apply OutKeeps.next
    | with_reducible apply keeps_fromPrio
    | with_reducible apply keeps_putCan
    | with_reducible apply keeps_canTxError
    | with_reducible apply keeps_canRemoveHead
    | with_reducible intro _
    | extract_lets
    | split
    | dsimp only
    | simp -zeta only [Keeps.mk_upd_iff]
    | dsimp +zetaDelta only)

theorem keeps_execHeadlong {s0 : State} (c : Nat) (s : State) (hk : Keeps s0 s) :
    OutKeeps s0 (execHeadlong c s) := by
  unfold execHeadlong
  repeat' (first
    | with_reducible assumption
    | with_reducible apply outKeeps_whenUpAnd
    | with_reducible apply OutKeeps.next
    | with_reducible apply keeps_logEv
    | with_reducible apply keeps_putCan
    | with_reducible intro _
    | extract_lets
    | split
    | simp -zeta only [Keeps.mk_upd_iff]
    | dsimp +zetaDelta only)

theorem keeps_mslForward {s0 : State} (net : Nat) (fromPeer : Nat → Bool) (tg : List Byte) (s : State) (hk : Keeps s0 s) :
    Keeps s0 (mslForward net fromPeer tg s) := by
  unfold mslForward
  repeat' (first
    | with_reducible assumption
    | with_reducible intro _
    | extract_lets
    | split
    | simp -zeta only [Keeps.mk_upd_iff]
    | dsimp +zetaDelta only
    | (with_reducible apply Keeps.mk_sound) <;> first
        | exact id
        | exact Table.wf_set
        | exact fun _ => Table.wf_nil
        | exact fun x => ⟨Table.wf_set x.1, x.2⟩
        | exact fun x => ⟨x.1, Table.wf_set x.2⟩
        | exact fun x => ⟨x.2, x.2⟩
        | exact fun x => PointsOk.like x rfl rfl rfl
        | exact fun x => PointsOk.retain x rfl rfl rfl
        | exact fun x => PointsOk.restore x rfl rfl rfl
        | exact fun x => PointsOk.frozen x rfl rfl rfl
        | exact fun x => PointsOk.put x (quality_masked _)
        | exact fun x => PointsOk.putRetained x (quality_masked _)
        | skip
    | fail)

theorem keeps_canRxGood {s0 : State} (c : Nat) (s : State) (hk : Keeps s0 s) :
    Keeps s0 (canRxGood c s) := by
  unfold canRxGood
  repeat' (first
    | with_reducible assumption
    | with_reducible apply keeps_drawIn
    | with_reducible apply keeps_canPassive
    | with_reducible apply keeps_putCan
    | with_reducible intro _
    | extract_lets
    | split
    | dsimp only
    | simp -zeta only [Keeps.mk_upd_iff]
    | dsimp +zetaDelta only)

theorem keeps_canStore {s0 : State} (c b : Nat) (f : CanRx) (s : State) (hk : Keeps s0 s) :
    Keeps s0 (canStore c b f s) := by
  unfold canStore
  repeat' (first
    | with_reducible assumption
    | with_reducible apply keeps_nextArr
    | with_reducible apply keeps_putCan
    | with_reducible intro _
    | extract_lets
    | split
    | dsimp only
    | simp -zeta only [Keeps.mk_upd_iff]
    | dsimp +zetaDelta only)

theorem keeps_execCanFrameReceived {s0 : State} (c : Nat) (f : CanRx) (s : State) (hk : Keeps s0 s) :
    OutKeeps s0 (execCanFrameReceived c f s) := by
  unfold execCanFrameReceived
  repeat' (first
    | with_reducible assumption
    | with_reducible apply outKeeps_whenUpAnd
    | with_reducible apply OutKeeps.next
    | with_reducible apply keeps_canRxGood
    | with_reducible apply keeps_putCan
    | with_reducible apply keeps_canStore
    | with_reducible intro _
    | extract_lets
    | split
    | simp -zeta only [Keeps.mk_upd_iff]
    | dsimp +zetaDelta only)

theorem keeps_bufferRead {s0 : State} (c buf : Nat) (b : CanBuf) (s : State) (hk : Keeps s0 s) :
    Keeps s0 (bufferRead c buf b s) := by
  unfold bufferRead
  repeat' (first
    | with_reducible assumption
    | with_reducible apply keeps_endDev
    | with_reducible apply keeps_mslForward
    | with_reducible intro _
    | extract_lets
    | split
    | dsimp only
    | simp -zeta only [Keeps.mk_upd_iff]
    | dsimp +zetaDelta only)

theorem keeps_execNdRead {s0 : State} (c buf : Nat) (s : State) (hk : Keeps s0 s) :
    OutKeeps s0 (execNdRead c buf s) := by
  unfold execNdRead
  repeat' (first
    | with_reducible assumption
    | with_reducible apply outKeeps_whenUp
    | with_reducible apply OutKeeps.next
    | with_reducible apply keeps_emit
    | with_reducible apply keeps_putCan
    | with_reducible apply keeps_bufferRead
    | with_reducible intro _
    | extract_lets
    | split
    | simp -zeta only [Keeps.mk_upd_iff]
    | dsimp +zetaDelta only)

theorem keeps_execCanBusIntegrated {s0 : State} (c : Nat) (s : State) (hk : Keeps s0 s) :
    OutKeeps s0 (execCanBusIntegrated c s) := by
  unfold execCanBusIntegrated
  repeat' (first
    | with_reducible assumption
    | with_reducible apply outKeeps_whenUpAnd
    | with_reducible apply OutKeeps.next
    | with_reducible apply keeps_putCan
    | with_reducible intro _
    | extract_lets
    | split
    | simp -zeta only [Keeps.mk_upd_iff]
    | dsimp +zetaDelta only)

theorem keeps_canRecover {s0 : State} (c : Nat) (s : State) (hk : Keeps s0 s) :
    Keeps s0 (canRecover c s) := by
  unfold canRecover
  repeat' (first
    | with_reducible assumption
    | with_reducible apply keeps_canEvent
    | with_reducible apply keeps_putCan
    | with_reducible intro _
    | extract_lets
    | split
    | simp -zeta only [Keeps.mk_upd_iff]
    | dsimp +zetaDelta only)

theorem keeps_execCanRecoveryDone {s0 : State} (c : Nat) (s : State) (hk : Keeps s0 s) :
    OutKeeps s0 (execCanRecoveryDone c s) := by
  unfold execCanRecoveryDone
  repeat' (first
    | with_reducible assumption
    | with_reducible apply outKeeps_whenUpAnd
    | with_reducible apply OutKeeps.next
    | with_reducible apply keeps_putCan
    | with_reducible intro _
    | extract_lets
    | split
    | simp -zeta only [Keeps.mk_upd_iff]
    | dsimp +zetaDelta only)

theorem keeps_canStartReq {s0 : State} (c node : Nat) (r : DevReq) (s : State) (hk : Keeps s0 s) :
    Keeps s0 (canStartReq c node r s) := by
  unfold canStartReq
  repeat' (first
    | with_reducible assumption
    | with_reducible apply keeps_putCan
    | with_reducible intro _
    | extract_lets
    | split
    | simp -zeta only [Keeps.mk_upd_iff]
    | dsimp +zetaDelta only)

theorem keeps_headInAttempt {s0 : State} (c : Nat) (s : State) (hk : Keeps s0 s) :
    Keeps s0 (headInAttempt c s).2 := by
  unfold headInAttempt
  repeat' (first
    | with_reducible assumption
    | with_reducible apply keeps_drawIn
    | with_reducible apply keeps_putCan
    | with_reducible intro _
    | extract_lets
    | split
    | dsimp only
    | simp -zeta only [Keeps.mk_upd_iff]
    | dsimp +zetaDelta only)

theorem keeps_canPurge {s0 : State} (c : Nat) (busy : Bool) (s : State) (hk : Keeps s0 s) :
    Keeps s0 (canPurge c busy s) := by
  unfold canPurge
  repeat' (first
    | with_reducible assumption
    | with_reducible apply keeps_foldl
    | with_reducible apply keeps_putCan
    | with_reducible intro _
    | extract_lets
    | split
    | simp -zeta only [Keeps.mk_upd_iff]
    | dsimp +zetaDelta only)

theorem keeps_canAbort {s0 : State} (c : Nat) (busy : Bool) (s : State) (hk : Keeps s0 s) :
    Keeps s0 (canAbort c busy s) := by
  unfold canAbort
  repeat' (first
    | with_reducible assumption
    | with_reducible apply keeps_putCan
    | with_reducible apply keeps_canRemoveHead
    | with_reducible intro _
    | extract_lets
    | split
    | simp -zeta only [Keeps.mk_upd_iff]
    | dsimp +zetaDelta only)

theorem keeps_handOffCan {s0 : State} (c : Nat) (ovr : Nat → Bool) (v : Nat → Nat → Word) (s : State) (hk : Keeps s0 s) :
    Keeps s0 (handOffCan c ovr v s) := by
  unfold handOffCan
  repeat' (first
    | with_reducible assumption
    | with_reducible apply keeps_foldl
    | with_reducible apply keeps_putCan
    | with_reducible intro _
    | extract_lets
    | split
    | dsimp only
    | simp -zeta only [Keeps.mk_upd_iff]
    | dsimp +zetaDelta only)

theorem keeps_canEnterFrames {s0 : State} (c : Nat) (s : State) (hk : Keeps s0 s) :
    Keeps s0 (canEnterFrames c s) := by
  unfold canEnterFrames
  repeat' (first
    | with_reducible assumption
    | with_reducible apply keeps_foldS
    | with_reducible apply keeps_putCan
    | with_reducible intro _
    | extract_lets
    | split
    | dsimp only
    | simp -zeta only [Keeps.mk_upd_iff]
    | dsimp +zetaDelta only)

theorem keeps_canRequests {s0 : State} (c : Nat) (s : State) (hk : Keeps s0 s) :
    Keeps s0 (canRequests c s) := by
  unfold canRequests
  repeat' (first
    | with_reducible assumption
    | with_reducible apply keeps_canRecover
    | with_reducible apply keeps_putCan
    | with_reducible intro _
    | extract_lets
    | split
    | simp -zeta only [Keeps.mk_upd_iff]
    | dsimp +zetaDelta only)

theorem keeps_canOutput {s0 : State} (c : Nat) (s : State) (hk : Keeps s0 s) :
    Keeps s0 (canOutput c s) := by
  unfold canOutput
  repeat' (first
    | with_reducible assumption
    | with_reducible apply keeps_canRequests
    | with_reducible apply keeps_headInAttempt
    | with_reducible apply keeps_canEnterFrames
    | with_reducible apply keeps_canAbort
    | with_reducible apply keeps_canPurge
    | with_reducible apply keeps_putCan
    | with_reducible intro _
    | extract_lets
    | split
    | dsimp only
    | simp -zeta only [Keeps.mk_upd_iff]
    | dsimp +zetaDelta only)

theorem keeps_canSeal {s0 : State} (c : Nat) (s : State) (hk : Keeps s0 s) :
    Keeps s0 (canSeal c s) := by
  unfold canSeal
  repeat' (first
    | with_reducible assumption
    | with_reducible apply keeps_foldl
    | with_reducible apply keeps_putCan
    | with_reducible intro _
    | extract_lets
    | split
    | dsimp only
    | simp -zeta only [Keeps.mk_upd_iff]
    | dsimp +zetaDelta only)

theorem keeps_canEnterPts {s0 : State} (e : CanEnt) (data : List Byte) (s : State) (hk : Keeps s0 s) :
    Keeps s0 (canEnterPts e data s) := by
  unfold canEnterPts
  repeat' (first
    | with_reducible assumption
    | with_reducible apply keeps_foldS
    | with_reducible apply keeps_enterPt
    | with_reducible intro _
    | extract_lets
    | split
    | simp -zeta only [Keeps.mk_upd_iff]
    | dsimp +zetaDelta only)

theorem keeps_canDevInputs {s0 : State} (c dev : Nat) (d : CanDev) (accept : Bool) (s : State) (hk : Keeps s0 s) :
    Keeps s0 (canDevInputs c dev d accept s) := by
  unfold canDevInputs
  repeat' (first
    | with_reducible assumption
    | with_reducible apply keeps_foldS
    | with_reducible apply keeps_putCan
    | with_reducible apply keeps_canEnterPts
    | with_reducible apply keeps_missPts
    | with_reducible intro _
    | extract_lets
    | split
    | dsimp only
    | simp -zeta only [Keeps.mk_upd_iff]
    | dsimp +zetaDelta only)

theorem keeps_canUndeliv {s0 : State} (c dev : Nat) (missed accepted : Bool) (s : State) (hk : Keeps s0 s) :
    Keeps s0 (canUndeliv c dev missed accepted s) := by
  unfold canUndeliv
  repeat' (first
    | with_reducible assumption
    | with_reducible apply keeps_foldS
    | with_reducible apply keeps_undelivPt
    | with_reducible intro _
    | extract_lets
    | split
    | dsimp only
    | simp -zeta only [Keeps.mk_upd_iff]
    | dsimp +zetaDelta only)

theorem keeps_canDevPhase {s0 : State} (c dev : Nat) (d : CanDev) (s : State) (hk : Keeps s0 s) :
    Keeps s0 (canDevPhase c dev d s) := by
  unfold canDevPhase
  repeat' (first
    | with_reducible assumption
    | with_reducible apply keeps_foldl
    | with_reducible apply keeps_putCan
    | with_reducible apply keeps_canDevInputs
    | with_reducible apply keeps_canUndeliv
    | with_reducible intro _
    | extract_lets
    | split
    | dsimp only
    | simp -zeta only [Keeps.mk_upd_iff]
    | dsimp +zetaDelta only)

theorem keeps_canStatus {s0 : State} (c : Nat) (s : State) (hk : Keeps s0 s) :
    Keeps s0 (canStatus c s) := by
  unfold canStatus
  repeat' (first
    | with_reducible assumption
    | with_reducible apply keeps_foldS
    | with_reducible apply keeps_enterPt
    | with_reducible intro _
    | extract_lets
    | split
    | simp -zeta only [Keeps.mk_upd_iff]
    | dsimp +zetaDelta only)

theorem keeps_canInput {s0 : State} (c : Nat) (s : State) (hk : Keeps s0 s) :
    Keeps s0 (canInput c s) := by
  unfold canInput
  repeat' (first
    | with_reducible assumption
    | with_reducible apply keeps_foldS
    | with_reducible apply keeps_canSeal
    | with_reducible apply keeps_canDevPhase
    | with_reducible apply keeps_canStatus
    | with_reducible apply keeps_putCan
    | with_reducible intro _
    | extract_lets
    | split
    | dsimp only
    | simp -zeta only [Keeps.mk_upd_iff]
    | dsimp +zetaDelta only)

theorem keeps_canOff {s0 : State} (c : Nat) (s : State) (hk : Keeps s0 s) :
    Keeps s0 (canOff c s) := by
  unfold canOff
  repeat' (first
    | with_reducible assumption
    | with_reducible apply keeps_foldl
    | with_reducible apply keeps_putCan
    | with_reducible intro _
    | extract_lets
    | split
    | dsimp only
    | simp -zeta only [Keeps.mk_upd_iff]
    | dsimp +zetaDelta only)

theorem keeps_remapFrames {s0 : State} (c : Nat) (new : Table (Option CanEnt)) (s : State) (hk : Keeps s0 s) :
    Keeps s0 (remapFrames c new s) := by
  unfold remapFrames
  repeat' (first
    | with_reducible assumption
    | with_reducible apply keeps_foldl
    | with_reducible apply keeps_canSeal
    | with_reducible apply keeps_putCan
    | with_reducible intro _
    | extract_lets
    | split
    | dsimp only
    | simp -zeta only [Keeps.mk_upd_iff]
    | dsimp +zetaDelta only)

/-! ### Machine/Eth.lean -/

theorem keeps_putMac {s0 : State} (m : Nat) (x : Mac) (s : State) (hk : Keeps s0 s) :
    Keeps s0 (putMac m x s) := by
  unfold putMac
  repeat' (first
    | with_reducible assumption
    | with_reducible intro _
    | extract_lets
    | split
    | simp -zeta only [Keeps.mk_upd_iff]
    | dsimp +zetaDelta only)

theorem keeps_countMac {s0 : State} (m i n : Nat) (s : State) (hk : Keeps s0 s) :
    Keeps s0 (countMac m i n s) := by
  unfold countMac
  repeat' (first
    | with_reducible assumption
    | with_reducible apply keeps_putMac
    | with_reducible intro _
    | extract_lets
    | split
    | simp -zeta only [Keeps.mk_upd_iff]
    | dsimp +zetaDelta only)

theorem keeps_netEvent {s0 : State} (m kind : Nat) (s : State) (hk : Keeps s0 s) :
    Keeps s0 (netEvent m kind s) := by
  unfold netEvent
  repeat' (first
    | with_reducible assumption
    | with_reducible apply keeps_logEv
    | with_reducible intro _
    | extract_lets
    | split
    | simp -zeta only [Keeps.mk_upd_iff]
    | dsimp +zetaDelta only)

theorem keeps_startNext {s0 : State} (m : Nat) (s : State) (hk : Keeps s0 s) :
    Keeps s0 (startNext m s) := by
  unfold startNext
  repeat' (first
    | with_reducible assumption
    | with_reducible apply keeps_putMac
    | with_reducible intro _
    | extract_lets
    | split
    | simp -zeta only [Keeps.mk_upd_iff]
    | dsimp +zetaDelta only)

theorem keeps_retireHead {s0 : State} (m q err : Nat) (s : State) (hk : Keeps s0 s) :
    Keeps s0 (retireHead m q err s) := by
  unfold retireHead
  repeat' (first
    | with_reducible assumption
    | with_reducible apply keeps_putMac
    | with_reducible intro _
    | extract_lets
    | split
    | simp -zeta only [Keeps.mk_upd_iff]
    | dsimp +zetaDelta only)

theorem keeps_dropQueue {s0 : State} (m q : Nat) (s : State) (hk : Keeps s0 s) :
    Keeps s0 (dropQueue m q s) := by
  unfold dropQueue
  repeat' (first
    | with_reducible assumption
    | with_reducible apply keeps_foldS
    | with_reducible apply keeps_countMac
    | with_reducible apply keeps_retireHead
    | with_reducible intro _
    | extract_lets
    | split
    | simp -zeta only [Keeps.mk_upd_iff]
    | dsimp +zetaDelta only)

theorem keeps_dropAll {s0 : State} (m : Nat) (s : State) (hk : Keeps s0 s) :
    Keeps s0 (dropAll m s) := by
  unfold dropAll
  repeat' (first
    | with_reducible assumption
    | with_reducible apply keeps_foldS
    | with_reducible apply keeps_dropQueue
    | with_reducible intro _
    | extract_lets
    | split
    | simp -zeta only [Keeps.mk_upd_iff]
    | dsimp +zetaDelta only)

theorem keeps_dropLong {s0 : State} (m q : Nat) (s : State) (hk : Keeps s0 s) :
    Keeps s0 (dropLong m q s) := by
  unfold dropLong
  repeat' (first
    | with_reducible assumption
    | with_reducible apply keeps_putMac
    | with_reducible intro _
    | extract_lets
    | split
    | simp -zeta only [Keeps.mk_upd_iff]
    | dsimp +zetaDelta only)

theorem keeps_submitTo {s0 : State} (m q : Nat) (ds : List TxDesc) (s : State) (hk : Keeps s0 s) :
    Keeps s0 (submitTo m q ds s) := by
  unfold submitTo
  repeat' (first
    | with_reducible assumption
    | with_reducible apply keeps_drawIn
    | with_reducible apply keeps_dropLong
    | with_reducible apply keeps_putMac
    | with_reducible apply keeps_startNext
    | with_reducible apply keeps_dropQueue
    | with_reducible intro _
    | extract_lets
    | split
    | dsimp only
    | simp -zeta only [Keeps.mk_upd_iff]
    | dsimp +zetaDelta only)

theorem keeps_queueMade {s0 : State} (m q kind : Nat) (da : BitVec 48) (bytes : List Byte) (s : State) (hk : Keeps s0 s) :
    Keeps s0 (queueMade m q kind da bytes s) := by
  unfold queueMade
  repeat' (first
    | with_reducible assumption
    | with_reducible apply keeps_putMac
    | with_reducible apply keeps_startNext
    | with_reducible apply keeps_dropQueue
    | with_reducible intro _
    | extract_lets
    | split
    | simp -zeta only [Keeps.mk_upd_iff]
    | dsimp +zetaDelta only)

theorem keeps_submitUl {s0 : State} (q : Nat) (f : List TxDesc) (s : State) (hk : Keeps s0 s) :
    Keeps s0 (submitUl q f s) := by
  unfold submitUl
  repeat' (first
    | with_reducible assumption
    | with_reducible apply keeps_foldS
    | with_reducible apply keeps_submitTo
    | with_reducible intro _
    | extract_lets
    | split
    | simp -zeta only [Keeps.mk_upd_iff]
    | dsimp +zetaDelta only)

theorem keeps_execTxDescriptorSubmit {s0 : State} (m q : Nat) (ds : List TxDesc) (s : State) (hk : Keeps s0 s) :
    OutKeeps s0 (execTxDescriptorSubmit m q ds s) := by
  unfold execTxDescriptorSubmit
  repeat' (first
    | with_reducible assumption
    | with_reducible apply outKeeps_whenUpAnd
    | with_reducible apply OutKeeps.next
    | with_reducible apply keeps_foldS
    | with_reducible apply keeps_submitUl
    | with_reducible apply keeps_submitTo
    | with_reducible intro _
    | extract_lets
    | split
    | simp -zeta only [Keeps.mk_upd_iff]
    | dsimp +zetaDelta only)

theorem keeps_countSent {s0 : State} (m : Nat) (deferred : Bool) (f : List TxD) (s : State) (hk : Keeps s0 s) :
    Keeps s0 (countSent m deferred f s) := by
  unfold countSent
  repeat' (first
    | with_reducible assumption
    | with_reducible apply keeps_putMac
    | with_reducible intro _
    | extract_lets
    | split
    | simp -zeta only [Keeps.mk_upd_iff]
    | dsimp +zetaDelta only)

theorem keeps_execBackoffExpiry {s0 : State} (m : Nat) (s : State) (hk : Keeps s0 s) :
    OutKeeps s0 (execBackoffExpiry m s) := by
  unfold execBackoffExpiry
  repeat' (first
    | with_reducible assumption
    | with_reducible apply outKeeps_whenUpAnd
    | with_reducible apply OutKeeps.next
    | with_reducible apply keeps_putMac
    | with_reducible intro _
    | extract_lets
    | split
    | simp -zeta only [Keeps.mk_upd_iff]
    | dsimp +zetaDelta only)

theorem keeps_rxDeliver {s0 : State} (m mt len : Nat) (s : State) (hk : Keeps s0 s) :
    Keeps s0 (rxDeliver m mt len s).2 := by
  unfold rxDeliver
  repeat' (first
    | with_reducible assumption
    | with_reducible apply keeps_putMac
    | with_reducible apply keeps_countMac
    | with_reducible intro _
    | extract_lets
    | split
    | dsimp only
    | simp -zeta only [Keeps.mk_upd_iff]
    | dsimp +zetaDelta only)

theorem keeps_rxFilter {s0 : State} (m : Nat) (f : RxFrame) (s : State) (hk : Keeps s0 s) :
    Keeps s0 (rxFilter m f s).2 := by
  unfold rxFilter
  repeat' (first
    | with_reducible assumption
    | with_reducible apply keeps_countMac
    | with_reducible apply keeps_rxDeliver
    | with_reducible intro _
    | extract_lets
    | split
    | dsimp only
    | simp -zeta only [Keeps.mk_upd_iff]
    | dsimp +zetaDelta only)

theorem keeps_learn {s0 : State} (u : Nat) (a : BitVec 48) (s : State) (hk : Keeps s0 s) :
    Keeps s0 (learn u a s) := by
  unfold learn
  repeat' (first
    | with_reducible assumption
    | with_reducible intro _
    | extract_lets
    | split
    | dsimp only
    | simp -zeta only [Keeps.mk_upd_iff]
    | dsimp +zetaDelta only)

theorem keeps_forward {s0 : State} (u : Nat) (f : RxFrame) (s : State) (hk : Keeps s0 s) :
    Keeps s0 (forward u f s) := by
  unfold forward
  repeat' (first
    | with_reducible assumption
    | with_reducible apply keeps_countMac
    | with_reducible apply keeps_startNext
    | with_reducible apply keeps_putMac
    | with_reducible intro _
    | extract_lets
    | split
    | simp -zeta only [Keeps.mk_upd_iff]
    | dsimp +zetaDelta only)

theorem keeps_hostPort {s0 : State} (u : Nat) (f : RxFrame) (s : State) (hk : Keeps s0 s) :
    Keeps s0 (hostPort u f s).2 := by
  unfold hostPort
  repeat' (first
    | with_reducible assumption
    | with_reducible apply keeps_rxFilter
    | with_reducible intro _
    | extract_lets
    | split
    | dsimp only
    | simp -zeta only [Keeps.mk_upd_iff]
    | dsimp +zetaDelta only)

theorem keeps_switchFrame {s0 : State} (u : Nat) (f : RxFrame) (s : State) (hk : Keeps s0 s) :
    Keeps s0 (switchFrame u f s).2 := by
  unfold switchFrame
  repeat' (first
    | with_reducible assumption
    | with_reducible apply keeps_hostPort
    | with_reducible apply keeps_forward
    | with_reducible apply keeps_countMac
    | with_reducible intro _
    | extract_lets
    | split
    | dsimp only
    | simp -zeta only [Keeps.mk_upd_iff]
    | dsimp +zetaDelta only)

theorem keeps_readFrame {s0 : State} (m : Nat) (f : RxFrame) (s : State) (hk : Keeps s0 s) :
    Keeps s0 (readFrame m f s) := by
  unfold readFrame
  repeat' (first
    | with_reducible assumption
    | with_reducible apply keeps_mslForward
    | with_reducible apply keeps_countMac
    | with_reducible intro _
    | extract_lets
    | split
    | simp -zeta only [Keeps.mk_upd_iff]
    | dsimp +zetaDelta only)

theorem keeps_execFrameReceive {s0 : State} (m : Nat) (f : RxFrame) (s : State) (hk : Keeps s0 s) :
    OutKeeps s0 (execFrameReceive m f s) := by
  unfold execFrameReceive
  repeat' (first
    | with_reducible assumption
    | with_reducible apply outKeeps_whenSwitch
    | with_reducible apply OutKeeps.next
    | with_reducible apply keeps_putMac
    | with_reducible apply keeps_learn
    | with_reducible apply keeps_countMac
    | with_reducible apply keeps_switchFrame
    | with_reducible apply keeps_rxFilter
    | with_reducible apply keeps_readFrame
    | with_reducible intro _
    | extract_lets
    | split
    | dsimp only
    | simp -zeta only [Keeps.mk_upd_iff]
    | dsimp +zetaDelta only)

theorem keeps_execRxDescriptorReturn {s0 : State} (m : Nat) (bufs : List Word) (s : State) (hk : Keeps s0 s) :
    OutKeeps s0 (execRxDescriptorReturn m bufs s) := by
  unfold execRxDescriptorReturn
  repeat' (first
    | with_reducible assumption
    | with_reducible apply outKeeps_whenUpAnd
    | with_reducible apply OutKeeps.next
    | with_reducible apply keeps_foldS
    | with_reducible apply keeps_putMac
    | with_reducible intro _
    | extract_lets
    | split
    | simp -zeta only [Keeps.mk_upd_iff]
    | dsimp +zetaDelta only)

theorem keeps_execAddressAgeout {s0 : State} (addr : BitVec 48) (s : State) (hk : Keeps s0 s) :
    OutKeeps s0 (execAddressAgeout addr s) := by
  unfold execAddressAgeout
  repeat' (first
    | with_reducible assumption
    | with_reducible apply outKeeps_whenSwitch
    | with_reducible apply OutKeeps.next
    | with_reducible intro _
    | extract_lets
    | split
    | dsimp only
    | simp -zeta only [Keeps.mk_upd_iff]
    | dsimp +zetaDelta only)

theorem keeps_loseLink {s0 : State} (m : Nat) (s : State) (hk : Keeps s0 s) :
    Keeps s0 (loseLink m s) := by
  unfold loseLink
  repeat' (first
    | with_reducible assumption
    | with_reducible apply keeps_putMac
    | with_reducible apply keeps_dropAll
    | with_reducible intro _
    | extract_lets
    | split
    | dsimp only
    | simp -zeta only [Keeps.mk_upd_iff]
    | dsimp +zetaDelta only)

theorem keeps_execLinkDown {s0 : State} (m : Nat) (s : State) (hk : Keeps s0 s) :
    OutKeeps s0 (execLinkDown m s) := by
  unfold execLinkDown
  repeat' (first
    | with_reducible assumption
    | with_reducible apply outKeeps_whenSwitch
    | with_reducible apply OutKeeps.next
    | with_reducible apply keeps_loseLink
    | with_reducible intro _
    | extract_lets
    | split
    | simp -zeta only [Keeps.mk_upd_iff]
    | dsimp +zetaDelta only)

theorem keeps_renegotiate {s0 : State} (u adv : Nat) (s : State) (hk : Keeps s0 s) :
    Keeps s0 (renegotiate u adv s) := by
  unfold renegotiate
  repeat' (first
    | with_reducible assumption
    | with_reducible apply keeps_loseLink
    | with_reducible apply keeps_putMac
    | with_reducible intro _
    | extract_lets
    | split
    | simp -zeta only [Keeps.mk_upd_iff]
    | dsimp +zetaDelta only)

theorem keeps_mslUpshift {s0 : State} (s : State) (hk : Keeps s0 s) :
    Keeps s0 (mslUpshift s) := by
  unfold mslUpshift
  repeat' (first
    | with_reducible assumption
    | with_reducible apply keeps_foldS
    | with_reducible apply keeps_renegotiate
    | with_reducible intro _
    | extract_lets
    | split
    | simp -zeta only [Keeps.mk_upd_iff]
    | dsimp +zetaDelta only)

theorem keeps_mslSetUp {s0 : State} (s : State) (hk : Keeps s0 s) :
    Keeps s0 (mslSetUp s) := by
  unfold mslSetUp
  repeat' (first
    | with_reducible assumption
    | with_reducible apply keeps_mslUpshift
    | with_reducible intro _
    | extract_lets
    | split
    | simp -zeta only [Keeps.mk_upd_iff]
    | dsimp +zetaDelta only)

theorem keeps_execLinkUp {s0 : State} (m rate : Nat) (s : State) (hk : Keeps s0 s) :
    OutKeeps s0 (execLinkUp m rate s) := by
  unfold execLinkUp
  repeat' (first
    | with_reducible assumption
    | with_reducible apply outKeeps_whenSwitch
    | with_reducible apply OutKeeps.next
    | with_reducible apply keeps_putMac
    | with_reducible apply keeps_mslUpshift
    | with_reducible apply keeps_netEvent
    | with_reducible intro _
    | extract_lets
    | split
    | simp -zeta only [Keeps.mk_upd_iff]
    | dsimp +zetaDelta only)

theorem keeps_execRateWindow1s {s0 : State} (u : Nat) (s : State) (hk : Keeps s0 s) :
    OutKeeps s0 (execRateWindow1s u s) := by
  unfold execRateWindow1s
  repeat' (first
    | with_reducible assumption
    | with_reducible apply outKeeps_whenUpAnd
    | with_reducible apply OutKeeps.next
    | with_reducible apply keeps_putMac
    | with_reducible apply keeps_renegotiate
    | with_reducible intro _
    | extract_lets
    | split
    | dsimp only
    | simp -zeta only [Keeps.mk_upd_iff]
    | dsimp +zetaDelta only)

theorem keeps_upshift {s0 : State} (u : Nat) (s : State) (hk : Keeps s0 s) :
    Keeps s0 (upshift u s) := by
  unfold upshift
  repeat' (first
    | with_reducible assumption
    | with_reducible apply keeps_renegotiate
    | with_reducible intro _
    | extract_lets
    | split
    | simp -zeta only [Keeps.mk_upd_iff]
    | dsimp +zetaDelta only)

theorem keeps_execRateWindow100ms {s0 : State} (u : Nat) (s : State) (hk : Keeps s0 s) :
    OutKeeps s0 (execRateWindow100ms u s) := by
  unfold execRateWindow100ms
  repeat' (first
    | with_reducible assumption
    | with_reducible apply outKeeps_whenUpAnd
    | with_reducible apply OutKeeps.next
    | with_reducible apply keeps_putMac
    | with_reducible apply keeps_upshift
    | with_reducible intro _
    | extract_lets
    | split
    | dsimp only
    | simp -zeta only [Keeps.mk_upd_iff]
    | dsimp +zetaDelta only)

theorem keeps_execQueueWaitUpshift {s0 : State} (u q : Nat) (s : State) (hk : Keeps s0 s) :
    OutKeeps s0 (execQueueWaitUpshift u q s) := by
  unfold execQueueWaitUpshift
  repeat' (first
    | with_reducible assumption
    | with_reducible apply outKeeps_whenUpAnd
    | with_reducible apply OutKeeps.next
    | with_reducible apply keeps_upshift
    | with_reducible intro _
    | extract_lets
    | split
    | simp -zeta only [Keeps.mk_upd_iff]
    | dsimp +zetaDelta only)

theorem keeps_execRateChangeFail {s0 : State} (u : Nat) (s : State) (hk : Keeps s0 s) :
    OutKeeps s0 (execRateChangeFail u s) := by
  unfold execRateChangeFail
  repeat' (first
    | with_reducible assumption
    | with_reducible apply outKeeps_whenUpAnd
    | with_reducible apply OutKeeps.next
    | with_reducible apply keeps_putMac
    | with_reducible intro _
    | extract_lets
    | split
    | simp -zeta only [Keeps.mk_upd_iff]
    | dsimp +zetaDelta only)

theorem keeps_execPauseFrame {s0 : State} (m : Nat) (f : PauseRx) (s : State) (hk : Keeps s0 s) :
    OutKeeps s0 (execPauseFrame m f s) := by
  unfold execPauseFrame
  repeat' (first
    | with_reducible assumption
    | with_reducible apply outKeeps_whenSwitch
    | with_reducible apply OutKeeps.next
    | with_reducible apply keeps_learn
    | with_reducible apply keeps_hostPort
    | with_reducible apply keeps_putMac
    | with_reducible apply keeps_startNext
    | with_reducible intro _
    | extract_lets
    | split
    | dsimp only
    | simp -zeta only [Keeps.mk_upd_iff]
    | dsimp +zetaDelta only)

theorem keeps_execPauseHoldEnd {s0 : State} (m : Nat) (s : State) (hk : Keeps s0 s) :
    OutKeeps s0 (execPauseHoldEnd m s) := by
  unfold execPauseHoldEnd
  repeat' (first
    | with_reducible assumption
    | with_reducible apply outKeeps_whenSwitch
    | with_reducible apply OutKeeps.next
    | with_reducible apply keeps_startNext
    | with_reducible apply keeps_putMac
    | with_reducible intro _
    | extract_lets
    | split
    | simp -zeta only [Keeps.mk_upd_iff]
    | dsimp +zetaDelta only)

theorem keeps_execPauseWatchdog {s0 : State} (m : Nat) (s : State) (hk : Keeps s0 s) :
    OutKeeps s0 (execPauseWatchdog m s) := by
  unfold execPauseWatchdog
  repeat' (first
    | with_reducible assumption
    | with_reducible apply outKeeps_whenSwitch
    | with_reducible apply OutKeeps.next
    | with_reducible apply keeps_startNext
    | with_reducible apply keeps_netEvent
    | with_reducible apply keeps_putMac
    | with_reducible intro _
    | extract_lets
    | split
    | simp -zeta only [Keeps.mk_upd_iff]
    | dsimp +zetaDelta only)

theorem keeps_execPauseBreakEnd {s0 : State} (m : Nat) (s : State) (hk : Keeps s0 s) :
    OutKeeps s0 (execPauseBreakEnd m s) := by
  unfold execPauseBreakEnd
  repeat' (first
    | with_reducible assumption
    | with_reducible apply outKeeps_whenSwitch
    | with_reducible apply OutKeeps.next
    | with_reducible apply keeps_putMac
    | with_reducible intro _
    | extract_lets
    | split
    | simp -zeta only [Keeps.mk_upd_iff]
    | dsimp +zetaDelta only)

/-! ### Machine/Exchange.lean -/

theorem keeps_putDevRt {s0 : State} (key : Nat) (r : DevRt) (s : State) (hk : Keeps s0 s) :
    Keeps s0 (putDevRt key r s) := by
  unfold putDevRt
  repeat' (first
    | with_reducible assumption
    | with_reducible intro _
    | extract_lets
    | split
    | simp -zeta only [Keeps.mk_upd_iff]
    | dsimp +zetaDelta only)

theorem keeps_putWin_ {s0 : State} (g : Nat) (w : SegWin) (s : State) (hk : Keeps s0 s) :
    Keeps s0 (putWin_ g w s) := by
  unfold putWin_
  repeat' (first
    | with_reducible assumption
    | with_reducible intro _
    | extract_lets
    | split
    | simp -zeta only [Keeps.mk_upd_iff]
    | dsimp +zetaDelta only)

theorem keeps_fxSend {s0 : State} (g kind dst flags : Nat) (seq : Half) (da : BitVec 48) (data : List Byte) (s : State) (hk : Keeps s0 s) :
    Keeps s0 (fxSend g kind dst flags seq da data s) := by
  unfold fxSend
  repeat' (first
    | with_reducible assumption
    | with_reducible apply keeps_queueMade
    | with_reducible intro _
    | extract_lets
    | split
    | simp -zeta only [Keeps.mk_upd_iff]
    | dsimp +zetaDelta only)

theorem keeps_fxReceived {s0 : State} (g dlen : Nat) (s : State) (hk : Keeps s0 s) :
    Keeps s0 (fxReceived g dlen s) := by
  unfold fxReceived
  repeat' (first
    | with_reducible assumption
    | with_reducible apply keeps_putMac
    | with_reducible intro _
    | extract_lets
    | split
    | simp -zeta only [Keeps.mk_upd_iff]
    | dsimp +zetaDelta only)

theorem keeps_prepWindows {s0 : State} (s : State) (hk : Keeps s0 s) :
    Keeps s0 (prepWindows s) := by
  unfold prepWindows
  repeat' (first
    | with_reducible assumption
    | with_reducible apply keeps_foldS
    | with_reducible apply keeps_startNext
    | with_reducible apply keeps_putWin_
    | with_reducible intro _
    | extract_lets
    | split
    | dsimp only
    | simp -zeta only [Keeps.mk_upd_iff]
    | dsimp +zetaDelta only)

theorem keeps_missExchange {s0 : State} (g key : Nat) (s : State) (hk : Keeps s0 s) :
    Keeps s0 (missExchange g key s) := by
  unfold missExchange
  repeat' (first
    | with_reducible assumption
    | with_reducible apply keeps_countMac
    | with_reducible apply keeps_putDevRt
    | with_reducible intro _
    | extract_lets
    | split
    | simp -zeta only [Keeps.mk_upd_iff]
    | dsimp +zetaDelta only)

theorem keeps_sendExreq {s0 : State} (g key : Nat) (d : DevEnt) (s : State) (hk : Keeps s0 s) :
    Keeps s0 (sendExreq g key d s) := by
  unfold sendExreq
  repeat' (first
    | with_reducible assumption
    | with_reducible apply keeps_putDevRt
    | with_reducible apply keeps_putWin_
    | with_reducible apply keeps_fxSend
    | with_reducible intro _
    | extract_lets
    | split
    | simp -zeta only [Keeps.mk_upd_iff]
    | dsimp +zetaDelta only)

theorem keeps_nextExchange {s0 : State} (g : Nat) (l : List Nat) (s : State) (hk : Keeps s0 s) :
    Keeps s0 (nextExchange g l s) := by
  induction l generalizing s with
  | nil => exact keeps_startNext _ _ (keeps_putWin_ _ _ _ hk)
  | cons key rest ih =>
    unfold nextExchange
    split
    · exact ih s hk
    · split
      · exact ih _ (keeps_missExchange _ _ _ hk)
      · exact keeps_sendExreq _ _ _ _ (keeps_putWin_ _ _ _ hk)

theorem keeps_execExchangeWindowOpen {s0 : State} (g : Nat) (s : State) (hk : Keeps s0 s) :
    OutKeeps s0 (execExchangeWindowOpen g s) := by
  unfold execExchangeWindowOpen
  repeat' (first
    | with_reducible assumption
    | with_reducible apply outKeeps_whenUpAnd
    | with_reducible apply OutKeeps.next
    | with_reducible apply keeps_foldl
    | with_reducible apply keeps_putWin_
    | with_reducible apply keeps_fxSend
    | with_reducible intro _
    | extract_lets
    | split
    | simp -zeta only [Keeps.mk_upd_iff]
    | dsimp +zetaDelta only)

theorem keeps_acceptReply {s0 : State} (key : Nat) (x : ExReply) (s : State) (hk : Keeps s0 s) :
    Keeps s0 (acceptReply key x s) := by
  unfold acceptReply
  repeat' (first
    | with_reducible assumption
    | with_reducible apply keeps_putDevRt
    | with_reducible intro _
    | extract_lets
    | split
    | simp -zeta only [Keeps.mk_upd_iff]
    | dsimp +zetaDelta only)

theorem keeps_execExrep {s0 : State} (g : Nat) (x : ExReply) (s : State) (hk : Keeps s0 s) :
    OutKeeps s0 (execExrep g x s) := by
  unfold execExrep
  repeat' (first
    | with_reducible assumption
    | with_reducible apply outKeeps_whenUpAnd
    | with_reducible apply OutKeeps.next
    | with_reducible apply keeps_fxReceived
    | with_reducible apply keeps_countMac
    | with_reducible apply keeps_missExchange
    | with_reducible apply keeps_acceptReply
    | with_reducible apply keeps_nextExchange
    | with_reducible intro _
    | extract_lets
    | split
    | dsimp only
    | simp -zeta only [Keeps.mk_upd_iff]
    | dsimp +zetaDelta only)

theorem keeps_execExchangeTimeout {s0 : State} (g : Nat) (s : State) (hk : Keeps s0 s) :
    OutKeeps s0 (execExchangeTimeout g s) := by
  unfold execExchangeTimeout
  repeat' (first
    | with_reducible assumption
    | with_reducible apply outKeeps_whenUpAnd
    | with_reducible apply OutKeeps.next
    | with_reducible apply keeps_nextExchange
    | with_reducible apply keeps_missExchange
    | with_reducible intro _
    | extract_lets
    | split
    | simp -zeta only [Keeps.mk_upd_iff]
    | dsimp +zetaDelta only)

theorem keeps_withdrawReqs {s0 : State} (g : Nat) (s : State) (hk : Keeps s0 s) :
    Keeps s0 (withdrawReqs g s) := by
  unfold withdrawReqs
  repeat' (first
    | with_reducible assumption
    | with_reducible apply keeps_putMac
    | with_reducible intro _
    | extract_lets
    | split
    | dsimp only
    | simp -zeta only [Keeps.mk_upd_iff]
    | dsimp +zetaDelta only)

theorem keeps_closeWindow {s0 : State} (g : Nat) (s : State) (hk : Keeps s0 s) :
    Keeps s0 (closeWindow g s) := by
  unfold closeWindow
  repeat' (first
    | with_reducible assumption
    | with_reducible apply keeps_foldS
    | with_reducible apply keeps_missExchange
    | with_reducible apply keeps_withdrawReqs
    | with_reducible apply keeps_startNext
    | with_reducible apply keeps_putWin_
    | with_reducible intro _
    | extract_lets
    | split
    | simp -zeta only [Keeps.mk_upd_iff]
    | dsimp +zetaDelta only)

theorem keeps_afterMade {s0 : State} (m : Nat) (sent : Bool) (f : List TxD) (s : State) (hk : Keeps s0 s) :
    Keeps s0 (afterMade m sent f s) := by
  unfold afterMade
  repeat' (first
    | with_reducible assumption
    | with_reducible apply keeps_nextExchange
    | with_reducible apply keeps_putWin_
    | with_reducible apply keeps_missExchange
    | with_reducible intro _
    | extract_lets
    | split
    | simp -zeta only [Keeps.mk_upd_iff]
    | dsimp +zetaDelta only)

theorem keeps_dropUnfit {s0 : State} (g : Nat) (s : State) (hk : Keeps s0 s) :
    Keeps s0 (dropUnfit g s) := by
  unfold dropUnfit
  repeat' (first
    | with_reducible assumption
    | with_reducible apply keeps_nextExchange
    | with_reducible apply keeps_missExchange
    | with_reducible apply keeps_withdrawReqs
    | with_reducible intro _
    | extract_lets
    | split
    | simp -zeta only [Keeps.mk_upd_iff]
    | dsimp +zetaDelta only)

theorem keeps_finishFrame {s0 : State} (m err : Nat) (s : State) (hk : Keeps s0 s) :
    Keeps s0 (finishFrame m err s) := by
  unfold finishFrame
  repeat' (first
    | with_reducible assumption
    | with_reducible apply keeps_retireHead
    | with_reducible apply keeps_afterMade
    | with_reducible apply keeps_putMac
    | with_reducible apply keeps_startNext
    | with_reducible apply keeps_dropUnfit
    | with_reducible intro _
    | extract_lets
    | split
    | simp -zeta only [Keeps.mk_upd_iff]
    | dsimp +zetaDelta only)

theorem keeps_execFrameTransmitDone {s0 : State} (m : Nat) (r : TxEnd) (s : State) (hk : Keeps s0 s) :
    OutKeeps s0 (execFrameTransmitDone m r s) := by
  unfold execFrameTransmitDone
  repeat' (first
    | with_reducible assumption
    | with_reducible apply outKeeps_whenSwitch
    | with_reducible apply OutKeeps.next
    | with_reducible apply keeps_finishFrame
    | with_reducible apply keeps_emit
    | with_reducible apply keeps_countSent
    | with_reducible apply keeps_countMac
    | with_reducible intro _
    | extract_lets
    | split
    | simp -zeta only [Keeps.mk_upd_iff]
    | dsimp +zetaDelta only)

theorem keeps_execCollision {s0 : State} (m : Nat) (late : Bool) (s : State) (hk : Keeps s0 s) :
    OutKeeps s0 (execCollision m late s) := by
  unfold execCollision
  repeat' (first
    | with_reducible assumption
    | with_reducible apply outKeeps_whenUpAnd
    | with_reducible apply OutKeeps.next
    | with_reducible apply keeps_finishFrame
    | with_reducible apply keeps_countMac
    | with_reducible apply keeps_drawIn
    | with_reducible apply keeps_putMac
    | with_reducible intro _
    | extract_lets
    | split
    | dsimp only
    | simp -zeta only [Keeps.mk_upd_iff]
    | dsimp +zetaDelta only)

theorem keeps_handOffDevs {s0 : State} (k : Nat) (ovr : Nat → Bool) (v : Nat → Nat → Word) (s : State) (hk : Keeps s0 s) :
    Keeps s0 (handOffDevs k ovr v s) := by
  unfold handOffDevs
  repeat' (first
    | with_reducible assumption
    | with_reducible apply keeps_foldS
    | with_reducible apply keeps_putDevRt
    | with_reducible intro _
    | extract_lets
    | split
    | dsimp only
    | simp -zeta only [Keeps.mk_upd_iff]
    | dsimp +zetaDelta only)

theorem keeps_releaseDevs {s0 : State} (k : Nat) (s : State) (hk : Keeps s0 s) :
    Keeps s0 (releaseDevs k s) := by
  unfold releaseDevs
  repeat' (first
    | with_reducible assumption
    | with_reducible apply keeps_foldS
    | with_reducible apply keeps_putDevRt
    | with_reducible intro _
    | extract_lets
    | split
    | dsimp only
    | simp -zeta only [Keeps.mk_upd_iff]
    | dsimp +zetaDelta only)

theorem keeps_devInput {s0 : State} (key : Nat) (d : DevEnt) (s : State) (hk : Keeps s0 s) :
    Keeps s0 (devInput key d s) := by
  unfold devInput
  repeat' (first
    | with_reducible assumption
    | with_reducible apply keeps_foldS
    | with_reducible apply keeps_enterPt
    | with_reducible apply keeps_undelivPt
    | with_reducible apply keeps_putDevRt
    | with_reducible apply keeps_missPts
    | with_reducible intro _
    | extract_lets
    | split
    | dsimp only
    | simp -zeta only [Keeps.mk_upd_iff]
    | dsimp +zetaDelta only)

theorem keeps_fieldInput {s0 : State} (s : State) (hk : Keeps s0 s) :
    Keeps s0 (fieldInput s) := by
  unfold fieldInput
  repeat' (first
    | with_reducible assumption
    | with_reducible apply keeps_foldS
    | with_reducible apply keeps_devInput
    | with_reducible intro _
    | extract_lets
    | split
    | dsimp only
    | simp -zeta only [Keeps.mk_upd_iff]
    | dsimp +zetaDelta only)

theorem keeps_nextSeq {s0 : State} (g node : Nat) (s : State) (hk : Keeps s0 s) :
    Keeps s0 (nextSeq g node s).2 := by
  unfold nextSeq
  repeat' (first
    | with_reducible assumption
    | with_reducible apply keeps_putDevRt
    | with_reducible intro _
    | extract_lets
    | split
    | dsimp only
    | simp -zeta only [Keeps.mk_upd_iff]
    | dsimp +zetaDelta only)

theorem keeps_sendAcyc {s0 : State} (g node : Nat) (r : DevReq) (s : State) (hk : Keeps s0 s) :
    Keeps s0 (sendAcyc g node r s) := by
  unfold sendAcyc
  repeat' (first
    | with_reducible assumption
    | with_reducible apply keeps_fxSend
    | with_reducible intro _
    | extract_lets
    | split
    | dsimp only
    | simp -zeta only [Keeps.mk_upd_iff]
    | dsimp +zetaDelta only)

theorem keeps_execAcyc {s0 : State} (g node : Nat) (seq : Half) (data : List Byte) (s : State) (hk : Keeps s0 s) :
    OutKeeps s0 (execAcyc g node seq data s) := by
  unfold execAcyc
  repeat' (first
    | with_reducible assumption
    | with_reducible apply outKeeps_whenUpAnd
    | with_reducible apply OutKeeps.next
    | with_reducible apply keeps_fxReceived
    | with_reducible apply keeps_countMac
    | with_reducible apply keeps_endDev
    | with_reducible intro _
    | extract_lets
    | split
    | simp -zeta only [Keeps.mk_upd_iff]
    | dsimp +zetaDelta only)

/-! ### Machine/Barrier.lean -/

theorem keeps_execIdleFrame {s0 : State} (h : FrameHdr) (s : State) (hk : Keeps s0 s) :
    OutKeeps s0 (execIdleFrame h s) := by
  unfold execIdleFrame
  repeat' (first
    | with_reducible assumption
    | with_reducible apply OutKeeps.next
    | with_reducible apply keeps_toField
    | with_reducible intro _
    | extract_lets
    | split
    | simp -zeta only [Keeps.mk_upd_iff]
    | dsimp +zetaDelta only
    | (with_reducible apply Keeps.mk_sound) <;> first
        | exact id
        | exact Table.wf_set
        | exact fun _ => Table.wf_nil
        | exact fun x => ⟨Table.wf_set x.1, x.2⟩
        | exact fun x => ⟨x.1, Table.wf_set x.2⟩
        | exact fun x => ⟨x.2, x.2⟩
        | exact fun x => PointsOk.like x rfl rfl rfl
        | exact fun x => PointsOk.retain x rfl rfl rfl
        | exact fun x => PointsOk.restore x rfl rfl rfl
        | exact fun x => PointsOk.frozen x rfl rfl rfl
        | exact fun x => PointsOk.put x (quality_masked _)
        | exact fun x => PointsOk.putRetained x (quality_masked _)
        | skip
    | fail)

theorem keeps_takeOutcmd {s0 : State} (k : Nat) (seq : Half) (c : OutCmd) (s : State) (hk : Keeps s0 s) :
    Keeps s0 (takeOutcmd k seq c s) := by
  unfold takeOutcmd
  repeat' (first
    | with_reducible assumption
    | with_reducible intro _
    | extract_lets
    | split
    | dsimp only
    | simp -zeta only [Keeps.mk_upd_iff]
    | dsimp +zetaDelta only
    | (with_reducible apply Keeps.mk_sound) <;> first
        | exact id
        | exact Table.wf_set
        | exact fun _ => Table.wf_nil
        | exact fun x => ⟨Table.wf_set x.1, x.2⟩
        | exact fun x => ⟨x.1, Table.wf_set x.2⟩
        | exact fun x => ⟨x.2, x.2⟩
        | exact fun x => PointsOk.like x rfl rfl rfl
        | exact fun x => PointsOk.retain x rfl rfl rfl
        | exact fun x => PointsOk.restore x rfl rfl rfl
        | exact fun x => PointsOk.frozen x rfl rfl rfl
        | exact fun x => PointsOk.put x (quality_masked _)
        | exact fun x => PointsOk.putRetained x (quality_masked _)
        | skip
    | fail)

theorem keeps_noteSeq {s0 : State} (h : FrameHdr) (k : Nat) (s : State) (hk : Keeps s0 s) :
    Keeps s0 (noteSeq h k s) := by
  unfold noteSeq
  repeat' (first
    | with_reducible assumption
    | with_reducible intro _
    | extract_lets
    | split
    | simp -zeta only [Keeps.mk_upd_iff]
    | dsimp +zetaDelta only)

theorem keeps_execOutcmd {s0 : State} (h : FrameHdr) (k : Nat) (s : State) (hk : Keeps s0 s) :
    OutKeeps s0 (execOutcmd h k s) := by
  unfold execOutcmd
  repeat' (first
    | with_reducible assumption
    | with_reducible apply outKeeps_whenUp
    | with_reducible apply OutKeeps.next
    | with_reducible apply keeps_fieldSlot
    | with_reducible apply keeps_takeOutcmd
    | with_reducible apply keeps_noteSeq
    | exact id ‹_›
    | with_reducible intro _
    | extract_lets
    | split
    | dsimp only
    | simp -zeta only [Keeps.mk_upd_iff]
    | dsimp +zetaDelta only)

theorem keeps_holdBytes {s0 : State} (off : Nat) (bs : List Byte) (s : State) (hk : Keeps s0 s) :
    Keeps s0 (holdBytes off bs s) := by
  unfold holdBytes
  repeat' (first
    | with_reducible assumption
    | with_reducible apply keeps_foldl
    | with_reducible intro _
    | extract_lets
    | split
    | dsimp only
    | simp -zeta only [Keeps.mk_upd_iff]
    | dsimp +zetaDelta only
    | (with_reducible apply Keeps.mk_sound) <;> first
        | exact id
        | exact Table.wf_set
        | exact fun _ => Table.wf_nil
        | exact fun x => ⟨Table.wf_set x.1, x.2⟩
        | exact fun x => ⟨x.1, Table.wf_set x.2⟩
        | exact fun x => ⟨x.2, x.2⟩
        | exact fun x => PointsOk.like x rfl rfl rfl
        | exact fun x => PointsOk.retain x rfl rfl rfl
        | exact fun x => PointsOk.restore x rfl rfl rfl
        | exact fun x => PointsOk.frozen x rfl rfl rfl
        | exact fun x => PointsOk.put x (quality_masked _)
        | exact fun x => PointsOk.putRetained x (quality_masked _)
        | skip
    | fail)

theorem keeps_execConfigFrame {s0 : State} (h : FrameHdr) (off : Nat) (s : State) (hk : Keeps s0 s) :
    OutKeeps s0 (execConfigFrame h off s) := by
  unfold execConfigFrame
  repeat' (first
    | with_reducible assumption
    | with_reducible apply OutKeeps.next
    | with_reducible apply keeps_toField
    | with_reducible apply keeps_holdBytes
    | with_reducible apply keeps_receiveSaf
    | with_reducible apply keeps_receiveMsl
    | with_reducible apply keeps_leaveLoss
    | with_reducible intro _
    | extract_lets
    | split
    | simp -zeta only [Keeps.mk_upd_iff]
    | dsimp +zetaDelta only)

theorem keeps_execSafreq {s0 : State} (h : FrameHdr) (s : State) (hk : Keeps s0 s) :
    OutKeeps s0 (execSafreq h s) := by
  unfold execSafreq
  repeat' (first
    | with_reducible assumption
    | with_reducible apply OutKeeps.next
    | with_reducible apply keeps_toField
    | with_reducible apply keeps_takeRequests
    | with_reducible intro _
    | extract_lets
    | split
    | simp -zeta only [Keeps.mk_upd_iff]
    | dsimp +zetaDelta only)

theorem keeps_execBarrierMslToPair {s0 : State} (h : FrameHdr) (slot sub : Nat) (s : State) (hk : Keeps s0 s) :
    OutKeeps s0 (execBarrierMslToPair h slot sub s) := by
  unfold execBarrierMslToPair
  repeat' (first
    | with_reducible assumption
    | with_reducible apply OutKeeps.next
    | with_reducible apply keeps_toField
    | with_reducible intro _
    | extract_lets
    | split
    | simp -zeta only [Keeps.mk_upd_iff]
    | dsimp +zetaDelta only
    | (with_reducible apply Keeps.mk_sound) <;> first
        | exact id
        | exact Table.wf_set
        | exact fun _ => Table.wf_nil
        | exact fun x => ⟨Table.wf_set x.1, x.2⟩
        | exact fun x => ⟨x.1, Table.wf_set x.2⟩
        | exact fun x => ⟨x.2, x.2⟩
        | exact fun x => PointsOk.like x rfl rfl rfl
        | exact fun x => PointsOk.retain x rfl rfl rfl
        | exact fun x => PointsOk.restore x rfl rfl rfl
        | exact fun x => PointsOk.frozen x rfl rfl rfl
        | exact fun x => PointsOk.put x (quality_masked _)
        | exact fun x => PointsOk.putRetained x (quality_masked _)
        | skip
    | fail)

theorem keeps_linkEvent {s0 : State} (l : LinkId) (good : Bool) (s : State) (hk : Keeps s0 s) :
    Keeps s0 (linkEvent l good s) := by
  unfold linkEvent
  repeat' (first
    | with_reducible assumption
    | with_reducible apply keeps_logEv
    | with_reducible intro _
    | extract_lets
    | split
    | simp -zeta only [Keeps.mk_upd_iff]
    | dsimp +zetaDelta only)

theorem keeps_setRetrain {s0 : State} (l : LinkId) (r : Option (Nat × Bool)) (s : State) (hk : Keeps s0 s) :
    Keeps s0 (setRetrain l r s) := by
  unfold setRetrain
  repeat' (first
    | with_reducible assumption
    | with_reducible intro _
    | extract_lets
    | split
    | simp -zeta only [Keeps.mk_upd_iff]
    | dsimp +zetaDelta only)

theorem keeps_linkLost {s0 : State} (l : LinkId) (s : State) (hk : Keeps s0 s) :
    Keeps s0 (linkLost l s) := by
  unfold linkLost
  repeat' (first
    | with_reducible assumption
    | with_reducible apply keeps_linkEvent
    | with_reducible apply keeps_setRetrain
    | with_reducible intro _
    | extract_lets
    | split
    | simp -zeta only [Keeps.mk_upd_iff]
    | dsimp +zetaDelta only)

theorem keeps_hearLinks {s0 : State} (s : State) (hk : Keeps s0 s) :
    Keeps s0 (hearLinks s) := by
  unfold hearLinks
  repeat' (first
    | with_reducible assumption
    | with_reducible apply keeps_linkLost
    | with_reducible intro _
    | extract_lets
    | split
    | simp -zeta only [Keeps.mk_upd_iff]
    | dsimp +zetaDelta only)

theorem keeps_execStatusFrame {s0 : State} (h : FrameHdr) (supply temp : Word) (s : State) (hk : Keeps s0 s) :
    OutKeeps s0 (execStatusFrame h supply temp s) := by
  unfold execStatusFrame
  repeat' (first
    | with_reducible assumption
    | with_reducible apply OutKeeps.next
    | with_reducible apply keeps_toCore
    | with_reducible apply keeps_hearLinks
    | with_reducible intro _
    | extract_lets
    | split
    | simp -zeta only [Keeps.mk_upd_iff]
    | dsimp +zetaDelta only
    | (with_reducible apply Keeps.mk_sound) <;> first
        | exact id
        | exact Table.wf_set
        | exact fun _ => Table.wf_nil
        | exact fun x => ⟨Table.wf_set x.1, x.2⟩
        | exact fun x => ⟨x.1, Table.wf_set x.2⟩
        | exact fun x => ⟨x.2, x.2⟩
        | exact fun x => PointsOk.like x rfl rfl rfl
        | exact fun x => PointsOk.retain x rfl rfl rfl
        | exact fun x => PointsOk.restore x rfl rfl rfl
        | exact fun x => PointsOk.frozen x rfl rfl rfl
        | exact fun x => PointsOk.put x (quality_masked _)
        | exact fun x => PointsOk.putRetained x (quality_masked _)
        | skip
    | fail)

theorem keeps_execAck {s0 : State} (h : FrameHdr) (k : Nat) (s : State) (hk : Keeps s0 s) :
    OutKeeps s0 (execAck h k s) := by
  unfold execAck
  repeat' (first
    | with_reducible assumption
    | with_reducible apply OutKeeps.next
    | with_reducible apply keeps_toCore
    | with_reducible intro _
    | extract_lets
    | split
    | simp -zeta only [Keeps.mk_upd_iff]
    | dsimp +zetaDelta only)

theorem keeps_execEventFrame {s0 : State} (h : FrameHdr) (s : State) (hk : Keeps s0 s) :
    OutKeeps s0 (execEventFrame h s) := by
  unfold execEventFrame
  repeat' (first
    | with_reducible assumption
    | with_reducible apply outKeeps_whenUp
    | with_reducible apply OutKeeps.next
    | with_reducible apply keeps_endPulses
    | with_reducible apply keeps_coreSlot
    | with_reducible apply keeps_logEv
    | with_reducible intro _
    | extract_lets
    | split
    | simp -zeta only [Keeps.mk_upd_iff]
    | dsimp +zetaDelta only
    | (with_reducible apply Keeps.mk_sound) <;> first
        | exact id
        | exact Table.wf_set
        | exact fun _ => Table.wf_nil
        | exact fun x => ⟨Table.wf_set x.1, x.2⟩
        | exact fun x => ⟨x.1, Table.wf_set x.2⟩
        | exact fun x => ⟨x.2, x.2⟩
        | exact fun x => PointsOk.like x rfl rfl rfl
        | exact fun x => PointsOk.retain x rfl rfl rfl
        | exact fun x => PointsOk.restore x rfl rfl rfl
        | exact fun x => PointsOk.frozen x rfl rfl rfl
        | exact fun x => PointsOk.put x (quality_masked _)
        | exact fun x => PointsOk.putRetained x (quality_masked _)
        | skip
    | fail)

theorem keeps_mslSend {s0 : State} (slot : Nat) (tg : List Byte) (s : State) (hk : Keeps s0 s) :
    Keeps s0 (mslSend slot tg s) := by
  unfold mslSend
  repeat' (first
    | with_reducible assumption
    | with_reducible apply keeps_foldS
    | with_reducible apply keeps_putCan
    | with_reducible apply keeps_nextSeq
    | with_reducible apply keeps_fxSend
    | with_reducible apply keeps_draw
    | with_reducible apply keeps_queueMade
    | with_reducible intro _
    | extract_lets
    | split
    | dsimp only
    | simp -zeta only [Keeps.mk_upd_iff]
    | dsimp +zetaDelta only
    | (with_reducible apply Keeps.mk_sound) <;> first
        | exact id
        | exact Table.wf_set
        | exact fun _ => Table.wf_nil
        | exact fun x => ⟨Table.wf_set x.1, x.2⟩
        | exact fun x => ⟨x.1, Table.wf_set x.2⟩
        | exact fun x => ⟨x.2, x.2⟩
        | exact fun x => PointsOk.like x rfl rfl rfl
        | exact fun x => PointsOk.retain x rfl rfl rfl
        | exact fun x => PointsOk.restore x rfl rfl rfl
        | exact fun x => PointsOk.frozen x rfl rfl rfl
        | exact fun x => PointsOk.put x (quality_masked _)
        | exact fun x => PointsOk.putRetained x (quality_masked _)
        | skip
    | fail)

theorem keeps_execBarrierMslFromPair {s0 : State} (h : FrameHdr) (slot sub : Nat) (s : State) (hk : Keeps s0 s) :
    OutKeeps s0 (execBarrierMslFromPair h slot sub s) := by
  unfold execBarrierMslFromPair
  repeat' (first
    | with_reducible assumption
    | with_reducible apply OutKeeps.next
    | with_reducible apply keeps_toCore
    | with_reducible apply keeps_mslSend
    | with_reducible intro _
    | extract_lets
    | split
    | simp -zeta only [Keeps.mk_upd_iff]
    | dsimp +zetaDelta only
    | (with_reducible apply Keeps.mk_sound) <;> first
        | exact id
        | exact Table.wf_set
        | exact fun _ => Table.wf_nil
        | exact fun x => ⟨Table.wf_set x.1, x.2⟩
        | exact fun x => ⟨x.1, Table.wf_set x.2⟩
        | exact fun x => ⟨x.2, x.2⟩
        | exact fun x => PointsOk.like x rfl rfl rfl
        | exact fun x => PointsOk.retain x rfl rfl rfl
        | exact fun x => PointsOk.restore x rfl rfl rfl
        | exact fun x => PointsOk.frozen x rfl rfl rfl
        | exact fun x => PointsOk.put x (quality_masked _)
        | exact fun x => PointsOk.putRetained x (quality_masked _)
        | skip
    | fail)

theorem keeps_localEnter {s0 : State} (pt : Nat) (r : Option Word × Byte) (s : State) (hk : Keeps s0 s) :
    Keeps s0 (localEnter pt r s) := by
  unfold localEnter
  repeat' (first
    | with_reducible assumption
    | with_reducible apply keeps_patchPt
    | with_reducible apply keeps_enterPt
    | with_reducible intro _
    | extract_lets
    | split
    | dsimp only
    | simp -zeta only [Keeps.mk_upd_iff]
    | dsimp +zetaDelta only)

theorem keeps_undelivered {s0 : State} (s : State) (hk : Keeps s0 s) :
    Keeps s0 (undelivered s) := by
  unfold undelivered
  repeat' (first
    | with_reducible assumption
    | with_reducible apply keeps_foldS
    | with_reducible apply keeps_foldl
    | with_reducible apply keeps_undelivPt
    | with_reducible intro _
    | extract_lets
    | split
    | dsimp only
    | simp -zeta only [Keeps.mk_upd_iff]
    | dsimp +zetaDelta only)

theorem keeps_judgeOutputs {s0 : State} (b : List (Nat × List Word)) (s : State) (hk : Keeps s0 s) :
    Keeps s0 (judgeOutputs b s) := by
  unfold judgeOutputs
  repeat' (first
    | with_reducible assumption
    | with_reducible apply keeps_foldS
    | with_reducible apply keeps_patchPt
    | with_reducible apply keeps_undelivPt
    | with_reducible intro _
    | extract_lets
    | split
    | simp -zeta only [Keeps.mk_upd_iff]
    | dsimp +zetaDelta only)

theorem keeps_missBurst {s0 : State} (s : State) (hk : Keeps s0 s) :
    Keeps s0 (missBurst s) := by
  unfold missBurst
  repeat' (first
    | with_reducible assumption
    | with_reducible apply keeps_foldS
    | with_reducible apply keeps_patchPt
    | with_reducible apply keeps_substPt
    | with_reducible apply keeps_stalePt
    | with_reducible intro _
    | extract_lets
    | split
    | simp -zeta only [Keeps.mk_upd_iff]
    | dsimp +zetaDelta only)

theorem keeps_acceptBurst {s0 : State} (s : State) (hk : Keeps s0 s) :
    Keeps s0 (acceptBurst s) := by
  unfold acceptBurst
  repeat' (first
    | with_reducible assumption
    | with_reducible apply keeps_foldS
    | with_reducible apply keeps_foldl
    | with_reducible apply keeps_localEnter
    | with_reducible apply keeps_judgeOutputs
    | with_reducible intro _
    | extract_lets
    | split
    | simp -zeta only [Keeps.mk_upd_iff]
    | dsimp +zetaDelta only)

theorem keeps_returnField {s0 : State} (s : State) (hk : Keeps s0 s) :
    Keeps s0 (returnField s) := by
  unfold returnField
  repeat' (first
    | with_reducible assumption
    | with_reducible apply keeps_foldS
    | with_reducible apply keeps_patchPt
    | with_reducible apply keeps_undelivPt
    | with_reducible intro _
    | extract_lets
    | split
    | simp -zeta only [Keeps.mk_upd_iff]
    | dsimp +zetaDelta only)

theorem keeps_countBursts {s0 : State} (ok : Bool) (s : State) (hk : Keeps s0 s) :
    Keeps s0 (countBursts ok s) := by
  unfold countBursts
  repeat' (first
    | with_reducible assumption
    | with_reducible intro _
    | extract_lets
    | split
    | simp -zeta only [Keeps.mk_upd_iff]
    | dsimp +zetaDelta only
    | (with_reducible apply Keeps.mk_sound) <;> first
        | exact id
        | exact Table.wf_set
        | exact fun _ => Table.wf_nil
        | exact fun x => ⟨Table.wf_set x.1, x.2⟩
        | exact fun x => ⟨x.1, Table.wf_set x.2⟩
        | exact fun x => ⟨x.2, x.2⟩
        | exact fun x => PointsOk.like x rfl rfl rfl
        | exact fun x => PointsOk.retain x rfl rfl rfl
        | exact fun x => PointsOk.restore x rfl rfl rfl
        | exact fun x => PointsOk.frozen x rfl rfl rfl
        | exact fun x => PointsOk.put x (quality_masked _)
        | exact fun x => PointsOk.putRetained x (quality_masked _)
        | skip
    | fail)

theorem keeps_burstComplete {s0 : State} (s : State) (hk : Keeps s0 s) :
    Keeps s0 (burstComplete s) := by
  unfold burstComplete
  repeat' (first
    | with_reducible assumption
    | with_reducible apply keeps_countBursts
    | with_reducible apply keeps_acceptBurst
    | with_reducible apply keeps_missBurst
    | with_reducible apply keeps_returnField
    | with_reducible intro _
    | extract_lets
    | split
    | simp -zeta only [Keeps.mk_upd_iff]
    | dsimp +zetaDelta only)

theorem keeps_takeInput {s0 : State} (sub : Nat) (ws : List Word) (s : State) (hk : Keeps s0 s) :
    Keeps s0 (takeInput sub ws s) := by
  unfold takeInput
  repeat' (first
    | with_reducible assumption
    | with_reducible apply keeps_burstComplete
    | with_reducible intro _
    | extract_lets
    | split
    | dsimp only
    | simp -zeta only [Keeps.mk_upd_iff]
    | dsimp +zetaDelta only)

theorem keeps_execInputFrame {s0 : State} (h : FrameHdr) (sub : Nat) (meas : List Word) (s : State) (hk : Keeps s0 s) :
    OutKeeps s0 (execInputFrame h sub meas s) := by
  unfold execInputFrame
  repeat' (first
    | with_reducible assumption
    | with_reducible apply outKeeps_whenUp
    | with_reducible apply OutKeeps.next
    | with_reducible apply keeps_coreSlot
    | with_reducible apply keeps_takeInput
    | with_reducible intro _
    | extract_lets
    | split
    | simp -zeta only [Keeps.mk_upd_iff]
    | dsimp +zetaDelta only
    | (with_reducible apply Keeps.mk_sound) <;> first
        | exact id
        | exact Table.wf_set
        | exact fun _ => Table.wf_nil
        | exact fun x => ⟨Table.wf_set x.1, x.2⟩
        | exact fun x => ⟨x.1, Table.wf_set x.2⟩
        | exact fun x => ⟨x.2, x.2⟩
        | exact fun x => PointsOk.like x rfl rfl rfl
        | exact fun x => PointsOk.retain x rfl rfl rfl
        | exact fun x => PointsOk.restore x rfl rfl rfl
        | exact fun x => PointsOk.frozen x rfl rfl rfl
        | exact fun x => PointsOk.put x (quality_masked _)
        | exact fun x => PointsOk.putRetained x (quality_masked _)
        | skip
    | fail)

theorem keeps_missedDeadline {s0 : State} (s : State) (hk : Keeps s0 s) :
    Keeps s0 (missedDeadline s) := by
  unfold missedDeadline
  repeat' (first
    | with_reducible assumption
    | with_reducible apply keeps_missBurst
    | with_reducible apply keeps_countBursts
    | with_reducible intro _
    | extract_lets
    | split
    | simp -zeta only [Keeps.mk_upd_iff]
    | dsimp +zetaDelta only)

theorem keeps_execBurstDeadline {s0 : State} (s : State) (hk : Keeps s0 s) :
    OutKeeps s0 (execBurstDeadline s) := by
  unfold execBurstDeadline
  repeat' (first
    | with_reducible assumption
    | with_reducible apply outKeeps_whenUpAnd
    | with_reducible apply OutKeeps.next
    | with_reducible apply keeps_missedDeadline
    | with_reducible intro _
    | extract_lets
    | split
    | simp -zeta only [Keeps.mk_upd_iff]
    | dsimp +zetaDelta only)

theorem keeps_execSafstat {s0 : State} (h : FrameHdr) (sub : Nat) (s : State) (hk : Keeps s0 s) :
    OutKeeps s0 (execSafstat h sub s) := by
  unfold execSafstat
  repeat' (first
    | with_reducible assumption
    | with_reducible apply OutKeeps.next
    | with_reducible apply keeps_foldS
    | with_reducible apply keeps_toCore
    | with_reducible apply keeps_localEnter
    | with_reducible intro _
    | extract_lets
    | split
    | dsimp only
    | simp -zeta only [Keeps.mk_upd_iff]
    | dsimp +zetaDelta only)

theorem keeps_mslStatPoints {s0 : State} (s : State) (hk : Keeps s0 s) :
    Keeps s0 (mslStatPoints s) := by
  unfold mslStatPoints
  repeat' (first
    | with_reducible assumption
    | with_reducible apply keeps_foldS
    | with_reducible apply keeps_enterPt
    | with_reducible intro _
    | extract_lets
    | split
    | simp -zeta only [Keeps.mk_upd_iff]
    | dsimp +zetaDelta only)

theorem keeps_execBadCopy {s0 : State} (toField badA badB : Bool) (x : SlotSeen) (s : State) (hk : Keeps s0 s) :
    OutKeeps s0 (execBadCopy toField badA badB x s) := by
  unfold execBadCopy
  repeat' (first
    | with_reducible assumption
    | with_reducible apply outKeeps_whenUp
    | with_reducible apply OutKeeps.next
    | with_reducible apply keeps_toField
    | with_reducible apply keeps_slotField
    | with_reducible apply keeps_slotCore
    | with_reducible intro _
    | extract_lets
    | split
    | dsimp only
    | simp -zeta only [Keeps.mk_upd_iff]
    | dsimp +zetaDelta only)

theorem keeps_execLinkBad {s0 : State} (l : LinkId) (atField : Bool) (s : State) (hk : Keeps s0 s) :
    OutKeeps s0 (execLinkBad l atField s) := by
  unfold execLinkBad
  repeat' (first
    | with_reducible assumption
    | with_reducible apply outKeeps_whenUpAnd
    | with_reducible apply OutKeeps.next
    | with_reducible apply keeps_linkLost
    | with_reducible intro _
    | extract_lets
    | split
    | simp -zeta only [Keeps.mk_upd_iff]
    | dsimp +zetaDelta only
    | (with_reducible apply Keeps.mk_sound) <;> first
        | exact id
        | exact Table.wf_set
        | exact fun _ => Table.wf_nil
        | exact fun x => ⟨Table.wf_set x.1, x.2⟩
        | exact fun x => ⟨x.1, Table.wf_set x.2⟩
        | exact fun x => ⟨x.2, x.2⟩
        | exact fun x => PointsOk.like x rfl rfl rfl
        | exact fun x => PointsOk.retain x rfl rfl rfl
        | exact fun x => PointsOk.restore x rfl rfl rfl
        | exact fun x => PointsOk.frozen x rfl rfl rfl
        | exact fun x => PointsOk.put x (quality_masked _)
        | exact fun x => PointsOk.putRetained x (quality_masked _)
        | skip
    | fail)

theorem keeps_execLinkRetrain {s0 : State} (l : LinkId) (s : State) (hk : Keeps s0 s) :
    OutKeeps s0 (execLinkRetrain l s) := by
  unfold execLinkRetrain
  repeat' (first
    | with_reducible assumption
    | with_reducible apply outKeeps_whenUpAnd
    | with_reducible apply OutKeeps.next
    | with_reducible apply keeps_setRetrain
    | with_reducible intro _
    | extract_lets
    | split
    | simp -zeta only [Keeps.mk_upd_iff]
    | dsimp +zetaDelta only)

theorem keeps_execLinkGood {s0 : State} (l : LinkId) (s : State) (hk : Keeps s0 s) :
    OutKeeps s0 (execLinkGood l s) := by
  unfold execLinkGood
  repeat' (first
    | with_reducible assumption
    | with_reducible apply outKeeps_whenUpAnd
    | with_reducible apply OutKeeps.next
    | with_reducible apply keeps_linkEvent
    | with_reducible apply keeps_setRetrain
    | with_reducible intro _
    | extract_lets
    | split
    | simp -zeta only [Keeps.mk_upd_iff]
    | dsimp +zetaDelta only
    | (with_reducible apply Keeps.mk_sound) <;> first
        | exact id
        | exact Table.wf_set
        | exact fun _ => Table.wf_nil
        | exact fun x => ⟨Table.wf_set x.1, x.2⟩
        | exact fun x => ⟨x.1, Table.wf_set x.2⟩
        | exact fun x => ⟨x.2, x.2⟩
        | exact fun x => PointsOk.like x rfl rfl rfl
        | exact fun x => PointsOk.retain x rfl rfl rfl
        | exact fun x => PointsOk.restore x rfl rfl rfl
        | exact fun x => PointsOk.frozen x rfl rfl rfl
        | exact fun x => PointsOk.put x (quality_masked _)
        | exact fun x => PointsOk.putRetained x (quality_masked _)
        | skip
    | fail)

theorem keeps_execBarrierLoss {s0 : State} (atField : Bool) (s : State) (hk : Keeps s0 s) :
    OutKeeps s0 (execBarrierLoss atField s) := by
  unfold execBarrierLoss
  repeat' (first
    | with_reducible assumption
    | with_reducible apply outKeeps_whenUpAnd
    | with_reducible apply OutKeeps.next
    | with_reducible apply keeps_holdOutputs
    | with_reducible apply keeps_logEv
    | with_reducible intro _
    | extract_lets
    | split
    | simp -zeta only [Keeps.mk_upd_iff]
    | dsimp +zetaDelta only
    | (with_reducible apply Keeps.mk_sound) <;> first
        | exact id
        | exact Table.wf_set
        | exact fun _ => Table.wf_nil
        | exact fun x => ⟨Table.wf_set x.1, x.2⟩
        | exact fun x => ⟨x.1, Table.wf_set x.2⟩
        | exact fun x => ⟨x.2, x.2⟩
        | exact fun x => PointsOk.like x rfl rfl rfl
        | exact fun x => PointsOk.retain x rfl rfl rfl
        | exact fun x => PointsOk.restore x rfl rfl rfl
        | exact fun x => PointsOk.frozen x rfl rfl rfl
        | exact fun x => PointsOk.put x (quality_masked _)
        | exact fun x => PointsOk.putRetained x (quality_masked _)
        | skip
    | fail)

end Sys2Proof.Machine
end

