-- ==== Sys2Proof/Laws/KeepsHost.lean ====
section
/-! SUPPORT. What sessions, keys, requests and transactions keep of a state: the queue, the clock, the variant, the count
of free values, and a sound point image and sound tables. One lemma for each operation and for each meaning. -/

namespace Sys2Proof.Machine
open Sys2Proof

/-! ### Machine/Sessions.lean -/

theorem keeps_closeConn {s0 : State} (cn : Nat) (s : State) (hk : Keeps s0 s) :
    Keeps s0 (closeConn cn s) := by
  unfold closeConn
  split
  · exact hk
  · extract_lets a mine s1
    have h1 : Keeps s0 s1 := by
      dsimp only [s1]
      split
      · exact keeps_putAdmit _ _ _ hk
      · exact hk
    refine keeps_emit _ _ (keeps_putConn _ _ _ ?_)
    exact ⟨h1.pending, h1.now, h1.variant, h1.draws, h1.image,
      fun x => { h1.tables x with }⟩

theorem keeps_closeWhere {s0 : State} (p : Conn → Bool) (s : State) (hk : Keeps s0 s) :
    Keeps s0 (closeWhere p s) := by
  unfold closeWhere
  repeat' (first
    | with_reducible assumption
    | with_reducible apply keeps_foldS
    | with_reducible apply keeps_closeConn
    | with_reducible intro _
    | extract_lets
    | split
    | dsimp only
    | simp -zeta only [Keeps.mk_upd_iff]
    | dsimp +zetaDelta only)

theorem keeps_closeSessions {s0 : State} (s : State) (hk : Keeps s0 s) :
    Keeps s0 (closeSessions s) := by
  unfold closeSessions
  repeat' (first
    | with_reducible assumption
    | with_reducible apply keeps_closeWhere
    | with_reducible intro _
    | extract_lets
    | split
    | simp -zeta only [Keeps.mk_upd_iff]
    | dsimp +zetaDelta only)

theorem keeps_fullBucket {s0 : State} (st : Nat) (s : State) (hk : Keeps s0 s) :
    Keeps s0 (fullBucket st s) := by
  unfold fullBucket
  repeat' (first
    | with_reducible assumption
    | with_reducible apply keeps_putAdmit
    | with_reducible intro _
    | extract_lets
    | split
    | simp -zeta only [Keeps.mk_upd_iff]
    | dsimp +zetaDelta only)

theorem keeps_shedRecord {s0 : State} (st : Nat) (s : State) (hk : Keeps s0 s) :
    Keeps s0 (shedRecord st s) := by
  unfold shedRecord
  repeat' (first
    | with_reducible assumption
    | with_reducible apply keeps_logEv
    | with_reducible apply keeps_putAdmit
    | with_reducible intro _
    | extract_lets
    | split
    | simp -zeta only [Keeps.mk_upd_iff]
    | dsimp +zetaDelta only)

theorem keeps_countRefusal {s0 : State} (st : Nat) (shed : Bool) (s : State) (hk : Keeps s0 s) :
    Keeps s0 (countRefusal st shed s) := by
  unfold countRefusal
  repeat' (first
    | with_reducible assumption
    | with_reducible apply keeps_putStg
    | with_reducible apply keeps_shed
    | with_reducible apply keeps_shedRecord
    | with_reducible apply keeps_putAdmit
    | with_reducible intro _
    | extract_lets
    | split
    | simp -zeta only [Keeps.mk_upd_iff]
    | dsimp +zetaDelta only)

theorem keeps_execShedWindowEnd {s0 : State} (stage : Nat) (s : State) (hk : Keeps s0 s) :
    OutKeeps s0 (execShedWindowEnd stage s) := by
  unfold execShedWindowEnd
  repeat' (first
    | with_reducible assumption
    | with_reducible apply outKeeps_whenUpAnd
    | with_reducible apply OutKeeps.next
    | with_reducible apply keeps_shedRecord
    | with_reducible intro _
    | extract_lets
    | split
    | simp -zeta only [Keeps.mk_upd_iff]
    | dsimp +zetaDelta only)

theorem keeps_answerBusy {s0 : State} (cn rq st op retry : Nat) (s : State) (hk : Keeps s0 s) :
    Keeps s0 (answerBusy cn rq st op retry s) := by
  unfold answerBusy
  repeat' (first
    | with_reducible assumption
    | with_reducible apply keeps_answer
    | with_reducible apply keeps_countRefusal
    | with_reducible intro _
    | extract_lets
    | split
    | simp -zeta only [Keeps.mk_upd_iff]
    | dsimp +zetaDelta only)

theorem keeps_freeRetry {s0 : State} (s : State) (hk : Keeps s0 s) :
    Keeps s0 (freeRetry s).2 := by
  unfold freeRetry
  repeat' (first
    | with_reducible assumption
    | with_reducible apply keeps_drawIn
    | with_reducible intro _
    | extract_lets
    | split
    | dsimp only
    | simp -zeta only [Keeps.mk_upd_iff]
    | dsimp +zetaDelta only)

theorem keeps_touch {s0 : State} (cn : Nat) (s : State) (hk : Keeps s0 s) :
    Keeps s0 (touch cn s) := by
  unfold touch
  repeat' (first
    | with_reducible assumption
    | with_reducible apply keeps_putConn
    | with_reducible apply keeps_record
    | with_reducible intro _
    | extract_lets
    | split
    | simp -zeta only [Keeps.mk_upd_iff]
    | dsimp +zetaDelta only)

theorem keeps_request {s0 : State} (cn : Nat) (s : State) (f : Conn → State → State) (hk : Keeps s0 s)
    (hk_f : ∀ x t, Keeps s0 t → Keeps s0 (f x t)) :
    OutKeeps s0 (request cn s f) := by
  unfold request
  repeat' (first
    | with_reducible assumption
    | with_reducible apply outKeeps_whenUp
    | with_reducible apply OutKeeps.next
    | with_reducible apply hk_f
    | with_reducible apply keeps_closeConn
    | with_reducible apply keeps_touch
    | with_reducible intro _
    | extract_lets
    | split
    | simp -zeta only [Keeps.mk_upd_iff]
    | dsimp +zetaDelta only)

theorem keeps_requestFree {s0 : State} (cn rq op : Nat) (s : State) (run : State → State) (hk : Keeps s0 s)
    (hk_run : ∀ t, Keeps s0 t → Keeps s0 (run t)) :
    OutKeeps s0 (requestFree cn rq op s run) := by
  unfold requestFree
  repeat' (first
    | with_reducible assumption
    | with_reducible apply OutKeeps.next
    | with_reducible apply hk_run
    | with_reducible apply keeps_request
    | with_reducible apply keeps_freeRetry
    | with_reducible apply keeps_answerBusy
    | with_reducible intro _
    | extract_lets
    | split
    | dsimp only
    | simp -zeta only [Keeps.mk_upd_iff]
    | dsimp +zetaDelta only)

theorem keeps_requestNow {s0 : State} (cn rq op cost : Nat) (s : State) (run : Conn → State → State) (hk : Keeps s0 s)
    (hk_run : ∀ x t, Keeps s0 t → Keeps s0 (run x t)) :
    OutKeeps s0 (requestNow cn rq op cost s run) := by
  unfold requestNow
  repeat' (first
    | with_reducible assumption
    | with_reducible apply OutKeeps.next
    | with_reducible apply hk_run
    | with_reducible apply keeps_request
    | with_reducible apply keeps_freeRetry
    | with_reducible apply keeps_answerBusy
    | with_reducible apply keeps_putAdmit
    | with_reducible apply keeps_beginOp
    | with_reducible intro _
    | extract_lets
    | split
    | dsimp only
    | simp -zeta only [Keeps.mk_upd_iff]
    | dsimp +zetaDelta only)

theorem keeps_done {s0 : State} (cn rq op status : Nat) (pay : List Word) (c : Conn) (s : State) (hk : Keeps s0 s) :
    Keeps s0 (done cn rq op status pay c s) := by
  unfold done
  repeat' (first
    | with_reducible assumption
    | with_reducible apply keeps_endOp
    | with_reducible intro _
    | extract_lets
    | split
    | simp -zeta only [Keeps.mk_upd_iff]
    | dsimp +zetaDelta only)

/-! ### Machine/Keys.lean -/

theorem keeps_putKey {s0 : State} (i : Nat) (k : KeySlot) (s : State) (hk : Keeps s0 s) :
    Keeps s0 (putKey i k s) := by
  unfold putKey
  repeat' (first
    | with_reducible assumption
    | with_reducible intro _
    | extract_lets
    | split
    | simp -zeta only [Keeps.mk_upd_iff]
    | dsimp +zetaDelta only)

theorem keeps_recopy {s0 : State} (p : LibImage → Bool) (s : State) (hk : Keeps s0 s) :
    Keeps s0 (recopy p s) := by
  unfold recopy
  repeat' (first
    | with_reducible assumption
    | with_reducible intro _
    | extract_lets
    | split
    | simp -zeta only [Keeps.mk_upd_iff]
    | dsimp +zetaDelta only
    | (with_reducible apply Keeps.mk_sound) <;> first
        | exact id
        | exact Table.wf_set
        | exact fun _ => Table.wf_nil
        | exact fun x => ⟨Table.wf_set x.1, x.2⟩
        | exact fun x => ⟨x.1, Table.wf_set x.2⟩
        | exact fun x => ⟨x.2, x.2⟩
        | exact fun x => PointsOk.like x rfl rfl rfl
        | exact fun x => PointsOk.retain x rfl rfl rfl
        | exact fun x => PointsOk.restore x rfl rfl rfl
        | exact fun x => PointsOk.frozen x rfl rfl rfl
        | exact fun x => PointsOk.put x (quality_masked _)
        | exact fun x => PointsOk.putRetained x (quality_masked _)
        | skip
    | fail)

theorem keeps_draw256 {s0 : State} (s : State) (hk : Keeps s0 s) :
    Keeps s0 (draw256 s).2 := by
  unfold draw256
  repeat' (first
    | with_reducible assumption
    | with_reducible apply keeps_draw
    | with_reducible intro _
    | extract_lets
    | split
    | dsimp only
    | simp -zeta only [Keeps.mk_upd_iff]
    | dsimp +zetaDelta only)

theorem keeps_newKey {s0 : State} (i kind owner st : Nat) (gen : Word) (s : State) (hk : Keeps s0 s) :
    Keeps s0 (newKey i kind owner st gen s) := by
  unfold newKey
  repeat' (first
    | with_reducible assumption
    | with_reducible apply keeps_draw256
    | with_reducible apply keeps_putKey
    | with_reducible intro _
    | extract_lets
    | split
    | dsimp only
    | simp -zeta only [Keeps.mk_upd_iff]
    | dsimp +zetaDelta only)

theorem keeps_certify {s0 : State} (selfSigned : Bool) (s : State) (hk : Keeps s0 s) :
    Keeps s0 (certify selfSigned s) := by
  unfold certify
  repeat' (first
    | with_reducible assumption
    | with_reducible intro _
    | extract_lets
    | split
    | simp -zeta only [Keeps.mk_upd_iff]
    | dsimp +zetaDelta only)

theorem keeps_makeStorageKey {s0 : State} (st : Nat) (s : State) (hk : Keeps s0 s) :
    Keeps s0 (makeStorageKey st s) := by
  unfold makeStorageKey
  repeat' (first
    | with_reducible assumption
    | with_reducible apply keeps_newKey
    | with_reducible apply keeps_putKey
    | with_reducible intro _
    | extract_lets
    | split
    | simp -zeta only [Keeps.mk_upd_iff]
    | dsimp +zetaDelta only)

theorem keeps_enrol {s0 : State} (s : State) (hk : Keeps s0 s) :
    Keeps s0 (enrol s) := by
  unfold enrol
  repeat' (first
    | with_reducible assumption
    | with_reducible apply keeps_foldS
    | with_reducible apply keeps_draw256
    | with_reducible apply keeps_newKey
    | with_reducible apply keeps_certify
    | with_reducible intro _
    | extract_lets
    | split
    | dsimp only
    | simp -zeta only [Keeps.mk_upd_iff]
    | dsimp +zetaDelta only)

theorem keeps_reencrypted {s0 : State} (stage loc : Nat) (s : State) (hk : Keeps s0 s) :
    Keeps s0 (reencrypted stage loc s) := by
  unfold reencrypted
  repeat' (first
    | with_reducible assumption
    | with_reducible apply keeps_recopy
    | with_reducible intro _
    | extract_lets
    | split
    | simp -zeta only [Keeps.mk_upd_iff]
    | dsimp +zetaDelta only)

theorem keeps_execCryptoJobDone {s0 : State} (s : State) (hk : Keeps s0 s) :
    OutKeeps s0 (execCryptoJobDone s) := by
  unfold execCryptoJobDone
  repeat' (first
    | with_reducible assumption
    | with_reducible apply outKeeps_whenUpAnd
    | with_reducible apply OutKeeps.next
    | with_reducible apply keeps_startJob
    | with_reducible apply keeps_reencrypted
    | with_reducible intro _
    | extract_lets
    | split
    | dsimp only
    | simp -zeta only [Keeps.mk_upd_iff]
    | dsimp +zetaDelta only)

theorem keeps_startRepl {s0 : State} (s : State) (hk : Keeps s0 s) :
    Keeps s0 (startRepl s) := by
  unfold startRepl
  repeat' (first
    | with_reducible assumption
    | with_reducible apply keeps_newKey
    | with_reducible apply keeps_addJobs
    | exact id ‹_›
    | with_reducible intro _
    | extract_lets
    | split
    | simp -zeta only [Keeps.mk_upd_iff]
    | dsimp +zetaDelta only)

theorem keeps_swapKey {s0 : State} (r : KeyRepl) (s : State) (hk : Keeps s0 s) :
    Keeps s0 (swapKey r s) := by
  unfold swapKey
  repeat' (first
    | with_reducible assumption
    | with_reducible apply keeps_putKey
    | with_reducible apply keeps_certify
    | with_reducible apply keeps_recopy
    | with_reducible intro _
    | extract_lets
    | split
    | simp -zeta only [Keeps.mk_upd_iff]
    | dsimp +zetaDelta only)

theorem keeps_failKey {s0 : State} (r : KeyRepl) (s : State) (hk : Keeps s0 s) :
    Keeps s0 (failKey r s) := by
  unfold failKey
  repeat' (first
    | with_reducible assumption
    | with_reducible apply keeps_putKey
    | with_reducible intro _
    | extract_lets
    | split
    | simp -zeta only [Keeps.mk_upd_iff]
    | dsimp +zetaDelta only)

theorem keeps_dropRepl {s0 : State} (r : KeyRepl) (s : State) (hk : Keeps s0 s) :
    Keeps s0 (dropRepl r s) := by
  unfold dropRepl
  repeat' (first
    | with_reducible assumption
    | with_reducible intro _
    | extract_lets
    | split
    | simp -zeta only [Keeps.mk_upd_iff]
    | dsimp +zetaDelta only)

theorem keeps_keyEvent {s0 : State} (owner kind : Nat) (ok : Bool) (s : State) (hk : Keeps s0 s) :
    Keeps s0 (keyEvent owner kind ok s) := by
  unfold keyEvent
  repeat' (first
    | with_reducible assumption
    | with_reducible apply keeps_logEv
    | with_reducible intro _
    | extract_lets
    | split
    | simp -zeta only [Keeps.mk_upd_iff]
    | dsimp +zetaDelta only)

theorem keeps_execKeyRotationDue {s0 : State} (slot : Nat) (s : State) (hk : Keeps s0 s) :
    OutKeeps s0 (execKeyRotationDue slot s) := by
  unfold execKeyRotationDue
  repeat' (first
    | with_reducible assumption
    | with_reducible apply outKeeps_whenUpAnd
    | with_reducible apply OutKeeps.next
    | with_reducible apply keeps_startRepl
    | with_reducible intro _
    | extract_lets
    | split
    | simp -zeta only [Keeps.mk_upd_iff]
    | dsimp +zetaDelta only)

theorem keeps_applyKeypol {s0 : State} (w0 w1 : Word) (s : State) (hk : Keeps s0 s) :
    Keeps s0 (applyKeypol w0 w1 s) := by
  unfold applyKeypol
  repeat' (first
    | with_reducible assumption
    | with_reducible apply keeps_startRepl
    | with_reducible intro _
    | extract_lets
    | split
    | simp -zeta only [Keeps.mk_upd_iff]
    | dsimp +zetaDelta only)

theorem keeps_lockSessions {s0 : State} (s : State) (hk : Keeps s0 s) :
    Keeps s0 (lockSessions s) := by
  unfold lockSessions
  repeat' (first
    | with_reducible assumption
    | with_reducible apply keeps_closeSessions
    | with_reducible intro _
    | extract_lets
    | split
    | simp -zeta only [Keeps.mk_upd_iff]
    | dsimp +zetaDelta only)

theorem keeps_clearRecord {s0 : State} (st : Nat) (upto : Word) (removed principal sess : Nat) (s : State) (hk : Keeps s0 s) :
    Keeps s0 (clearRecord st upto removed principal sess s) := by
  unfold clearRecord
  repeat' (first
    | with_reducible assumption
    | with_reducible apply keeps_storeRec
    | with_reducible intro _
    | extract_lets
    | split
    | simp -zeta only [Keeps.mk_upd_iff]
    | dsimp +zetaDelta only)

theorem keeps_eraseStore {s0 : State} (s : State) (hk : Keeps s0 s) :
    Keeps s0 (eraseStore s) := by
  unfold eraseStore
  repeat' (first
    | with_reducible assumption
    | with_reducible intro _
    | extract_lets
    | split
    | simp -zeta only [Keeps.mk_upd_iff]
    | dsimp +zetaDelta only)

theorem keeps_eraseKeys {s0 : State} (s : State) (hk : Keeps s0 s) :
    Keeps s0 (eraseKeys s) := by
  unfold eraseKeys
  repeat' (first
    | with_reducible assumption
    | with_reducible apply keeps_foldS
    | with_reducible apply keeps_closeSessions
    | with_reducible apply keeps_eraseStore
    | with_reducible apply keeps_clearRecord
    | with_reducible apply keeps_storeRec
    | with_reducible intro _
    | extract_lets
    | split
    | dsimp only
    | simp -zeta only [Keeps.mk_upd_iff]
    | dsimp +zetaDelta only
    | (with_reducible apply Keeps.mk_sound) <;> first
        | exact id
        | exact Table.wf_set
        | exact fun _ => Table.wf_nil
        | exact fun x => ⟨Table.wf_set x.1, x.2⟩
        | exact fun x => ⟨x.1, Table.wf_set x.2⟩
        | exact fun x => ⟨x.2, x.2⟩
        | exact fun x => PointsOk.like x rfl rfl rfl
        | exact fun x => PointsOk.retain x rfl rfl rfl
        | exact fun x => PointsOk.restore x rfl rfl rfl
        | exact fun x => PointsOk.frozen x rfl rfl rfl
        | exact fun x => PointsOk.put x (quality_masked _)
        | exact fun x => PointsOk.putRetained x (quality_masked _)
        | skip
    | fail)

theorem keeps_fireSource {s0 : State} (i : Nat) (s : State) (hk : Keeps s0 s) :
    Keeps s0 (fireSource i s) := by
  unfold fireSource
  repeat' (first
    | with_reducible assumption
    | with_reducible apply keeps_lockSessions
    | with_reducible apply keeps_eraseKeys
    | with_reducible apply keeps_logEv
    | with_reducible intro _
    | extract_lets
    | split
    | simp -zeta only [Keeps.mk_upd_iff]
    | dsimp +zetaDelta only)

theorem keeps_execTamper {s0 : State} (s : State) (hk : Keeps s0 s) :
    OutKeeps s0 (execTamper s) := by
  unfold execTamper
  repeat' (first
    | with_reducible assumption
    | with_reducible apply outKeeps_whenUpAnd
    | with_reducible apply OutKeeps.next
    | with_reducible apply keeps_fireSource
    | with_reducible intro _
    | extract_lets
    | split
    | simp -zeta only [Keeps.mk_upd_iff]
    | dsimp +zetaDelta only)

theorem keeps_execTamperLoopTest {s0 : State} (isOpen : Bool) (s : State) (hk : Keeps s0 s) :
    OutKeeps s0 (execTamperLoopTest isOpen s) := by
  unfold execTamperLoopTest
  repeat' (first
    | with_reducible assumption
    | with_reducible apply OutKeeps.next
    | with_reducible intro _
    | extract_lets
    | split
    | simp -zeta only [Keeps.mk_upd_iff]
    | dsimp +zetaDelta only)

theorem keeps_execVglitch {s0 : State} (s : State) (hk : Keeps s0 s) :
    OutKeeps s0 (execVglitch s) := by
  unfold execVglitch
  repeat' (first
    | with_reducible assumption
    | with_reducible apply outKeeps_whenUp
    | with_reducible apply OutKeeps.next
    | with_reducible apply keeps_fireSource
    | with_reducible intro _
    | extract_lets
    | split
    | simp -zeta only [Keeps.mk_upd_iff]
    | dsimp +zetaDelta only)

theorem keeps_execCglitch {s0 : State} (s : State) (hk : Keeps s0 s) :
    OutKeeps s0 (execCglitch s) := by
  unfold execCglitch
  repeat' (first
    | with_reducible assumption
    | with_reducible apply outKeeps_whenUp
    | with_reducible apply OutKeeps.next
    | with_reducible apply keeps_fireSource
    | with_reducible intro _
    | extract_lets
    | split
    | simp -zeta only [Keeps.mk_upd_iff]
    | dsimp +zetaDelta only)

theorem keeps_execTglitch {s0 : State} (s : State) (hk : Keeps s0 s) :
    OutKeeps s0 (execTglitch s) := by
  unfold execTglitch
  repeat' (first
    | with_reducible assumption
    | with_reducible apply outKeeps_whenUp
    | with_reducible apply OutKeeps.next
    | with_reducible apply keeps_fireSource
    | with_reducible intro _
    | extract_lets
    | split
    | simp -zeta only [Keeps.mk_upd_iff]
    | dsimp +zetaDelta only)

theorem keeps_loginFailed {s0 : State} (s : State) (hk : Keeps s0 s) :
    Keeps s0 (loginFailed s) := by
  unfold loginFailed
  repeat' (first
    | with_reducible assumption
    | with_reducible apply keeps_fireSource
    | with_reducible intro _
    | extract_lets
    | split
    | simp -zeta only [Keeps.mk_upd_iff]
    | dsimp +zetaDelta only
    | (with_reducible apply Keeps.mk_sound) <;> first
        | exact id
        | exact Table.wf_set
        | exact fun _ => Table.wf_nil
        | exact fun x => ⟨Table.wf_set x.1, x.2⟩
        | exact fun x => ⟨x.1, Table.wf_set x.2⟩
        | exact fun x => ⟨x.2, x.2⟩
        | exact fun x => PointsOk.like x rfl rfl rfl
        | exact fun x => PointsOk.retain x rfl rfl rfl
        | exact fun x => PointsOk.restore x rfl rfl rfl
        | exact fun x => PointsOk.frozen x rfl rfl rfl
        | exact fun x => PointsOk.put x (quality_masked _)
        | exact fun x => PointsOk.putRetained x (quality_masked _)
        | skip
    | fail)

theorem keeps_applySecpol {s0 : State} (w0 w1 : Word) (s : State) (hk : Keeps s0 s) :
    Keeps s0 (applySecpol w0 w1 s) := by
  unfold applySecpol
  repeat' (first
    | with_reducible assumption
    | with_reducible intro _
    | extract_lets
    | split
    | simp -zeta only [Keeps.mk_upd_iff]
    | dsimp +zetaDelta only)

/-! ### Machine/Connect.lean -/

theorem keeps_execDiscovery {s0 : State} (port : Port) (magic : Word) (s : State) (hk : Keeps s0 s) :
    OutKeeps s0 (execDiscovery port magic s) := by
  unfold execDiscovery
  repeat' (first
    | with_reducible assumption
    | with_reducible apply outKeeps_whenUpAnd
    | with_reducible apply OutKeeps.next
    | with_reducible apply keeps_emit
    | with_reducible intro _
    | extract_lets
    | split
    | dsimp only
    | simp -zeta only [Keeps.mk_upd_iff]
    | dsimp +zetaDelta only
    | (with_reducible apply Keeps.mk_sound) <;> first
        | exact id
        | exact Table.wf_set
        | exact fun _ => Table.wf_nil
        | exact fun x => ⟨Table.wf_set x.1, x.2⟩
        | exact fun x => ⟨x.1, Table.wf_set x.2⟩
        | exact fun x => ⟨x.2, x.2⟩
        | exact fun x => PointsOk.like x rfl rfl rfl
        | exact fun x => PointsOk.retain x rfl rfl rfl
        | exact fun x => PointsOk.restore x rfl rfl rfl
        | exact fun x => PointsOk.frozen x rfl rfl rfl
        | exact fun x => PointsOk.put x (quality_masked _)
        | exact fun x => PointsOk.putRetained x (quality_masked _)
        | skip
    | fail)

theorem keeps_execDhcpRetry {s0 : State} (s : State) (hk : Keeps s0 s) :
    OutKeeps s0 (execDhcpRetry s) := by
  unfold execDhcpRetry
  repeat' (first
    | with_reducible assumption
    | with_reducible apply outKeeps_whenUpAnd
    | with_reducible apply OutKeeps.next
    | with_reducible intro _
    | extract_lets
    | split
    | simp -zeta only [Keeps.mk_upd_iff]
    | dsimp +zetaDelta only)

theorem keeps_setAddr {s0 : State} (a : Option Word) (s : State) (hk : Keeps s0 s) :
    Keeps s0 (setAddr a s) := by
  unfold setAddr
  repeat' (first
    | with_reducible assumption
    | with_reducible apply keeps_closeWhere
    | with_reducible intro _
    | extract_lets
    | split
    | simp -zeta only [Keeps.mk_upd_iff]
    | dsimp +zetaDelta only)

theorem keeps_execDhcpLease {s0 : State} (addr : Word) (s : State) (hk : Keeps s0 s) :
    OutKeeps s0 (execDhcpLease addr s) := by
  unfold execDhcpLease
  repeat' (first
    | with_reducible assumption
    | with_reducible apply outKeeps_whenUpAnd
    | with_reducible apply OutKeeps.next
    | with_reducible apply keeps_setAddr
    | with_reducible intro _
    | extract_lets
    | split
    | simp -zeta only [Keeps.mk_upd_iff]
    | dsimp +zetaDelta only)

theorem keeps_execTcpConnect {s0 : State} (cn : Nat) (port : Port) (s : State) (hk : Keeps s0 s) :
    OutKeeps s0 (execTcpConnect cn port s) := by
  unfold execTcpConnect
  repeat' (first
    | with_reducible assumption
    | with_reducible apply outKeeps_whenUpAnd
    | with_reducible apply OutKeeps.next
    | with_reducible apply keeps_drawIn
    | with_reducible apply keeps_emit
    | with_reducible apply keeps_putConn
    | with_reducible intro _
    | extract_lets
    | split
    | dsimp only
    | simp -zeta only [Keeps.mk_upd_iff]
    | dsimp +zetaDelta only)

theorem keeps_execTlsHandshakeDone {s0 : State} (cn : Nat) (key : BitVec 256) (s : State) (hk : Keeps s0 s) :
    OutKeeps s0 (execTlsHandshakeDone cn key s) := by
  unfold execTlsHandshakeDone
  repeat' (first
    | with_reducible assumption
    | with_reducible apply outKeeps_whenUp
    | with_reducible apply OutKeeps.next
    | with_reducible apply keeps_addJobs
    | with_reducible apply keeps_putConn
    | with_reducible apply keeps_closeConn
    | with_reducible intro _
    | extract_lets
    | split
    | simp -zeta only [Keeps.mk_upd_iff]
    | dsimp +zetaDelta only)

theorem keeps_execLoginTimeout {s0 : State} (cn : Nat) (s : State) (hk : Keeps s0 s) :
    OutKeeps s0 (execLoginTimeout cn s) := by
  unfold execLoginTimeout
  repeat' (first
    | with_reducible assumption
    | with_reducible apply outKeeps_whenUpAnd
    | with_reducible apply OutKeeps.next
    | with_reducible apply keeps_closeConn
    | with_reducible intro _
    | extract_lets
    | split
    | simp -zeta only [Keeps.mk_upd_iff]
    | dsimp +zetaDelta only)

theorem keeps_execSessionIdleTimeout {s0 : State} (cn : Nat) (s : State) (hk : Keeps s0 s) :
    OutKeeps s0 (execSessionIdleTimeout cn s) := by
  unfold execSessionIdleTimeout
  repeat' (first
    | with_reducible assumption
    | with_reducible apply outKeeps_whenUpAnd
    | with_reducible apply OutKeeps.next
    | with_reducible apply keeps_closeConn
    | with_reducible intro _
    | extract_lets
    | split
    | simp -zeta only [Keeps.mk_upd_iff]
    | dsimp +zetaDelta only)

theorem keeps_execSessionClose {s0 : State} (cn : Nat) (s : State) (hk : Keeps s0 s) :
    OutKeeps s0 (execSessionClose cn s) := by
  unfold execSessionClose
  repeat' (first
    | with_reducible assumption
    | with_reducible apply outKeeps_whenUp
    | with_reducible apply OutKeeps.next
    | with_reducible apply keeps_closeConn
    | with_reducible intro _
    | extract_lets
    | split
    | simp -zeta only [Keeps.mk_upd_iff]
    | dsimp +zetaDelta only)

theorem keeps_refuseLogin {s0 : State} (cn rq status : Nat) (s : State) (hk : Keeps s0 s) :
    Keeps s0 (refuseLogin cn rq status s) := by
  unfold refuseLogin
  repeat' (first
    | with_reducible assumption
    | with_reducible apply keeps_closeConn
    | with_reducible apply keeps_answer
    | with_reducible intro _
    | extract_lets
    | split
    | simp -zeta only [Keeps.mk_upd_iff]
    | dsimp +zetaDelta only)

theorem keeps_loginAs {s0 : State} (cn rq stage : Nat) (c : Conn) (s : State) (hk : Keeps s0 s) :
    Keeps s0 (loginAs cn rq stage c s) := by
  unfold loginAs
  repeat' (first
    | with_reducible assumption
    | with_reducible apply keeps_refuseLogin
    | with_reducible apply keeps_loginFailed
    | with_reducible apply keeps_answer
    | with_reducible apply keeps_putConn
    | with_reducible intro _
    | extract_lets
    | split
    | simp -zeta only [Keeps.mk_upd_iff]
    | dsimp +zetaDelta only)

theorem keeps_execLogin {s0 : State} (cn rq stage : Nat) (s : State) (hk : Keeps s0 s) :
    OutKeeps s0 (execLogin cn rq stage s) := by
  unfold execLogin
  repeat' (first
    | with_reducible assumption
    | with_reducible apply outKeeps_whenUp
    | with_reducible apply OutKeeps.next
    | with_reducible apply keeps_answer
    | with_reducible apply keeps_touch
    | with_reducible apply keeps_refuseLogin
    | with_reducible apply keeps_loginFailed
    | with_reducible apply keeps_drawIn
    | with_reducible apply keeps_answerBusy
    | with_reducible apply keeps_putAdmit
    | with_reducible apply keeps_loginAs
    | with_reducible intro _
    | extract_lets
    | split
    | dsimp only
    | simp -zeta only [Keeps.mk_upd_iff]
    | dsimp +zetaDelta only)

theorem keeps_execLogout {s0 : State} (cn rq : Nat) (s : State) (hk : Keeps s0 s) :
    OutKeeps s0 (execLogout cn rq s) := by
  unfold execLogout
  repeat' (first
    | with_reducible assumption
    | with_reducible apply OutKeeps.next
    | with_reducible apply keeps_requestFree
    | with_reducible apply keeps_closeConn
    | with_reducible apply keeps_answer
    | with_reducible intro _
    | extract_lets
    | split
    | simp -zeta only [Keeps.mk_upd_iff]
    | dsimp +zetaDelta only)

theorem keeps_execPing {s0 : State} (cn rq : Nat) (s : State) (hk : Keeps s0 s) :
    OutKeeps s0 (execPing cn rq s) := by
  unfold execPing
  repeat' (first
    | with_reducible assumption
    | with_reducible apply OutKeeps.next
    | with_reducible apply keeps_requestFree
    | with_reducible apply keeps_answer
    | with_reducible intro _
    | extract_lets
    | split
    | simp -zeta only [Keeps.mk_upd_iff]
    | dsimp +zetaDelta only)

theorem keeps_execUnparsableMessage {s0 : State} (m : BadMsg) (s : State) (hk : Keeps s0 s) :
    OutKeeps s0 (execUnparsableMessage m s) := by
  unfold execUnparsableMessage
  repeat' (first
    | with_reducible assumption
    | with_reducible apply outKeeps_whenUp
    | with_reducible apply OutKeeps.next
    | with_reducible apply keeps_closeConn
    | with_reducible apply keeps_answer
    | with_reducible apply keeps_putConn
    | with_reducible apply keeps_record
    | with_reducible intro _
    | extract_lets
    | split
    | simp -zeta only [Keeps.mk_upd_iff]
    | dsimp +zetaDelta only)

theorem keeps_openRecords {s0 : State} (s : State) (hk : Keeps s0 s) :
    Keeps s0 (openRecords s) := by
  unfold openRecords
  repeat' (first
    | with_reducible assumption
    | with_reducible apply keeps_logEv
    | with_reducible intro _
    | extract_lets
    | split
    | simp -zeta only [Keeps.mk_upd_iff]
    | dsimp +zetaDelta only
    | (with_reducible apply Keeps.mk_sound) <;> first
        | exact id
        | exact Table.wf_set
        | exact fun _ => Table.wf_nil
        | exact fun x => ⟨Table.wf_set x.1, x.2⟩
        | exact fun x => ⟨x.1, Table.wf_set x.2⟩
        | exact fun x => ⟨x.2, x.2⟩
        | exact fun x => PointsOk.like x rfl rfl rfl
        | exact fun x => PointsOk.retain x rfl rfl rfl
        | exact fun x => PointsOk.restore x rfl rfl rfl
        | exact fun x => PointsOk.frozen x rfl rfl rfl
        | exact fun x => PointsOk.put x (quality_masked _)
        | exact fun x => PointsOk.putRetained x (quality_masked _)
        | skip
    | fail)

theorem keeps_execServiceOpen {s0 : State} (s : State) (hk : Keeps s0 s) :
    OutKeeps s0 (execServiceOpen s) := by
  unfold execServiceOpen
  repeat' (first
    | with_reducible assumption
    | with_reducible apply outKeeps_whenUpAnd
    | with_reducible apply OutKeeps.next
    | with_reducible apply keeps_foldS
    | with_reducible apply keeps_fullBucket
    | with_reducible apply keeps_openRecords
    | with_reducible intro _
    | extract_lets
    | split
    | simp -zeta only [Keeps.mk_upd_iff]
    | dsimp +zetaDelta only
    | (with_reducible apply Keeps.mk_sound) <;> first
        | exact id
        | exact Table.wf_set
        | exact fun _ => Table.wf_nil
        | exact fun x => ⟨Table.wf_set x.1, x.2⟩
        | exact fun x => ⟨x.1, Table.wf_set x.2⟩
        | exact fun x => ⟨x.2, x.2⟩
        | exact fun x => PointsOk.like x rfl rfl rfl
        | exact fun x => PointsOk.retain x rfl rfl rfl
        | exact fun x => PointsOk.restore x rfl rfl rfl
        | exact fun x => PointsOk.frozen x rfl rfl rfl
        | exact fun x => PointsOk.put x (quality_masked _)
        | exact fun x => PointsOk.putRetained x (quality_masked _)
        | skip
    | fail)

theorem keeps_execTenantAdmission {s0 : State} (s : State) (hk : Keeps s0 s) :
    OutKeeps s0 (execTenantAdmission s) := by
  unfold execTenantAdmission
  repeat' (first
    | with_reducible assumption
    | with_reducible apply outKeeps_whenUpAnd
    | with_reducible apply OutKeeps.next
    | with_reducible intro _
    | extract_lets
    | split
    | simp -zeta only [Keeps.mk_upd_iff]
    | dsimp +zetaDelta only
    | (with_reducible apply Keeps.mk_sound) <;> first
        | exact id
        | exact Table.wf_set
        | exact fun _ => Table.wf_nil
        | exact fun x => ⟨Table.wf_set x.1, x.2⟩
        | exact fun x => ⟨x.1, Table.wf_set x.2⟩
        | exact fun x => ⟨x.2, x.2⟩
        | exact fun x => PointsOk.like x rfl rfl rfl
        | exact fun x => PointsOk.retain x rfl rfl rfl
        | exact fun x => PointsOk.restore x rfl rfl rfl
        | exact fun x => PointsOk.frozen x rfl rfl rfl
        | exact fun x => PointsOk.put x (quality_masked _)
        | exact fun x => PointsOk.putRetained x (quality_masked _)
        | skip
    | fail)

/-! ### Machine/Requests.lean -/

theorem keeps_mapSub {s0 : State} (cn num : Nat) (f : Sub → Sub) (s : State) (hk : Keeps s0 s) :
    Keeps s0 (mapSub cn num f s) := by
  unfold mapSub
  repeat' (first
    | with_reducible assumption
    | with_reducible apply keeps_putConn
    | with_reducible intro _
    | extract_lets
    | split
    | simp -zeta only [Keeps.mk_upd_iff]
    | dsimp +zetaDelta only)

theorem keeps_serveSubscribe {s0 : State} (cn rq : Nat) (c : Conn) (pts : List Nat) (minint : Nat) (s : State) (hk : Keeps s0 s) :
    Keeps s0 (serveSubscribe cn rq c pts minint s) := by
  unfold serveSubscribe
  repeat' (first
    | with_reducible assumption
    | with_reducible apply keeps_endOp
    | with_reducible apply keeps_putConn
    | with_reducible intro _
    | extract_lets
    | split
    | simp -zeta only [Keeps.mk_upd_iff]
    | dsimp +zetaDelta only)

theorem keeps_serveUnsubscribe {s0 : State} (cn rq : Nat) (c : Conn) (sub : Nat) (s : State) (hk : Keeps s0 s) :
    Keeps s0 (serveUnsubscribe cn rq c sub s) := by
  unfold serveUnsubscribe
  repeat' (first
    | with_reducible assumption
    | with_reducible apply keeps_endOp
    | with_reducible apply keeps_notify
    | with_reducible apply keeps_putAdmit
    | with_reducible apply keeps_putConn
    | with_reducible intro _
    | extract_lets
    | split
    | simp -zeta only [Keeps.mk_upd_iff]
    | dsimp +zetaDelta only)

theorem keeps_serveNotify {s0 : State} (cn : Nat) (c : Conn) (sub : Nat) (s : State) (hk : Keeps s0 s) :
    Keeps s0 (serveNotify cn c sub s) := by
  unfold serveNotify
  repeat' (first
    | with_reducible assumption
    | with_reducible apply keeps_foldl
    | with_reducible apply keeps_notify
    | with_reducible apply keeps_mapSub
    | with_reducible intro _
    | extract_lets
    | split
    | dsimp only
    | simp -zeta only [Keeps.mk_upd_iff]
    | dsimp +zetaDelta only)

theorem keeps_serveLoopread {s0 : State} (cn rq : Nat) (c : Conn) (loops : List Nat) (s : State) (hk : Keeps s0 s) :
    Keeps s0 (serveLoopread cn rq c loops s) := by
  unfold serveLoopread
  repeat' (first
    | with_reducible assumption
    | with_reducible apply keeps_endOp
    | with_reducible intro _
    | extract_lets
    | split
    | dsimp only
    | simp -zeta only [Keeps.mk_upd_iff]
    | dsimp +zetaDelta only)

theorem keeps_serveEvread {s0 : State} (cn rq : Nat) (c : Conn) (start : Option Word) (back : Bool) (n minsev : Nat) (s : State) (hk : Keeps s0 s) :
    Keeps s0 (serveEvread cn rq c start back n minsev s) := by
  unfold serveEvread
  repeat' (first
    | with_reducible assumption
    | with_reducible apply keeps_endOp
    | with_reducible intro _
    | extract_lets
    | split
    | simp -zeta only [Keeps.mk_upd_iff]
    | dsimp +zetaDelta only)

theorem keeps_serveStatread {s0 : State} (cn rq : Nat) (c : Conn) (s : State) (hk : Keeps s0 s) :
    Keeps s0 (serveStatread cn rq c s) := by
  unfold serveStatread
  repeat' (first
    | with_reducible assumption
    | with_reducible apply keeps_endOp
    | with_reducible intro _
    | extract_lets
    | split
    | simp -zeta only [Keeps.mk_upd_iff]
    | dsimp +zetaDelta only)

theorem keeps_serveReq {s0 : State} (e : QEnt) (s : State) (hk : Keeps s0 s) :
    Keeps s0 (serveReq e s) := by
  unfold serveReq
  repeat' (first
    | with_reducible assumption
    | with_reducible apply keeps_endOp
    | with_reducible apply keeps_serveSubscribe
    | with_reducible apply keeps_serveUnsubscribe
    | with_reducible apply keeps_notify
    | with_reducible apply keeps_serveNotify
    | with_reducible apply keeps_serveLoopread
    | with_reducible apply keeps_serveEvread
    | with_reducible apply keeps_serveStatread
    | with_reducible intro _
    | extract_lets
    | split
    | simp -zeta only [Keeps.mk_upd_iff]
    | dsimp +zetaDelta only)

theorem keeps_pumpQueue {s0 : State} (st n : Nat) (s : State) (hk : Keeps s0 s) :
    Keeps s0 (pumpQueue st n s) := by
  induction n generalizing s with
  | zero => exact hk
  | succ n ih =>
    unfold pumpQueue
    split
    · exact hk
    · split
      · exact ih _ (keeps_serveReq _ _ (keeps_putAdmit _ _ _ hk))
      · exact hk

theorem keeps_pump {s0 : State} (st : Nat) (s : State) (hk : Keeps s0 s) :
    Keeps s0 (pump st s) := by
  unfold pump
  repeat' (first
    | with_reducible assumption
    | with_reducible apply keeps_putAdmit
    | with_reducible apply keeps_pumpQueue
    | with_reducible intro _
    | extract_lets
    | split
    | simp -zeta only [Keeps.mk_upd_iff]
    | dsimp +zetaDelta only)

theorem keeps_shed {s0 : State} (st : Nat) (e : QEnt) (s : State) (hk : Keeps s0 s) :
    Keeps s0 (shed st e s) := by
  unfold shed
  repeat' (first
    | with_reducible assumption
    | with_reducible apply keeps_putAdmit
    | with_reducible apply keeps_notify
    | with_reducible apply keeps_mapSub
    | with_reducible apply keeps_endOp
    | with_reducible apply keeps_countRefusal
    | with_reducible intro _
    | extract_lets
    | split
    | simp -zeta only [Keeps.mk_upd_iff]
    | dsimp +zetaDelta only)

theorem keeps_enqueue {s0 : State} (st : Nat) (e : QEnt) (s : State) (hk : Keeps s0 s) :
    Keeps s0 (enqueue st e s) := by
  unfold enqueue
  repeat' (first
    | with_reducible assumption
    | with_reducible apply keeps_putAdmit
    | with_reducible apply keeps_shed
    | with_reducible intro _
    | extract_lets
    | split
    | simp -zeta only [Keeps.mk_upd_iff]
    | dsimp +zetaDelta only)

theorem keeps_requestQueued {s0 : State} (cn rq cat cost : Nat) (r : Req) (s : State) (hk : Keeps s0 s) :
    OutKeeps s0 (requestQueued cn rq cat cost r s) := by
  unfold requestQueued
  repeat' (first
    | with_reducible assumption
    | with_reducible apply OutKeeps.next
    | with_reducible apply keeps_request
    | with_reducible apply keeps_freeRetry
    | with_reducible apply keeps_answerBusy
    | with_reducible apply keeps_pump
    | with_reducible apply keeps_enqueue
    | with_reducible apply keeps_beginOp
    | with_reducible intro _
    | extract_lets
    | split
    | dsimp only
    | simp -zeta only [Keeps.mk_upd_iff]
    | dsimp +zetaDelta only)

theorem keeps_execRead {s0 : State} (cn rq : Nat) (pts : List Nat) (s : State) (hk : Keeps s0 s) :
    OutKeeps s0 (execRead cn rq pts s) := by
  unfold execRead
  repeat' (first
    | with_reducible assumption
    | with_reducible apply OutKeeps.next
    | with_reducible apply keeps_requestQueued
    | with_reducible intro _
    | extract_lets
    | split
    | simp -zeta only [Keeps.mk_upd_iff]
    | dsimp +zetaDelta only)

theorem keeps_execSubscribe {s0 : State} (cn rq : Nat) (pts : List Nat) (minint : Nat) (s : State) (hk : Keeps s0 s) :
    OutKeeps s0 (execSubscribe cn rq pts minint s) := by
  unfold execSubscribe
  repeat' (first
    | with_reducible assumption
    | with_reducible apply OutKeeps.next
    | with_reducible apply keeps_requestQueued
    | with_reducible intro _
    | extract_lets
    | split
    | simp -zeta only [Keeps.mk_upd_iff]
    | dsimp +zetaDelta only)

theorem keeps_execUnsubscribe {s0 : State} (cn rq sub : Nat) (s : State) (hk : Keeps s0 s) :
    OutKeeps s0 (execUnsubscribe cn rq sub s) := by
  unfold execUnsubscribe
  repeat' (first
    | with_reducible assumption
    | with_reducible apply OutKeeps.next
    | with_reducible apply keeps_requestQueued
    | with_reducible intro _
    | extract_lets
    | split
    | simp -zeta only [Keeps.mk_upd_iff]
    | dsimp +zetaDelta only)

theorem keeps_execLoopread {s0 : State} (cn rq : Nat) (loops : List Nat) (s : State) (hk : Keeps s0 s) :
    OutKeeps s0 (execLoopread cn rq loops s) := by
  unfold execLoopread
  repeat' (first
    | with_reducible assumption
    | with_reducible apply OutKeeps.next
    | with_reducible apply keeps_requestQueued
    | with_reducible intro _
    | extract_lets
    | split
    | simp -zeta only [Keeps.mk_upd_iff]
    | dsimp +zetaDelta only)

theorem keeps_execEvread {s0 : State} (cn rq : Nat) (start : Option Word) (back : Bool) (n minsev : Nat) (s : State) (hk : Keeps s0 s) :
    OutKeeps s0 (execEvread cn rq start back n minsev s) := by
  unfold execEvread
  repeat' (first
    | with_reducible assumption
    | with_reducible apply OutKeeps.next
    | with_reducible apply keeps_requestQueued
    | with_reducible intro _
    | extract_lets
    | split
    | simp -zeta only [Keeps.mk_upd_iff]
    | dsimp +zetaDelta only)

theorem keeps_execStatread {s0 : State} (cn rq : Nat) (s : State) (hk : Keeps s0 s) :
    OutKeeps s0 (execStatread cn rq s) := by
  unfold execStatread
  repeat' (first
    | with_reducible assumption
    | with_reducible apply OutKeeps.next
    | with_reducible apply keeps_requestQueued
    | with_reducible intro _
    | extract_lets
    | split
    | simp -zeta only [Keeps.mk_upd_iff]
    | dsimp +zetaDelta only)

theorem keeps_execNotify {s0 : State} (cn sub : Nat) (s : State) (hk : Keeps s0 s) :
    OutKeeps s0 (execNotify cn sub s) := by
  unfold execNotify
  repeat' (first
    | with_reducible assumption
    | with_reducible apply outKeeps_whenUp
    | with_reducible apply OutKeeps.next
    | with_reducible apply keeps_pump
    | with_reducible intro _
    | extract_lets
    | split
    | simp -zeta only [Keeps.mk_upd_iff]
    | dsimp +zetaDelta only)

theorem keeps_execRequestDequeue {s0 : State} (stage : Nat) (s : State) (hk : Keeps s0 s) :
    OutKeeps s0 (execRequestDequeue stage s) := by
  unfold execRequestDequeue
  repeat' (first
    | with_reducible assumption
    | with_reducible apply outKeeps_whenUp
    | with_reducible apply OutKeeps.next
    | with_reducible apply keeps_pump
    | with_reducible intro _
    | extract_lets
    | split
    | simp -zeta only [Keeps.mk_upd_iff]
    | dsimp +zetaDelta only)

theorem keeps_execRequestAgeShed {s0 : State} (stage : Nat) (s : State) (hk : Keeps s0 s) :
    OutKeeps s0 (execRequestAgeShed stage s) := by
  unfold execRequestAgeShed
  repeat' (first
    | with_reducible assumption
    | with_reducible apply outKeeps_whenUp
    | with_reducible apply OutKeeps.next
    | with_reducible apply keeps_foldS
    | with_reducible apply keeps_shed
    | with_reducible intro _
    | extract_lets
    | split
    | simp -zeta only [Keeps.mk_upd_iff]
    | dsimp +zetaDelta only)

theorem keeps_repriceNotify {s0 : State} (cn st num : Nat) (l : List (Nat × PV)) (s : State) (hk : Keeps s0 s) :
    Keeps s0 (repriceNotify cn st num l s) := by
  unfold repriceNotify
  repeat' (first
    | with_reducible assumption
    | with_reducible apply keeps_putAdmit
    | with_reducible apply keeps_notify
    | with_reducible intro _
    | extract_lets
    | split
    | simp -zeta only [Keeps.mk_upd_iff]
    | dsimp +zetaDelta only)

theorem keeps_compareSub {s0 : State} (cn : Nat) (x : Sub) (s : State) (hk : Keeps s0 s) :
    Keeps s0 (compareSub cn x s) := by
  unfold compareSub
  repeat' (first
    | with_reducible assumption
    | with_reducible apply keeps_repriceNotify
    | with_reducible apply keeps_mapSub
    | with_reducible apply keeps_enqueue
    | with_reducible apply keeps_notify
    | with_reducible intro _
    | extract_lets
    | split
    | dsimp only
    | simp -zeta only [Keeps.mk_upd_iff]
    | dsimp +zetaDelta only)

theorem keeps_compareSubs {s0 : State} (s : State) (hk : Keeps s0 s) :
    Keeps s0 (compareSubs s) := by
  unfold compareSubs
  repeat' (first
    | with_reducible assumption
    | with_reducible apply keeps_foldS
    | with_reducible apply keeps_compareSub
    | with_reducible apply keeps_pump
    | with_reducible intro _
    | extract_lets
    | split
    | dsimp only
    | simp -zeta only [Keeps.mk_upd_iff]
    | dsimp +zetaDelta only)

theorem keeps_postOp {s0 : State} (o : HostOp) (s : State) (hk : Keeps s0 s) :
    Keeps s0 (postOp o s) := by
  unfold postOp
  repeat' (first
    | with_reducible assumption
    | with_reducible intro _
    | extract_lets
    | split
    | simp -zeta only [Keeps.mk_upd_iff]
    | dsimp +zetaDelta only
    | (with_reducible apply Keeps.mk_sound) <;> first
        | exact id
        | exact Table.wf_set
        | exact fun _ => Table.wf_nil
        | exact fun x => ⟨Table.wf_set x.1, x.2⟩
        | exact fun x => ⟨x.1, Table.wf_set x.2⟩
        | exact fun x => ⟨x.2, x.2⟩
        | exact fun x => PointsOk.like x rfl rfl rfl
        | exact fun x => PointsOk.retain x rfl rfl rfl
        | exact fun x => PointsOk.restore x rfl rfl rfl
        | exact fun x => PointsOk.frozen x rfl rfl rfl
        | exact fun x => PointsOk.put x (quality_masked _)
        | exact fun x => PointsOk.putRetained x (quality_masked _)
        | skip
    | fail)

theorem keeps_execWrite {s0 : State} (cn rq : Nat) (ws : List (Nat × Word)) (s : State) (hk : Keeps s0 s) :
    OutKeeps s0 (execWrite cn rq ws s) := by
  unfold execWrite
  repeat' (first
    | with_reducible assumption
    | with_reducible apply OutKeeps.next
    | with_reducible apply keeps_requestNow
    | with_reducible apply keeps_done
    | with_reducible apply keeps_postOp
    | with_reducible intro _
    | extract_lets
    | split
    | dsimp only
    | simp -zeta only [Keeps.mk_upd_iff]
    | dsimp +zetaDelta only)

theorem keeps_execFreeze {s0 : State} (cn rq pt : Nat) (v : Word) (s : State) (hk : Keeps s0 s) :
    OutKeeps s0 (execFreeze cn rq pt v s) := by
  unfold execFreeze
  repeat' (first
    | with_reducible assumption
    | with_reducible apply OutKeeps.next
    | with_reducible apply keeps_requestNow
    | with_reducible apply keeps_done
    | with_reducible apply keeps_postOp
    | with_reducible intro _
    | extract_lets
    | split
    | simp -zeta only [Keeps.mk_upd_iff]
    | dsimp +zetaDelta only)

theorem keeps_execRelease {s0 : State} (cn rq pt : Nat) (s : State) (hk : Keeps s0 s) :
    OutKeeps s0 (execRelease cn rq pt s) := by
  unfold execRelease
  repeat' (first
    | with_reducible assumption
    | with_reducible apply OutKeeps.next
    | with_reducible apply keeps_requestNow
    | with_reducible apply keeps_done
    | with_reducible apply keeps_postOp
    | with_reducible intro _
    | extract_lets
    | split
    | simp -zeta only [Keeps.mk_upd_iff]
    | dsimp +zetaDelta only)

theorem keeps_clearLog {s0 : State} (st : Nat) (upto : Word) (principal sess : Nat) (s : State) (hk : Keeps s0 s) :
    Keeps s0 (clearLog st upto principal sess s) := by
  unfold clearLog
  repeat' (first
    | with_reducible assumption
    | with_reducible apply keeps_clearRecord
    | with_reducible intro _
    | extract_lets
    | split
    | dsimp only
    | simp -zeta only [Keeps.mk_upd_iff]
    | dsimp +zetaDelta only)

theorem keeps_execEvclear {s0 : State} (cn rq : Nat) (upto : Word) (s : State) (hk : Keeps s0 s) :
    OutKeeps s0 (execEvclear cn rq upto s) := by
  unfold execEvclear
  repeat' (first
    | with_reducible assumption
    | with_reducible apply OutKeeps.next
    | with_reducible apply keeps_requestNow
    | with_reducible apply keeps_done
    | with_reducible apply keeps_clearLog
    | with_reducible intro _
    | extract_lets
    | split
    | simp -zeta only [Keeps.mk_upd_iff]
    | dsimp +zetaDelta only)

theorem keeps_safetyRequest {s0 : State} (cn rq op f bit : Nat) (s : State) (hk : Keeps s0 s) :
    OutKeeps s0 (safetyRequest cn rq op f bit s) := by
  unfold safetyRequest
  repeat' (first
    | with_reducible assumption
    | with_reducible apply OutKeeps.next
    | with_reducible apply keeps_requestNow
    | with_reducible apply keeps_done
    | with_reducible intro _
    | extract_lets
    | split
    | simp -zeta only [Keeps.mk_upd_iff]
    | dsimp +zetaDelta only
    | (with_reducible apply Keeps.mk_sound) <;> first
        | exact id
        | exact Table.wf_set
        | exact fun _ => Table.wf_nil
        | exact fun x => ⟨Table.wf_set x.1, x.2⟩
        | exact fun x => ⟨x.1, Table.wf_set x.2⟩
        | exact fun x => ⟨x.2, x.2⟩
        | exact fun x => PointsOk.like x rfl rfl rfl
        | exact fun x => PointsOk.retain x rfl rfl rfl
        | exact fun x => PointsOk.restore x rfl rfl rfl
        | exact fun x => PointsOk.frozen x rfl rfl rfl
        | exact fun x => PointsOk.put x (quality_masked _)
        | exact fun x => PointsOk.putRetained x (quality_masked _)
        | skip
    | fail)

theorem keeps_execSafreset {s0 : State} (cn rq f : Nat) (s : State) (hk : Keeps s0 s) :
    OutKeeps s0 (execSafreset cn rq f s) := by
  unfold execSafreset
  repeat' (first
    | with_reducible assumption
    | with_reducible apply OutKeeps.next
    | with_reducible apply keeps_safetyRequest
    | with_reducible intro _
    | extract_lets
    | split
    | simp -zeta only [Keeps.mk_upd_iff]
    | dsimp +zetaDelta only)

theorem keeps_execSafack {s0 : State} (cn rq f : Nat) (s : State) (hk : Keeps s0 s) :
    OutKeeps s0 (execSafack cn rq f s) := by
  unfold execSafack
  repeat' (first
    | with_reducible assumption
    | with_reducible apply OutKeeps.next
    | with_reducible apply keeps_safetyRequest
    | with_reducible intro _
    | extract_lets
    | split
    | simp -zeta only [Keeps.mk_upd_iff]
    | dsimp +zetaDelta only)

theorem keeps_execMslack {s0 : State} (cn rq slot : Nat) (s : State) (hk : Keeps s0 s) :
    OutKeeps s0 (execMslack cn rq slot s) := by
  unfold execMslack
  repeat' (first
    | with_reducible assumption
    | with_reducible apply OutKeeps.next
    | with_reducible apply keeps_requestNow
    | with_reducible apply keeps_done
    | with_reducible apply keeps_ackHalt
    | with_reducible intro _
    | extract_lets
    | split
    | simp -zeta only [Keeps.mk_upd_iff]
    | dsimp +zetaDelta only)

theorem keeps_execCanabort {s0 : State} (cn rq n : Nat) (s : State) (hk : Keeps s0 s) :
    OutKeeps s0 (execCanabort cn rq n s) := by
  unfold execCanabort
  repeat' (first
    | with_reducible assumption
    | with_reducible apply OutKeeps.next
    | with_reducible apply keeps_requestNow
    | with_reducible apply keeps_done
    | with_reducible apply keeps_putCan
    | with_reducible intro _
    | extract_lets
    | split
    | simp -zeta only [Keeps.mk_upd_iff]
    | dsimp +zetaDelta only)

theorem keeps_execCanrecover {s0 : State} (cn rq n : Nat) (s : State) (hk : Keeps s0 s) :
    OutKeeps s0 (execCanrecover cn rq n s) := by
  unfold execCanrecover
  repeat' (first
    | with_reducible assumption
    | with_reducible apply OutKeeps.next
    | with_reducible apply keeps_requestNow
    | with_reducible apply keeps_done
    | with_reducible apply keeps_canRecover
    | with_reducible intro _
    | extract_lets
    | split
    | simp -zeta only [Keeps.mk_upd_iff]
    | dsimp +zetaDelta only)

theorem keeps_sendDev {s0 : State} (key : Nat) (s : State) (hk : Keeps s0 s) :
    Keeps s0 (sendDev key s) := by
  unfold sendDev
  repeat' (first
    | with_reducible assumption
    | with_reducible apply keeps_nextSeq
    | with_reducible apply keeps_sendAcyc
    | with_reducible apply keeps_putDevQueue
    | with_reducible intro _
    | extract_lets
    | split
    | dsimp only
    | simp -zeta only [Keeps.mk_upd_iff]
    | dsimp +zetaDelta only)

theorem keeps_startDev {s0 : State} (key : Nat) (s : State) (hk : Keeps s0 s) :
    Keeps s0 (startDev key s) := by
  unfold startDev
  repeat' (first
    | with_reducible assumption
    | with_reducible apply keeps_markOps
    | with_reducible apply keeps_sendDev
    | with_reducible apply keeps_putDevQueue
    | with_reducible apply keeps_endDev
    | with_reducible apply keeps_canStartReq
    | with_reducible intro _
    | extract_lets
    | split
    | simp -zeta only [Keeps.mk_upd_iff]
    | dsimp +zetaDelta only
    | (with_reducible apply Keeps.mk_sound) <;> first
        | exact id
        | exact Table.wf_set
        | exact fun _ => Table.wf_nil
        | exact fun x => ⟨Table.wf_set x.1, x.2⟩
        | exact fun x => ⟨x.1, Table.wf_set x.2⟩
        | exact fun x => ⟨x.2, x.2⟩
        | exact fun x => PointsOk.like x rfl rfl rfl
        | exact fun x => PointsOk.retain x rfl rfl rfl
        | exact fun x => PointsOk.restore x rfl rfl rfl
        | exact fun x => PointsOk.frozen x rfl rfl rfl
        | exact fun x => PointsOk.put x (quality_masked _)
        | exact fun x => PointsOk.putRetained x (quality_masked _)
        | skip
    | fail)

theorem keeps_startDevs {s0 : State} (s : State) (hk : Keeps s0 s) :
    Keeps s0 (startDevs s) := by
  unfold startDevs
  repeat' (first
    | with_reducible assumption
    | with_reducible apply keeps_foldS
    | with_reducible apply keeps_startDev
    | with_reducible intro _
    | extract_lets
    | split
    | dsimp only
    | simp -zeta only [Keeps.mk_upd_iff]
    | dsimp +zetaDelta only)

theorem keeps_sendDevs {s0 : State} (s : State) (hk : Keeps s0 s) :
    Keeps s0 (sendDevs s) := by
  unfold sendDevs
  repeat' (first
    | with_reducible assumption
    | with_reducible apply keeps_foldS
    | with_reducible apply keeps_sendDev
    | with_reducible intro _
    | extract_lets
    | split
    | dsimp only
    | simp -zeta only [Keeps.mk_upd_iff]
    | dsimp +zetaDelta only)

theorem keeps_execDevreq {s0 : State} (cn rq g node : Nat) (toMs : Option Nat) (txid rxid : Nat) (data : List Byte) (s : State) (hk : Keeps s0 s) :
    OutKeeps s0 (execDevreq cn rq g node toMs txid rxid data s) := by
  unfold execDevreq
  repeat' (first
    | with_reducible assumption
    | with_reducible apply OutKeeps.next
    | with_reducible apply keeps_requestNow
    | with_reducible apply keeps_done
    | with_reducible apply keeps_freeRetry
    | with_reducible apply keeps_endOp
    | with_reducible apply keeps_countRefusal
    | with_reducible apply keeps_putDevQueue
    | with_reducible apply keeps_startDev
    | with_reducible intro _
    | extract_lets
    | split
    | dsimp only
    | simp -zeta only [Keeps.mk_upd_iff]
    | dsimp +zetaDelta only)

theorem keeps_execDevreqTimeout {s0 : State} (g node : Nat) (s : State) (hk : Keeps s0 s) :
    OutKeeps s0 (execDevreqTimeout g node s) := by
  unfold execDevreqTimeout
  repeat' (first
    | with_reducible assumption
    | with_reducible apply outKeeps_whenUpAnd
    | with_reducible apply OutKeeps.next
    | with_reducible apply keeps_endDev
    | with_reducible intro _
    | extract_lets
    | split
    | simp -zeta only [Keeps.mk_upd_iff]
    | dsimp +zetaDelta only)

/-! ### Machine/Changes.lean -/

theorem keeps_putDesc {s0 : State} (n : Nat) (d : LoopDesc) (s : State) (hk : Keeps s0 s) :
    Keeps s0 (putDesc n d s) := by
  unfold putDesc
  repeat' (first
    | with_reducible assumption
    | with_reducible intro _
    | extract_lets
    | split
    | simp -zeta only [Keeps.mk_upd_iff]
    | dsimp +zetaDelta only
    | (with_reducible apply Keeps.mk_sound) <;> first
        | exact id
        | exact Table.wf_set
        | exact fun _ => Table.wf_nil
        | exact fun x => ⟨Table.wf_set x.1, x.2⟩
        | exact fun x => ⟨x.1, Table.wf_set x.2⟩
        | exact fun x => ⟨x.2, x.2⟩
        | exact fun x => PointsOk.like x rfl rfl rfl
        | exact fun x => PointsOk.retain x rfl rfl rfl
        | exact fun x => PointsOk.restore x rfl rfl rfl
        | exact fun x => PointsOk.frozen x rfl rfl rfl
        | exact fun x => PointsOk.put x (quality_masked _)
        | exact fun x => PointsOk.putRetained x (quality_masked _)
        | skip
    | fail)

theorem keeps_relinkLoops {s0 : State} (s : State) (hk : Keeps s0 s) :
    Keeps s0 (relinkLoops s) := by
  unfold relinkLoops
  repeat' (first
    | with_reducible assumption
    | with_reducible apply keeps_foldS
    | with_reducible apply keeps_putDesc
    | with_reducible intro _
    | extract_lets
    | split
    | simp -zeta only [Keeps.mk_upd_iff]
    | dsimp +zetaDelta only)

theorem keeps_groupTransition {s0 : State} (n : Nat) (s : State) (hk : Keeps s0 s) :
    Keeps s0 (groupTransition n s) := by
  unfold groupTransition
  repeat' (first
    | with_reducible assumption
    | with_reducible apply keeps_foldS
    | with_reducible apply keeps_putLoop
    | with_reducible intro _
    | extract_lets
    | split
    | simp -zeta only [Keeps.mk_upd_iff]
    | dsimp +zetaDelta only)

theorem keeps_applyDesc {s0 : State} (n : Nat) (bs : List Byte) (s : State) (hk : Keeps s0 s) :
    Keeps s0 (applyDesc n bs s) := by
  unfold applyDesc
  repeat' (first
    | with_reducible assumption
    | with_reducible apply keeps_foldS
    | with_reducible apply keeps_groupTransition
    | with_reducible apply keeps_putDesc
    | with_reducible apply keeps_dropDue
    | with_reducible apply keeps_putLoop
    | with_reducible apply keeps_coldLoop
    | with_reducible apply keeps_loopEnterFb
    | with_reducible apply keeps_relinkLoops
    | with_reducible intro _
    | extract_lets
    | split
    | simp -zeta only [Keeps.mk_upd_iff]
    | dsimp +zetaDelta only)

theorem keeps_initPt {s0 : State} (pt : Nat) (v : Word) (s : State) (hk : Keeps s0 s) :
    Keeps s0 (initPt pt v s) := by
  unfold initPt
  repeat' (first
    | with_reducible assumption
    | with_reducible apply keeps_putPoint
    | with_reducible intro _
    | extract_lets
    | split
    | simp -zeta only [Keeps.mk_upd_iff]
    | dsimp +zetaDelta only)

theorem keeps_initObj {s0 : State} (o : ObjDef) (s : State) (hk : Keeps s0 s) :
    Keeps s0 (initObj o s) := by
  unfold initObj
  repeat' (first
    | with_reducible assumption
    | with_reducible apply keeps_foldS
    | with_reducible apply keeps_initPt
    | with_reducible intro _
    | extract_lets
    | split
    | simp -zeta only [Keeps.mk_upd_iff]
    | dsimp +zetaDelta only)

theorem keeps_initSlot {s0 : State} (st : Nat) (d : SlotDef) (s : State) (hk : Keeps s0 s) :
    Keeps s0 (initSlot st d s) := by
  unfold initSlot
  repeat' (first
    | with_reducible assumption
    | with_reducible intro _
    | extract_lets
    | split
    | simp -zeta only [Keeps.mk_upd_iff]
    | dsimp +zetaDelta only)

theorem keeps_clearFaults {s0 : State} (st : Nat) (s : State) (hk : Keeps s0 s) :
    Keeps s0 (clearFaults st s) := by
  unfold clearFaults
  repeat' (first
    | with_reducible assumption
    | with_reducible intro _
    | extract_lets
    | split
    | dsimp only
    | simp -zeta only [Keeps.mk_upd_iff]
    | dsimp +zetaDelta only)

theorem keeps_warmLoop {s0 : State} (n : Nat) (s : State) (hk : Keeps s0 s) :
    Keeps s0 (warmLoop n s) := by
  unfold warmLoop
  repeat' (first
    | with_reducible assumption
    | with_reducible apply keeps_loopLeaveFb
    | with_reducible apply keeps_putLoop
    | with_reducible intro _
    | extract_lets
    | split
    | simp -zeta only [Keeps.mk_upd_iff]
    | dsimp +zetaDelta only)

theorem keeps_startProgram {s0 : State} (k : StartKind) (st : Nat) (s : State) (hk : Keeps s0 s) :
    Keeps s0 (startProgram k st s) := by
  unfold startProgram
  repeat' (first
    | with_reducible assumption
    | with_reducible apply keeps_foldS
    | with_reducible apply keeps_initObj
    | with_reducible apply keeps_clearFaults
    | with_reducible apply keeps_initSlot
    | with_reducible apply keeps_leaveFallback
    | with_reducible apply keeps_putStg
    | with_reducible apply keeps_warmLoop
    | with_reducible apply keeps_coldLoop
    | with_reducible intro _
    | extract_lets
    | split
    | simp -zeta only [Keeps.mk_upd_iff]
    | dsimp +zetaDelta only)

theorem keeps_declareNew {s0 : State} (o : ObjDef) (pt : Nat) (s : State) (hk : Keeps s0 s) :
    Keeps s0 (declareNew o pt s) := by
  unfold declareNew
  repeat' (first
    | with_reducible assumption
    | with_reducible apply keeps_mapQual
    | with_reducible apply keeps_initPt
    | with_reducible intro _
    | extract_lets
    | split
    | simp -zeta only [Keeps.mk_upd_iff]
    | dsimp +zetaDelta only)

theorem keeps_recutPoints {s0 : State} (old new : Prog) (s : State) (hk : Keeps s0 s) :
    Keeps s0 (recutPoints old new s) := by
  unfold recutPoints
  repeat' (first
    | with_reducible assumption
    | with_reducible apply keeps_foldS
    | with_reducible apply keeps_declareNew
    | with_reducible intro _
    | extract_lets
    | split
    | simp -zeta only [Keeps.mk_upd_iff]
    | dsimp +zetaDelta only)

theorem keeps_recutSlot {s0 : State} (old : Prog) (st : Nat) (d : SlotDef) (s : State) (hk : Keeps s0 s) :
    Keeps s0 (recutSlot old st d s) := by
  unfold recutSlot
  repeat' (first
    | with_reducible assumption
    | with_reducible apply keeps_initSlot
    | with_reducible intro _
    | extract_lets
    | split
    | simp -zeta only [Keeps.mk_upd_iff]
    | dsimp +zetaDelta only)

theorem keeps_putProg {s0 : State} (st : Nat) (p : Option Prog) (s : State) (hk : Keeps s0 s) :
    Keeps s0 (putProg st p s) := by
  unfold putProg
  repeat' (first
    | with_reducible assumption
    | with_reducible intro _
    | extract_lets
    | split
    | dsimp only
    | simp -zeta only [Keeps.mk_upd_iff]
    | dsimp +zetaDelta only
    | (with_reducible apply Keeps.mk_sound) <;> first
        | exact id
        | exact Table.wf_set
        | exact fun _ => Table.wf_nil
        | exact fun x => ⟨Table.wf_set x.1, x.2⟩
        | exact fun x => ⟨x.1, Table.wf_set x.2⟩
        | exact fun x => ⟨x.2, x.2⟩
        | exact fun x => PointsOk.like x rfl rfl rfl
        | exact fun x => PointsOk.retain x rfl rfl rfl
        | exact fun x => PointsOk.restore x rfl rfl rfl
        | exact fun x => PointsOk.frozen x rfl rfl rfl
        | exact fun x => PointsOk.put x (quality_masked _)
        | exact fun x => PointsOk.putRetained x (quality_masked _)
        | skip
    | fail)

theorem keeps_markInForce {s0 : State} (st : Nat) (bs : List Byte) (s : State) (hk : Keeps s0 s) :
    Keeps s0 (markInForce st bs s) := by
  unfold markInForce
  repeat' (first
    | with_reducible assumption
    | with_reducible intro _
    | extract_lets
    | split
    | simp -zeta only [Keeps.mk_upd_iff]
    | dsimp +zetaDelta only
    | (with_reducible apply Keeps.mk_sound) <;> first
        | exact id
        | exact Table.wf_set
        | exact fun _ => Table.wf_nil
        | exact fun x => ⟨Table.wf_set x.1, x.2⟩
        | exact fun x => ⟨x.1, Table.wf_set x.2⟩
        | exact fun x => ⟨x.2, x.2⟩
        | exact fun x => PointsOk.like x rfl rfl rfl
        | exact fun x => PointsOk.retain x rfl rfl rfl
        | exact fun x => PointsOk.restore x rfl rfl rfl
        | exact fun x => PointsOk.frozen x rfl rfl rfl
        | exact fun x => PointsOk.put x (quality_masked _)
        | exact fun x => PointsOk.putRetained x (quality_masked _)
        | skip
    | fail)

theorem keeps_applyProg {s0 : State} (st : Nat) (bs : List Byte) (s : State) (hk : Keeps s0 s) :
    Keeps s0 (applyProg st bs s) := by
  unfold applyProg
  repeat' (first
    | with_reducible assumption
    | with_reducible apply keeps_foldS
    | with_reducible apply keeps_markInForce
    | with_reducible apply keeps_putProg
    | with_reducible apply keeps_recutPoints
    | with_reducible apply keeps_clearFaults
    | with_reducible apply keeps_recutSlot
    | with_reducible apply keeps_leaveFallback
    | with_reducible apply keeps_putStg
    | with_reducible apply keeps_startProgram
    | with_reducible intro _
    | extract_lets
    | split
    | simp -zeta only [Keeps.mk_upd_iff]
    | dsimp +zetaDelta only)

theorem keeps_applyRestart {s0 : State} (st : Nat) (b : Byte) (s : State) (hk : Keeps s0 s) :
    Keeps s0 (applyRestart st b s) := by
  unfold applyRestart
  repeat' (first
    | with_reducible assumption
    | with_reducible apply keeps_startProgram
    | with_reducible intro _
    | extract_lets
    | split
    | simp -zeta only [Keeps.mk_upd_iff]
    | dsimp +zetaDelta only
    | (with_reducible apply Keeps.mk_sound) <;> first
        | exact id
        | exact Table.wf_set
        | exact fun _ => Table.wf_nil
        | exact fun x => ⟨Table.wf_set x.1, x.2⟩
        | exact fun x => ⟨x.1, Table.wf_set x.2⟩
        | exact fun x => ⟨x.2, x.2⟩
        | exact fun x => PointsOk.like x rfl rfl rfl
        | exact fun x => PointsOk.retain x rfl rfl rfl
        | exact fun x => PointsOk.restore x rfl rfl rfl
        | exact fun x => PointsOk.frozen x rfl rfl rfl
        | exact fun x => PointsOk.put x (quality_masked _)
        | exact fun x => PointsOk.putRetained x (quality_masked _)
        | skip
    | fail)

theorem keeps_freezeEvent {s0 : State} (st pt : Nat) (v : Word) (sess kind : Nat) (s : State) (hk : Keeps s0 s) :
    Keeps s0 (freezeEvent st pt v sess kind s) := by
  unfold freezeEvent
  repeat' (first
    | with_reducible assumption
    | with_reducible apply keeps_logEv
    | with_reducible intro _
    | extract_lets
    | split
    | simp -zeta only [Keeps.mk_upd_iff]
    | dsimp +zetaDelta only)

theorem keeps_setFreeze {s0 : State} (pt : Nat) (v : Option Word) (s : State) (hk : Keeps s0 s) :
    Keeps s0 (setFreeze pt v s) := by
  unfold setFreeze
  repeat' (first
    | with_reducible assumption
    | with_reducible intro _
    | extract_lets
    | split
    | simp -zeta only [Keeps.mk_upd_iff]
    | dsimp +zetaDelta only
    | (with_reducible apply Keeps.mk_sound) <;> first
        | exact id
        | exact Table.wf_set
        | exact fun _ => Table.wf_nil
        | exact fun x => ⟨Table.wf_set x.1, x.2⟩
        | exact fun x => ⟨x.1, Table.wf_set x.2⟩
        | exact fun x => ⟨x.2, x.2⟩
        | exact fun x => PointsOk.like x rfl rfl rfl
        | exact fun x => PointsOk.retain x rfl rfl rfl
        | exact fun x => PointsOk.restore x rfl rfl rfl
        | exact fun x => PointsOk.frozen x rfl rfl rfl
        | exact fun x => PointsOk.put x (quality_masked _)
        | exact fun x => PointsOk.putRetained x (quality_masked _)
        | skip
    | fail)

theorem keeps_freezePt {s0 : State} (st pt : Nat) (v : Word) (sess : Nat) (s : State) (hk : Keeps s0 s) :
    Keeps s0 (freezePt st pt v sess s) := by
  unfold freezePt
  repeat' (first
    | with_reducible assumption
    | with_reducible apply keeps_freezeEvent
    | with_reducible apply keeps_setFreeze
    | with_reducible intro _
    | extract_lets
    | split
    | simp -zeta only [Keeps.mk_upd_iff]
    | dsimp +zetaDelta only)

theorem keeps_releasePt {s0 : State} (ended : Table (Option Word)) (st pt : Nat) (sess : Nat) (s : State) (hk : Keeps s0 s) :
    Keeps s0 (releasePt ended st pt sess s) := by
  unfold releasePt
  repeat' (first
    | with_reducible assumption
    | with_reducible apply keeps_freezeEvent
    | with_reducible apply keeps_setFreeze
    | with_reducible intro _
    | extract_lets
    | split
    | simp -zeta only [Keeps.mk_upd_iff]
    | dsimp +zetaDelta only)

theorem keeps_writeStageReq {s0 : State} (st : Nat) (v : Word) (s : State) (hk : Keeps s0 s) :
    Keeps s0 (writeStageReq st v s) := by
  unfold writeStageReq
  repeat' (first
    | with_reducible assumption
    | with_reducible apply keeps_putStg
    | with_reducible intro _
    | extract_lets
    | split
    | simp -zeta only [Keeps.mk_upd_iff]
    | dsimp +zetaDelta only)

theorem keeps_hostWrite {s0 : State} (st : Nat) (e : Nat × Word) (s : State) (hk : Keeps s0 s) :
    Keeps s0 (hostWrite st e s) := by
  unfold hostWrite
  repeat' (first
    | with_reducible assumption
    | with_reducible apply keeps_writeStageReq
    | with_reducible apply keeps_putPoint
    | with_reducible intro _
    | extract_lets
    | split
    | dsimp only
    | simp -zeta only [Keeps.mk_upd_iff]
    | dsimp +zetaDelta only)

theorem keeps_applyTag {s0 : State} (blk : Nat) (t : Half) (s : State) (hk : Keeps s0 s) :
    Keeps s0 (applyTag blk t s) := by
  refine ⟨hk.pending, hk.now, hk.variant, hk.draws, fun h => ?_, fun h => { hk.tables h with }⟩
  have x := hk.image h
  refine ⟨x.1, x.2, ?_, x.4, x.5⟩
  show Table.wf none (if _ then s.points.frz else s.points.frz.filter _) = true
  split
  · exact x.3
  · exact Table.wf_filter _ x.3

theorem keeps_putStgCfg {s0 : State} (st : Nat) (c : StgCfg) (s : State) (hk : Keeps s0 s) :
    Keeps s0 (putStgCfg st c s) := by
  unfold putStgCfg
  repeat' (first
    | with_reducible assumption
    | with_reducible intro _
    | extract_lets
    | split
    | simp -zeta only [Keeps.mk_upd_iff]
    | dsimp +zetaDelta only
    | (with_reducible apply Keeps.mk_sound) <;> first
        | exact id
        | exact Table.wf_set
        | exact fun _ => Table.wf_nil
        | exact fun x => ⟨Table.wf_set x.1, x.2⟩
        | exact fun x => ⟨x.1, Table.wf_set x.2⟩
        | exact fun x => ⟨x.2, x.2⟩
        | exact fun x => PointsOk.like x rfl rfl rfl
        | exact fun x => PointsOk.retain x rfl rfl rfl
        | exact fun x => PointsOk.restore x rfl rfl rfl
        | exact fun x => PointsOk.frozen x rfl rfl rfl
        | exact fun x => PointsOk.put x (quality_masked _)
        | exact fun x => PointsOk.putRetained x (quality_masked _)
        | skip
    | fail)

theorem keeps_closeStage {s0 : State} (st : Nat) (s : State) (hk : Keeps s0 s) :
    Keeps s0 (closeStage st s) := by
  unfold closeStage
  repeat' (first
    | with_reducible assumption
    | with_reducible apply keeps_closeWhere
    | with_reducible intro _
    | extract_lets
    | split
    | simp -zeta only [Keeps.mk_upd_iff]
    | dsimp +zetaDelta only)

theorem keeps_applyStgcfg {s0 : State} (st : Nat) (ws : List Word) (logpub : List (Nat × Word)) (s : State) (hk : Keeps s0 s) :
    Keeps s0 (applyStgcfg st ws logpub s) := by
  unfold applyStgcfg
  repeat' (first
    | with_reducible assumption
    | with_reducible apply keeps_putStgCfg
    | with_reducible apply keeps_fullBucket
    | with_reducible apply keeps_makeStorageKey
    | with_reducible apply keeps_closeStage
    | with_reducible intro _
    | extract_lets
    | split
    | simp -zeta only [Keeps.mk_upd_iff]
    | dsimp +zetaDelta only
    | (with_reducible apply Keeps.mk_sound) <;> first
        | exact id
        | exact Table.wf_set
        | exact fun _ => Table.wf_nil
        | exact fun x => ⟨Table.wf_set x.1, x.2⟩
        | exact fun x => ⟨x.1, Table.wf_set x.2⟩
        | exact fun x => ⟨x.2, x.2⟩
        | exact fun x => PointsOk.like x rfl rfl rfl
        | exact fun x => PointsOk.retain x rfl rfl rfl
        | exact fun x => PointsOk.restore x rfl rfl rfl
        | exact fun x => PointsOk.frozen x rfl rfl rfl
        | exact fun x => PointsOk.put x (quality_masked _)
        | exact fun x => PointsOk.putRetained x (quality_masked _)
        | skip
    | fail)

theorem keeps_trimSession {s0 : State} (cn : Nat) (c : Conn) (s : State) (hk : Keeps s0 s) :
    Keeps s0 (trimSession cn c s) := by
  unfold trimSession
  repeat' (first
    | with_reducible assumption
    | with_reducible apply keeps_notify
    | with_reducible apply keeps_putConn
    | with_reducible intro _
    | extract_lets
    | split
    | simp -zeta only [Keeps.mk_upd_iff]
    | dsimp +zetaDelta only)

theorem keeps_trimSubs {s0 : State} (s : State) (hk : Keeps s0 s) :
    Keeps s0 (trimSubs s) := by
  unfold trimSubs
  repeat' (first
    | with_reducible assumption
    | with_reducible apply keeps_foldS
    | with_reducible apply keeps_trimSession
    | with_reducible intro _
    | extract_lets
    | split
    | dsimp only
    | simp -zeta only [Keeps.mk_upd_iff]
    | dsimp +zetaDelta only)

theorem keeps_applyPrincipal {s0 : State} (num : Nat) (key : BitVec 256) (stage : Nat) (roles : Half) (s : State) (hk : Keeps s0 s) :
    Keeps s0 (applyPrincipal num key stage roles s) := by
  unfold applyPrincipal
  repeat' (first
    | with_reducible assumption
    | with_reducible intro _
    | extract_lets
    | split
    | simp -zeta only [Keeps.mk_upd_iff]
    | dsimp +zetaDelta only
    | (with_reducible apply Keeps.mk_sound) <;> first
        | exact id
        | exact Table.wf_set
        | exact fun _ => Table.wf_nil
        | exact fun x => ⟨Table.wf_set x.1, x.2⟩
        | exact fun x => ⟨x.1, Table.wf_set x.2⟩
        | exact fun x => ⟨x.2, x.2⟩
        | exact fun x => PointsOk.like x rfl rfl rfl
        | exact fun x => PointsOk.retain x rfl rfl rfl
        | exact fun x => PointsOk.restore x rfl rfl rfl
        | exact fun x => PointsOk.frozen x rfl rfl rfl
        | exact fun x => PointsOk.put x (quality_masked _)
        | exact fun x => PointsOk.putRetained x (quality_masked _)
        | skip
    | fail)

theorem keeps_judgeCommissioning {s0 : State} (s : State) (hk : Keeps s0 s) :
    Keeps s0 (judgeCommissioning s) := by
  unfold judgeCommissioning
  repeat' (first
    | with_reducible assumption
    | with_reducible apply keeps_logEv
    | with_reducible intro _
    | extract_lets
    | split
    | simp -zeta only [Keeps.mk_upd_iff]
    | dsimp +zetaDelta only
    | (with_reducible apply Keeps.mk_sound) <;> first
        | exact id
        | exact Table.wf_set
        | exact fun _ => Table.wf_nil
        | exact fun x => ⟨Table.wf_set x.1, x.2⟩
        | exact fun x => ⟨x.1, Table.wf_set x.2⟩
        | exact fun x => ⟨x.2, x.2⟩
        | exact fun x => PointsOk.like x rfl rfl rfl
        | exact fun x => PointsOk.retain x rfl rfl rfl
        | exact fun x => PointsOk.restore x rfl rfl rfl
        | exact fun x => PointsOk.frozen x rfl rfl rfl
        | exact fun x => PointsOk.put x (quality_masked _)
        | exact fun x => PointsOk.putRetained x (quality_masked _)
        | skip
    | fail)

theorem keeps_applySlate {s0 : State} (scfg : Word) (cls : List Word) (s : State) (hk : Keeps s0 s) :
    Keeps s0 (applySlate scfg cls s) := by
  unfold applySlate
  repeat' (first
    | with_reducible assumption
    | with_reducible apply keeps_foldl
    | with_reducible intro _
    | extract_lets
    | split
    | simp -zeta only [Keeps.mk_upd_iff]
    | dsimp +zetaDelta only)

theorem keeps_applyLio {s0 : State} (regs : List (RegId × Word)) (s : State) (hk : Keeps s0 s) :
    Keeps s0 (applyLio regs s) := by
  unfold applyLio
  repeat' (first
    | with_reducible assumption
    | with_reducible apply keeps_foldS
    | with_reducible apply keeps_foldl
    | with_reducible apply keeps_putDi
    | with_reducible intro _
    | extract_lets
    | split
    | dsimp only
    | simp -zeta only [Keeps.mk_upd_iff]
    | dsimp +zetaDelta only
    | (with_reducible apply Keeps.mk_sound) <;> first
        | exact id
        | exact Table.wf_set
        | exact fun _ => Table.wf_nil
        | exact fun x => ⟨Table.wf_set x.1, x.2⟩
        | exact fun x => ⟨x.1, Table.wf_set x.2⟩
        | exact fun x => ⟨x.2, x.2⟩
        | exact fun x => PointsOk.like x rfl rfl rfl
        | exact fun x => PointsOk.retain x rfl rfl rfl
        | exact fun x => PointsOk.restore x rfl rfl rfl
        | exact fun x => PointsOk.frozen x rfl rfl rfl
        | exact fun x => PointsOk.put x (quality_masked _)
        | exact fun x => PointsOk.putRetained x (quality_masked _)
        | skip
    | fail)

theorem keeps_setDev {s0 : State} (g i : Nat) (bs : List Byte) (s : State) (hk : Keeps s0 s) :
    Keeps s0 (setDev g i bs s) := by
  unfold setDev
  repeat' (first
    | with_reducible assumption
    | with_reducible apply keeps_putDevRt
    | with_reducible intro _
    | extract_lets
    | split
    | simp -zeta only [Keeps.mk_upd_iff]
    | dsimp +zetaDelta only)

theorem keeps_setNetReg {s0 : State} (r : RegId) (w : Dword) (s : State) (hk : Keeps s0 s) :
    Keeps s0 (setNetReg r w s) := by
  unfold setNetReg
  repeat' (first
    | with_reducible assumption
    | with_reducible apply keeps_putMac
    | with_reducible intro _
    | extract_lets
    | split
    | simp -zeta only [Keeps.mk_upd_iff]
    | dsimp +zetaDelta only)

theorem keeps_applyNet {s0 : State} (regs : List (RegId × Dword)) (devs : List (Nat × Nat × List Byte)) (name : List Byte) (s : State) (hk : Keeps s0 s) :
    Keeps s0 (applyNet regs devs name s) := by
  unfold applyNet
  repeat' (first
    | with_reducible assumption
    | with_reducible apply keeps_foldS
    | with_reducible apply keeps_setNetReg
    | with_reducible apply keeps_setDev
    | with_reducible apply keeps_setAddr
    | with_reducible intro _
    | extract_lets
    | split
    | dsimp only
    | simp -zeta only [Keeps.mk_upd_iff]
    | dsimp +zetaDelta only)

theorem keeps_applyCan {s0 : State} (c : Nat) (regs : List (RegId × Word)) (devs frames : List (Nat × List Byte)) (s : State) (hk : Keeps s0 s) :
    Keeps s0 (applyCan c regs devs frames s) := by
  unfold applyCan
  repeat' (first
    | with_reducible assumption
    | with_reducible apply keeps_remapFrames
    | with_reducible apply keeps_putCan
    | with_reducible apply keeps_canOff
    | with_reducible intro _
    | extract_lets
    | split
    | simp -zeta only [Keeps.mk_upd_iff]
    | dsimp +zetaDelta only)

theorem keeps_applyConfig {s0 : State} (st : Nat) (e : Entry) (s : State) (hk : Keeps s0 s) :
    Keeps s0 (applyConfig st e s) := by
  unfold applyConfig
  repeat' (first
    | with_reducible assumption
    | with_reducible apply keeps_applyTag
    | with_reducible apply keeps_applyStgcfg
    | with_reducible apply keeps_applyPrincipal
    | with_reducible apply keeps_applySlate
    | with_reducible apply keeps_applyLio
    | with_reducible apply keeps_applyNet
    | with_reducible apply keeps_applyCan
    | with_reducible apply keeps_commitSaf
    | with_reducible apply keeps_mslSetUp
    | with_reducible apply keeps_commitMsl
    | with_reducible apply keeps_applyKeypol
    | with_reducible apply keeps_applySecpol
    | with_reducible intro _
    | extract_lets
    | split
    | dsimp only
    | simp -zeta only [Keeps.mk_upd_iff]
    | dsimp +zetaDelta only
    | (with_reducible apply Keeps.mk_sound) <;> first
        | exact id
        | exact Table.wf_set
        | exact fun _ => Table.wf_nil
        | exact fun x => ⟨Table.wf_set x.1, x.2⟩
        | exact fun x => ⟨x.1, Table.wf_set x.2⟩
        | exact fun x => ⟨x.2, x.2⟩
        | exact fun x => PointsOk.like x rfl rfl rfl
        | exact fun x => PointsOk.retain x rfl rfl rfl
        | exact fun x => PointsOk.restore x rfl rfl rfl
        | exact fun x => PointsOk.frozen x rfl rfl rfl
        | exact fun x => PointsOk.put x (quality_masked _)
        | exact fun x => PointsOk.putRetained x (quality_masked _)
        | skip
    | fail)

theorem keeps_applyRecut {s0 : State} (st : Nat) (e : Entry) (s : State) (hk : Keeps s0 s) :
    Keeps s0 (applyRecut st e s) := by
  unfold applyRecut
  repeat' (first
    | with_reducible assumption
    | with_reducible apply keeps_applyProg
    | with_reducible apply keeps_applyDesc
    | exact id ‹_›
    | with_reducible intro _
    | extract_lets
    | split
    | simp -zeta only [Keeps.mk_upd_iff]
    | dsimp +zetaDelta only)

theorem keeps_applyRestarts {s0 : State} (st : Nat) (e : Entry) (s : State) (hk : Keeps s0 s) :
    Keeps s0 (applyRestarts st e s) := by
  unfold applyRestarts
  repeat' (first
    | with_reducible assumption
    | with_reducible apply keeps_applyRestart
    | with_reducible intro _
    | extract_lets
    | split
    | simp -zeta only [Keeps.mk_upd_iff]
    | dsimp +zetaDelta only)

theorem keeps_applyWrites {s0 : State} (st : Nat) (e : Entry) (s : State) (hk : Keeps s0 s) :
    Keeps s0 (applyWrites st e s) := by
  unfold applyWrites
  repeat' (first
    | with_reducible assumption
    | with_reducible apply keeps_foldS
    | with_reducible apply keeps_hostWrite
    | with_reducible intro _
    | extract_lets
    | split
    | simp -zeta only [Keeps.mk_upd_iff]
    | dsimp +zetaDelta only)

theorem keeps_applyFreezes {s0 : State} (ended : Table (Option Word)) (st sess : Nat) (e : Entry) (s : State) (hk : Keeps s0 s) :
    Keeps s0 (applyFreezes ended st sess e s) := by
  unfold applyFreezes
  repeat' (first
    | with_reducible assumption
    | with_reducible apply keeps_freezePt
    | with_reducible apply keeps_releasePt
    | with_reducible intro _
    | extract_lets
    | split
    | simp -zeta only [Keeps.mk_upd_iff]
    | dsimp +zetaDelta only)

theorem keeps_applyCommits {s0 : State} (l : List Commit) (s : State) (hk : Keeps s0 s) :
    Keeps s0 (applyCommits l s) := by
  unfold applyCommits
  repeat' (first
    | with_reducible assumption
    | with_reducible apply keeps_foldS
    | with_reducible apply keeps_judgeCommissioning
    | with_reducible apply keeps_applyConfig
    | with_reducible apply keeps_trimSubs
    | with_reducible apply keeps_applyRecut
    | with_reducible apply keeps_applyRestarts
    | with_reducible apply keeps_applyWrites
    | with_reducible apply keeps_applyFreezes
    | with_reducible intro _
    | extract_lets
    | split
    | dsimp only
    | simp -zeta only [Keeps.mk_upd_iff]
    | dsimp +zetaDelta only)

theorem keeps_notifyCommit {s0 : State} (c : Commit) (s : State) (hk : Keeps s0 s) :
    Keeps s0 (notifyCommit c s) := by
  unfold notifyCommit
  repeat' (first
    | with_reducible assumption
    | with_reducible apply keeps_notify
    | with_reducible intro _
    | extract_lets
    | split
    | simp -zeta only [Keeps.mk_upd_iff]
    | dsimp +zetaDelta only)

theorem keeps_boundary {s0 : State} (s : State) (hk : Keeps s0 s) :
    Keeps s0 (boundary s) := by
  unfold boundary
  repeat' (first
    | with_reducible assumption
    | with_reducible apply keeps_foldS
    | with_reducible apply keeps_notifyCommit
    | with_reducible apply keeps_applyCommits
    | with_reducible intro _
    | extract_lets
    | split
    | simp -zeta only [Keeps.mk_upd_iff]
    | dsimp +zetaDelta only
    | (with_reducible apply Keeps.mk_sound) <;> first
        | exact id
        | exact Table.wf_set
        | exact fun _ => Table.wf_nil
        | exact fun x => ⟨Table.wf_set x.1, x.2⟩
        | exact fun x => ⟨x.1, Table.wf_set x.2⟩
        | exact fun x => ⟨x.2, x.2⟩
        | exact fun x => PointsOk.like x rfl rfl rfl
        | exact fun x => PointsOk.retain x rfl rfl rfl
        | exact fun x => PointsOk.restore x rfl rfl rfl
        | exact fun x => PointsOk.frozen x rfl rfl rfl
        | exact fun x => PointsOk.put x (quality_masked _)
        | exact fun x => PointsOk.putRetained x (quality_masked _)
        | skip
    | fail)

/-! ### Machine/Checks.lean -/


/-! ### Machine/Txn.lean -/

theorem keeps_putTx {s0 : State} (st : Nat) (t : Option Tx) (s : State) (hk : Keeps s0 s) :
    Keeps s0 (putTx st t s) := by
  unfold putTx
  repeat' (first
    | with_reducible assumption
    | with_reducible intro _
    | extract_lets
    | split
    | simp -zeta only [Keeps.mk_upd_iff]
    | dsimp +zetaDelta only
    | (with_reducible apply Keeps.mk_sound) <;> first
        | exact id
        | exact Table.wf_set
        | exact fun _ => Table.wf_nil
        | exact fun x => ⟨Table.wf_set x.1, x.2⟩
        | exact fun x => ⟨x.1, Table.wf_set x.2⟩
        | exact fun x => ⟨x.2, x.2⟩
        | exact fun x => PointsOk.like x rfl rfl rfl
        | exact fun x => PointsOk.retain x rfl rfl rfl
        | exact fun x => PointsOk.restore x rfl rfl rfl
        | exact fun x => PointsOk.frozen x rfl rfl rfl
        | exact fun x => PointsOk.put x (quality_masked _)
        | exact fun x => PointsOk.putRetained x (quality_masked _)
        | skip
    | fail)

theorem keeps_txEvent {s0 : State} (st : Nat) (num : Word) (committed : Bool) (cause : Nat) (image : Option Word) (s : State) (hk : Keeps s0 s) :
    Keeps s0 (txEvent st num committed cause image s) := by
  unfold txEvent
  repeat' (first
    | with_reducible assumption
    | with_reducible apply keeps_logEv
    | with_reducible intro _
    | extract_lets
    | split
    | simp -zeta only [Keeps.mk_upd_iff]
    | dsimp +zetaDelta only)

theorem keeps_rollback {s0 : State} (st cause : Nat) (s : State) (hk : Keeps s0 s) :
    Keeps s0 (rollback st cause s) := by
  unfold rollback
  repeat' (first
    | with_reducible assumption
    | with_reducible apply keeps_putTx
    | with_reducible apply keeps_txEvent
    | with_reducible intro _
    | extract_lets
    | split
    | simp -zeta only [Keeps.mk_upd_iff]
    | dsimp +zetaDelta only
    | (with_reducible apply Keeps.mk_sound) <;> first
        | exact id
        | exact Table.wf_set
        | exact fun _ => Table.wf_nil
        | exact fun x => ⟨Table.wf_set x.1, x.2⟩
        | exact fun x => ⟨x.1, Table.wf_set x.2⟩
        | exact fun x => ⟨x.2, x.2⟩
        | exact fun x => PointsOk.like x rfl rfl rfl
        | exact fun x => PointsOk.retain x rfl rfl rfl
        | exact fun x => PointsOk.restore x rfl rfl rfl
        | exact fun x => PointsOk.frozen x rfl rfl rfl
        | exact fun x => PointsOk.put x (quality_masked _)
        | exact fun x => PointsOk.putRetained x (quality_masked _)
        | skip
    | fail)

theorem keeps_withTx {s0 : State} (cn rq op : Nat) (role : Nat) (c : Conn) (s : State) (f : Tx → State → State) (hk : Keeps s0 s)
    (hk_f : ∀ x t, Keeps s0 t → Keeps s0 (f x t)) :
    Keeps s0 (withTx cn rq op role c s f) := by
  unfold withTx
  repeat' (first
    | with_reducible assumption
    | with_reducible apply hk_f
    | with_reducible apply keeps_done
    | with_reducible intro _
    | extract_lets
    | split
    | simp -zeta only [Keeps.mk_upd_iff]
    | dsimp +zetaDelta only
    | (with_reducible apply Keeps.mk_sound) <;> first
        | exact id
        | exact Table.wf_set
        | exact fun _ => Table.wf_nil
        | exact fun x => ⟨Table.wf_set x.1, x.2⟩
        | exact fun x => ⟨x.1, Table.wf_set x.2⟩
        | exact fun x => ⟨x.2, x.2⟩
        | exact fun x => PointsOk.like x rfl rfl rfl
        | exact fun x => PointsOk.retain x rfl rfl rfl
        | exact fun x => PointsOk.restore x rfl rfl rfl
        | exact fun x => PointsOk.frozen x rfl rfl rfl
        | exact fun x => PointsOk.put x (quality_masked _)
        | exact fun x => PointsOk.putRetained x (quality_masked _)
        | skip
    | fail)

theorem keeps_execTxbegin {s0 : State} (cn rq : Nat) (s : State) (hk : Keeps s0 s) :
    OutKeeps s0 (execTxbegin cn rq s) := by
  unfold execTxbegin
  repeat' (first
    | with_reducible assumption
    | with_reducible apply OutKeeps.next
    | with_reducible apply keeps_requestNow
    | with_reducible apply keeps_done
    | with_reducible apply keeps_putTx
    | with_reducible intro _
    | extract_lets
    | split
    | simp -zeta only [Keeps.mk_upd_iff]
    | dsimp +zetaDelta only
    | (with_reducible apply Keeps.mk_sound) <;> first
        | exact id
        | exact Table.wf_set
        | exact fun _ => Table.wf_nil
        | exact fun x => ⟨Table.wf_set x.1, x.2⟩
        | exact fun x => ⟨x.1, Table.wf_set x.2⟩
        | exact fun x => ⟨x.2, x.2⟩
        | exact fun x => PointsOk.like x rfl rfl rfl
        | exact fun x => PointsOk.retain x rfl rfl rfl
        | exact fun x => PointsOk.restore x rfl rfl rfl
        | exact fun x => PointsOk.frozen x rfl rfl rfl
        | exact fun x => PointsOk.put x (quality_masked _)
        | exact fun x => PointsOk.putRetained x (quality_masked _)
        | skip
    | fail)

theorem keeps_execTxrollback {s0 : State} (cn rq : Nat) (s : State) (hk : Keeps s0 s) :
    OutKeeps s0 (execTxrollback cn rq s) := by
  unfold execTxrollback
  repeat' (first
    | with_reducible assumption
    | with_reducible apply OutKeeps.next
    | with_reducible apply keeps_requestNow
    | with_reducible apply keeps_withTx
    | with_reducible apply keeps_done
    | with_reducible apply keeps_rollback
    | with_reducible intro _
    | extract_lets
    | split
    | simp -zeta only [Keeps.mk_upd_iff]
    | dsimp +zetaDelta only)

theorem keeps_execTxTimeout {s0 : State} (stage : Nat) (s : State) (hk : Keeps s0 s) :
    OutKeeps s0 (execTxTimeout stage s) := by
  unfold execTxTimeout
  repeat' (first
    | with_reducible assumption
    | with_reducible apply outKeeps_whenUpAnd
    | with_reducible apply OutKeeps.next
    | with_reducible apply keeps_rollback
    | with_reducible intro _
    | extract_lets
    | split
    | simp -zeta only [Keeps.mk_upd_iff]
    | dsimp +zetaDelta only)

theorem keeps_stageEntry {s0 : State} (cn rq : Nat) (c : Conn) (t : Tx) (e : Entry) (s : State) (hk : Keeps s0 s) :
    Keeps s0 (stageEntry cn rq c t e s) := by
  unfold stageEntry
  repeat' (first
    | with_reducible assumption
    | with_reducible apply keeps_putTx
    | with_reducible apply keeps_done
    | with_reducible intro _
    | extract_lets
    | split
    | simp -zeta only [Keeps.mk_upd_iff]
    | dsimp +zetaDelta only)

theorem keeps_execTxstage {s0 : State} (cn rq : Nat) (e : Entry) (more : Bool) (s : State) (hk : Keeps s0 s) :
    OutKeeps s0 (execTxstage cn rq e more s) := by
  unfold execTxstage
  repeat' (first
    | with_reducible assumption
    | with_reducible apply OutKeeps.next
    | with_reducible apply keeps_requestNow
    | with_reducible apply keeps_done
    | with_reducible apply keeps_withTx
    | with_reducible apply keeps_putTx
    | with_reducible apply keeps_stageEntry
    | with_reducible intro _
    | extract_lets
    | split
    | simp -zeta only [Keeps.mk_upd_iff]
    | dsimp +zetaDelta only)

theorem keeps_signEvent {s0 : State} (num : Word) (principal : Nat) (ok : Bool) (s : State) (hk : Keeps s0 s) :
    Keeps s0 (signEvent num principal ok s) := by
  unfold signEvent
  repeat' (first
    | with_reducible assumption
    | with_reducible apply keeps_logEv
    | with_reducible intro _
    | extract_lets
    | split
    | simp -zeta only [Keeps.mk_upd_iff]
    | dsimp +zetaDelta only)

theorem keeps_execTxsign {s0 : State} (cn rq : Nat) (digest : BitVec 384) (sig : BitVec 512) (s : State) (hk : Keeps s0 s) :
    OutKeeps s0 (execTxsign cn rq digest sig s) := by
  unfold execTxsign
  repeat' (first
    | with_reducible assumption
    | with_reducible apply OutKeeps.next
    | with_reducible apply keeps_requestNow
    | with_reducible apply keeps_done
    | with_reducible apply keeps_signEvent
    | with_reducible apply keeps_fireSource
    | with_reducible apply keeps_putTx
    | with_reducible intro _
    | extract_lets
    | split
    | simp -zeta only [Keeps.mk_upd_iff]
    | dsimp +zetaDelta only
    | (with_reducible apply Keeps.mk_sound) <;> first
        | exact id
        | exact Table.wf_set
        | exact fun _ => Table.wf_nil
        | exact fun x => ⟨Table.wf_set x.1, x.2⟩
        | exact fun x => ⟨x.1, Table.wf_set x.2⟩
        | exact fun x => ⟨x.2, x.2⟩
        | exact fun x => PointsOk.like x rfl rfl rfl
        | exact fun x => PointsOk.retain x rfl rfl rfl
        | exact fun x => PointsOk.restore x rfl rfl rfl
        | exact fun x => PointsOk.frozen x rfl rfl rfl
        | exact fun x => PointsOk.put x (quality_masked _)
        | exact fun x => PointsOk.putRetained x (quality_masked _)
        | skip
    | fail)

theorem keeps_execTxstatus {s0 : State} (cn rq : Nat) (s : State) (hk : Keeps s0 s) :
    OutKeeps s0 (execTxstatus cn rq s) := by
  unfold execTxstatus
  repeat' (first
    | with_reducible assumption
    | with_reducible apply OutKeeps.next
    | with_reducible apply keeps_requestNow
    | with_reducible apply keeps_withTx
    | with_reducible apply keeps_done
    | with_reducible intro _
    | extract_lets
    | split
    | simp -zeta only [Keeps.mk_upd_iff]
    | dsimp +zetaDelta only)

theorem keeps_storeImage {s0 : State} (st : Nat) (bs : List Byte) (active : Bool) (s : State) (hk : Keeps s0 s) :
    Keeps s0 (storeImage st bs active s) := by
  unfold storeImage
  repeat' (first
    | with_reducible assumption
    | with_reducible apply keeps_addJobs
    | with_reducible apply keeps_recopy
    | exact id ‹_›
    | with_reducible intro _
    | extract_lets
    | split
    | simp -zeta only [Keeps.mk_upd_iff]
    | dsimp +zetaDelta only
    | (with_reducible apply Keeps.mk_sound) <;> first
        | exact id
        | exact Table.wf_set
        | exact fun _ => Table.wf_nil
        | exact fun x => ⟨Table.wf_set x.1, x.2⟩
        | exact fun x => ⟨x.1, Table.wf_set x.2⟩
        | exact fun x => ⟨x.2, x.2⟩
        | exact fun x => PointsOk.like x rfl rfl rfl
        | exact fun x => PointsOk.retain x rfl rfl rfl
        | exact fun x => PointsOk.restore x rfl rfl rfl
        | exact fun x => PointsOk.frozen x rfl rfl rfl
        | exact fun x => PointsOk.put x (quality_masked _)
        | exact fun x => PointsOk.putRetained x (quality_masked _)
        | skip
    | fail)

theorem keeps_makeCommit {s0 : State} (c : Commit) (s : State) (hk : Keeps s0 s) :
    Keeps s0 (makeCommit c s) := by
  unfold makeCommit
  extract_lets img s1 r s2
  clear_value img
  have h1 : Keeps s0 s1 := by
    show Keeps s0 (match img with | some bs => storeImage c.stage bs true s | none => s)
    cases img
    · exact hk
    · exact keeps_storeImage _ _ _ _ hk
  have h2 : Keeps s0 s2 := by
    dsimp only [s2]
    split
    · exact keeps_putStg _ _ _ h1
    · exact h1
  refine keeps_txEvent _ _ _ _ _ _ (keeps_putTx _ _ _ ?_)
  exact ⟨h2.pending, h2.now, h2.variant, h2.draws, h2.image, fun x => { h2.tables x with }⟩

theorem keeps_finishCommit {s0 : State} (cn rq st : Nat) (t : Tx) (s : State) (hk : Keeps s0 s) :
    Keeps s0 (finishCommit cn rq st t s) := by
  unfold finishCommit
  repeat' (first
    | with_reducible assumption
    | with_reducible apply keeps_endOp
    | with_reducible apply keeps_makeCommit
    | with_reducible intro _
    | extract_lets
    | split
    | simp -zeta only [Keeps.mk_upd_iff]
    | dsimp +zetaDelta only)

theorem keeps_execTxcommit {s0 : State} (cn rq : Nat) (s : State) (hk : Keeps s0 s) :
    OutKeeps s0 (execTxcommit cn rq s) := by
  unfold execTxcommit
  repeat' (first
    | with_reducible assumption
    | with_reducible apply OutKeeps.next
    | with_reducible apply keeps_requestNow
    | with_reducible apply keeps_withTx
    | with_reducible apply keeps_done
    | with_reducible apply keeps_finishCommit
    | with_reducible intro _
    | extract_lets
    | split
    | dsimp only
    | simp -zeta only [Keeps.mk_upd_iff]
    | dsimp +zetaDelta only
    | (with_reducible apply Keeps.mk_sound) <;> first
        | exact id
        | exact Table.wf_set
        | exact fun _ => Table.wf_nil
        | exact fun x => ⟨Table.wf_set x.1, x.2⟩
        | exact fun x => ⟨x.1, Table.wf_set x.2⟩
        | exact fun x => ⟨x.2, x.2⟩
        | exact fun x => PointsOk.like x rfl rfl rfl
        | exact fun x => PointsOk.retain x rfl rfl rfl
        | exact fun x => PointsOk.restore x rfl rfl rfl
        | exact fun x => PointsOk.frozen x rfl rfl rfl
        | exact fun x => PointsOk.put x (quality_masked _)
        | exact fun x => PointsOk.putRetained x (quality_masked _)
        | skip
    | fail)

theorem keeps_heldCommit {s0 : State} (e : Nat × Nat × Nat) (s : State) (hk : Keeps s0 s) :
    Keeps s0 (heldCommit e s) := by
  unfold heldCommit
  repeat' (first
    | with_reducible assumption
    | with_reducible apply keeps_endOp
    | with_reducible apply keeps_finishCommit
    | with_reducible intro _
    | extract_lets
    | split
    | dsimp only
    | simp -zeta only [Keeps.mk_upd_iff]
    | dsimp +zetaDelta only)

theorem keeps_heldCommits {s0 : State} (s : State) (hk : Keeps s0 s) :
    Keeps s0 (heldCommits s) := by
  unfold heldCommits
  repeat' (first
    | with_reducible assumption
    | with_reducible apply keeps_foldS
    | with_reducible apply keeps_heldCommit
    | with_reducible intro _
    | extract_lets
    | split
    | dsimp only
    | simp -zeta only [Keeps.mk_upd_iff]
    | dsimp +zetaDelta only
    | (with_reducible apply Keeps.mk_sound) <;> first
        | exact id
        | exact Table.wf_set
        | exact fun _ => Table.wf_nil
        | exact fun x => ⟨Table.wf_set x.1, x.2⟩
        | exact fun x => ⟨x.1, Table.wf_set x.2⟩
        | exact fun x => ⟨x.2, x.2⟩
        | exact fun x => PointsOk.like x rfl rfl rfl
        | exact fun x => PointsOk.retain x rfl rfl rfl
        | exact fun x => PointsOk.restore x rfl rfl rfl
        | exact fun x => PointsOk.frozen x rfl rfl rfl
        | exact fun x => PointsOk.put x (quality_masked _)
        | exact fun x => PointsOk.putRetained x (quality_masked _)
        | skip
    | fail)

theorem keeps_execKeyReplaceDone {s0 : State} (kat : Bool) (s : State) (hk : Keeps s0 s) :
    OutKeeps s0 (execKeyReplaceDone kat s) := by
  unfold execKeyReplaceDone
  repeat' (first
    | with_reducible assumption
    | with_reducible apply outKeeps_whenUpAnd
    | with_reducible apply OutKeeps.next
    | with_reducible apply keeps_swapKey
    | with_reducible apply keeps_failKey
    | with_reducible apply keeps_dropRepl
    | with_reducible apply keeps_keyEvent
    | with_reducible apply keeps_startRepl
    | with_reducible apply keeps_heldCommits
    | with_reducible apply keeps_closeSessions
    | with_reducible intro _
    | extract_lets
    | split
    | simp -zeta only [Keeps.mk_upd_iff]
    | dsimp +zetaDelta only)

theorem keeps_execLibstore {s0 : State} (cn rq : Nat) (image : List Byte) (s : State) (hk : Keeps s0 s) :
    OutKeeps s0 (execLibstore cn rq image s) := by
  unfold execLibstore
  repeat' (first
    | with_reducible assumption
    | with_reducible apply OutKeeps.next
    | with_reducible apply keeps_requestNow
    | with_reducible apply keeps_done
    | with_reducible apply keeps_storeImage
    | exact id ‹_›
    | with_reducible intro _
    | extract_lets
    | split
    | simp -zeta only [Keeps.mk_upd_iff]
    | dsimp +zetaDelta only)

theorem keeps_execLibdel {s0 : State} (cn rq : Nat) (imageId : Word) (s : State) (hk : Keeps s0 s) :
    OutKeeps s0 (execLibdel cn rq imageId s) := by
  unfold execLibdel
  repeat' (first
    | with_reducible assumption
    | with_reducible apply OutKeeps.next
    | with_reducible apply keeps_requestNow
    | with_reducible apply keeps_done
    | with_reducible intro _
    | extract_lets
    | split
    | simp -zeta only [Keeps.mk_upd_iff]
    | dsimp +zetaDelta only
    | (with_reducible apply Keeps.mk_sound) <;> first
        | exact id
        | exact Table.wf_set
        | exact fun _ => Table.wf_nil
        | exact fun x => ⟨Table.wf_set x.1, x.2⟩
        | exact fun x => ⟨x.1, Table.wf_set x.2⟩
        | exact fun x => ⟨x.2, x.2⟩
        | exact fun x => PointsOk.like x rfl rfl rfl
        | exact fun x => PointsOk.retain x rfl rfl rfl
        | exact fun x => PointsOk.restore x rfl rfl rfl
        | exact fun x => PointsOk.frozen x rfl rfl rfl
        | exact fun x => PointsOk.put x (quality_masked _)
        | exact fun x => PointsOk.putRetained x (quality_masked _)
        | skip
    | fail)

end Sys2Proof.Machine
end

