-- ==== Sys2Proof/Laws/KeepsTime.lean ====
section
/-! SUPPORT. What the clock, updates, recovery and integrity keep of a state: the queue, the clock, the variant, the count
of free values, and a sound point image and sound tables. One lemma for each operation and for each meaning. -/

namespace Sys2Proof.Machine
open Sys2Proof

/-! ### Machine/Calendar.lean -/

theorem keeps_latchTime {s0 : State} (s : State) (hk : Keeps s0 s) :
    Keeps s0 (latchTime s) := by
  unfold latchTime
  repeat' (first
    | with_reducible assumption
    | with_reducible intro _
    | extract_lets
    | split
    | simp -zeta only [Keeps.mk_upd_iff]
    | dsimp +zetaDelta only)

theorem keeps_putAlarm {s0 : State} (a : Nat) (x : Alarm) (s : State) (hk : Keeps s0 s) :
    Keeps s0 (putAlarm a x s) := by
  unfold putAlarm
  repeat' (first
    | with_reducible assumption
    | with_reducible intro _
    | extract_lets
    | split
    | simp -zeta only [Keeps.mk_upd_iff]
    | dsimp +zetaDelta only)

theorem keeps_fireAlarm {s0 : State} (a : Nat) (late rpt : Bool) (s : State) (hk : Keeps s0 s) :
    Keeps s0 (fireAlarm a late rpt s) := by
  unfold fireAlarm
  repeat' (first
    | with_reducible assumption
    | with_reducible apply keeps_logEv
    | with_reducible apply keeps_putAlarm
    | with_reducible intro _
    | extract_lets
    | split
    | simp -zeta only [Keeps.mk_upd_iff]
    | dsimp +zetaDelta only)

theorem keeps_judgeAlarm {s0 : State} (fresh : Bool) (a : Nat) (s : State) (hk : Keeps s0 s) :
    Keeps s0 (judgeAlarm fresh a s) := by
  unfold judgeAlarm
  repeat' (first
    | with_reducible assumption
    | with_reducible apply keeps_putAlarm
    | with_reducible apply keeps_fireAlarm
    | with_reducible intro _
    | extract_lets
    | split
    | simp -zeta only [Keeps.mk_upd_iff]
    | dsimp +zetaDelta only)

theorem keeps_judgeAlarms {s0 : State} (fresh : Bool) (s : State) (hk : Keeps s0 s) :
    Keeps s0 (judgeAlarms fresh s) := by
  unfold judgeAlarms
  repeat' (first
    | with_reducible assumption
    | with_reducible apply keeps_judgeAlarm
    | with_reducible intro _
    | extract_lets
    | split
    | simp -zeta only [Keeps.mk_upd_iff]
    | dsimp +zetaDelta only)

theorem keeps_remarkAlarms {s0 : State} (s : State) (hk : Keeps s0 s) :
    Keeps s0 (remarkAlarms s) := by
  unfold remarkAlarms
  repeat' (first
    | with_reducible assumption
    | with_reducible apply keeps_foldS
    | with_reducible apply keeps_putAlarm
    | with_reducible intro _
    | extract_lets
    | split
    | simp -zeta only [Keeps.mk_upd_iff]
    | dsimp +zetaDelta only)

theorem keeps_writeAlarms {s0 : State} (s : State) (hk : Keeps s0 s) :
    Keeps s0 (writeAlarms s) := by
  unfold writeAlarms
  repeat' (first
    | with_reducible assumption
    | with_reducible apply keeps_foldS
    | with_reducible apply keeps_enterPt
    | with_reducible intro _
    | extract_lets
    | split
    | simp -zeta only [Keeps.mk_upd_iff]
    | dsimp +zetaDelta only)

/-! ### Machine/Clock.lean -/

theorem keeps_lapseLeap {s0 : State} (s : State) (hk : Keeps s0 s) :
    Keeps s0 (lapseLeap s) := by
  unfold lapseLeap
  repeat' (first
    | with_reducible assumption
    | with_reducible apply keeps_logEv
    | with_reducible intro _
    | extract_lets
    | split
    | simp -zeta only [Keeps.mk_upd_iff]
    | dsimp +zetaDelta only)

theorem keeps_stepHour {s0 : State} (s : State) (hk : Keeps s0 s) :
    Keeps s0 (stepHour s) := by
  unfold stepHour
  repeat' (first
    | with_reducible assumption
    | with_reducible apply keeps_logEv
    | with_reducible intro _
    | extract_lets
    | split
    | simp -zeta only [Keeps.mk_upd_iff]
    | dsimp +zetaDelta only)

theorem keeps_setCount {s0 : State} (c : BitVec 40) (frac : Nat) (s : State) (hk : Keeps s0 s) :
    Keeps s0 (setCount c frac s) := by
  unfold setCount
  repeat' (first
    | with_reducible assumption
    | with_reducible apply keeps_logEv
    | with_reducible apply keeps_stepHour
    | with_reducible apply keeps_lapseLeap
    | with_reducible intro _
    | extract_lets
    | split
    | simp -zeta only [Keeps.mk_upd_iff]
    | dsimp +zetaDelta only)

theorem keeps_setTime {s0 : State} (c : BitVec 40) (s : State) (hk : Keeps s0 s) :
    Keeps s0 (setTime c s) := by
  unfold setTime
  repeat' (first
    | with_reducible assumption
    | with_reducible apply keeps_judgeAlarms
    | with_reducible apply keeps_setCount
    | with_reducible intro _
    | extract_lets
    | split
    | simp -zeta only [Keeps.mk_upd_iff]
    | dsimp +zetaDelta only)

theorem keeps_judgeHoldover {s0 : State} (s : State) (hk : Keeps s0 s) :
    Keeps s0 (judgeHoldover s) := by
  unfold judgeHoldover
  repeat' (first
    | with_reducible assumption
    | with_reducible intro _
    | extract_lets
    | split
    | simp -zeta only [Keeps.mk_upd_iff]
    | dsimp +zetaDelta only)

theorem keeps_setLock {s0 : State} (b : Bool) (s : State) (hk : Keeps s0 s) :
    Keeps s0 (setLock b s) := by
  unfold setLock
  repeat' (first
    | with_reducible assumption
    | with_reducible apply keeps_judgeHoldover
    | with_reducible intro _
    | extract_lets
    | split
    | simp -zeta only [Keeps.mk_upd_iff]
    | dsimp +zetaDelta only)

theorem keeps_execHoldoverExpiry {s0 : State} (s : State) (hk : Keeps s0 s) :
    OutKeeps s0 (execHoldoverExpiry s) := by
  unfold execHoldoverExpiry
  repeat' (first
    | with_reducible assumption
    | with_reducible apply outKeeps_whenUp
    | with_reducible apply OutKeeps.next
    | with_reducible apply keeps_judgeHoldover
    | with_reducible intro _
    | extract_lets
    | split
    | simp -zeta only [Keeps.mk_upd_iff]
    | dsimp +zetaDelta only)

theorem keeps_ptpLeap {s0 : State} (leap61 leap59 : Bool) (s : State) (hk : Keeps s0 s) :
    Keeps s0 (ptpLeap leap61 leap59 s) := by
  unfold ptpLeap
  repeat' (first
    | with_reducible assumption
    | with_reducible intro _
    | extract_lets
    | split
    | simp -zeta only [Keeps.mk_upd_iff]
    | dsimp +zetaDelta only)

theorem keeps_setRate {s0 : State} (rate : Int) (s : State) (hk : Keeps s0 s) :
    Keeps s0 (setRate rate s) := by
  unfold setRate
  repeat' (first
    | with_reducible assumption
    | with_reducible intro _
    | extract_lets
    | split
    | simp -zeta only [Keeps.mk_upd_iff]
    | dsimp +zetaDelta only)

theorem keeps_slewTo {s0 : State} (e : Int) (s : State) (hk : Keeps s0 s) :
    Keeps s0 (slewTo e s) := by
  unfold slewTo
  repeat' (first
    | with_reducible assumption
    | with_reducible apply keeps_drawIn
    | with_reducible apply keeps_setRate
    | with_reducible intro _
    | extract_lets
    | split
    | dsimp only
    | simp -zeta only [Keeps.mk_upd_iff]
    | dsimp +zetaDelta only)

theorem keeps_execPtpSync {s0 : State} (x : PtpMsg) (leap61 leap59 : Bool) (tai : Option Nat) (s : State) (hk : Keeps s0 s) :
    OutKeeps s0 (execPtpSync x leap61 leap59 tai s) := by
  unfold execPtpSync
  repeat' (first
    | with_reducible assumption
    | with_reducible apply outKeeps_whenUpAnd
    | with_reducible apply OutKeeps.next
    | with_reducible apply keeps_ptpLeap
    | with_reducible apply keeps_slewTo
    | with_reducible apply keeps_setLock
    | with_reducible intro _
    | extract_lets
    | split
    | simp -zeta only [Keeps.mk_upd_iff]
    | dsimp +zetaDelta only)

theorem keeps_execPtpSyncTimeout {s0 : State} (s : State) (hk : Keeps s0 s) :
    OutKeeps s0 (execPtpSyncTimeout s) := by
  unfold execPtpSyncTimeout
  repeat' (first
    | with_reducible assumption
    | with_reducible apply outKeeps_whenUpAnd
    | with_reducible apply OutKeeps.next
    | with_reducible apply keeps_setLock
    | with_reducible intro _
    | extract_lets
    | split
    | simp -zeta only [Keeps.mk_upd_iff]
    | dsimp +zetaDelta only)

theorem keeps_countOn {s0 : State} (s : State) (hk : Keeps s0 s) :
    Keeps s0 (countOn s) := by
  unfold countOn
  repeat' (first
    | with_reducible assumption
    | with_reducible intro _
    | extract_lets
    | split
    | simp -zeta only [Keeps.mk_upd_iff]
    | dsimp +zetaDelta only)

theorem keeps_stepPtp {s0 : State} (s : State) (hk : Keeps s0 s) :
    Keeps s0 (stepPtp s) := by
  unfold stepPtp
  repeat' (first
    | with_reducible assumption
    | with_reducible apply keeps_setCount
    | with_reducible intro _
    | extract_lets
    | split
    | simp -zeta only [Keeps.mk_upd_iff]
    | dsimp +zetaDelta only)

theorem keeps_applySetofs {s0 : State} (s : State) (hk : Keeps s0 s) :
    Keeps s0 (applySetofs s) := by
  unfold applySetofs
  repeat' (first
    | with_reducible assumption
    | with_reducible intro _
    | extract_lets
    | split
    | simp -zeta only [Keeps.mk_upd_iff]
    | dsimp +zetaDelta only)

theorem keeps_dueHour {s0 : State} (s : State) (hk : Keeps s0 s) :
    Keeps s0 (dueHour s) := by
  unfold dueHour
  repeat' (first
    | with_reducible assumption
    | with_reducible apply keeps_stepHour
    | with_reducible intro _
    | extract_lets
    | split
    | simp -zeta only [Keeps.mk_upd_iff]
    | dsimp +zetaDelta only)

theorem keeps_applyAlmset {s0 : State} (a : Nat) (s : State) (hk : Keeps s0 s) :
    Keeps s0 (applyAlmset a s) := by
  unfold applyAlmset
  repeat' (first
    | with_reducible assumption
    | with_reducible apply keeps_putAlarm
    | with_reducible intro _
    | extract_lets
    | split
    | simp -zeta only [Keeps.mk_upd_iff]
    | dsimp +zetaDelta only)

theorem keeps_execRtcIncrement {s0 : State} (s : State) (hk : Keeps s0 s) :
    OutKeeps s0 (execRtcIncrement s) := by
  unfold execRtcIncrement
  repeat' (first
    | with_reducible assumption
    | with_reducible apply OutKeeps.next
    | with_reducible apply keeps_applyAlmset
    | with_reducible apply keeps_dueHour
    | with_reducible apply keeps_stepPtp
    | with_reducible apply keeps_applySetofs
    | with_reducible apply keeps_countOn
    | with_reducible apply keeps_lapseLeap
    | with_reducible apply keeps_remarkAlarms
    | with_reducible apply keeps_judgeAlarms
    | with_reducible intro _
    | extract_lets
    | split
    | simp -zeta only [Keeps.mk_upd_iff]
    | dsimp +zetaDelta only)

theorem keeps_resumeFrac {s0 : State} (s : State) (hk : Keeps s0 s) :
    Keeps s0 (resumeFrac s) := by
  unfold resumeFrac
  repeat' (first
    | with_reducible assumption
    | with_reducible intro _
    | extract_lets
    | split
    | simp -zeta only [Keeps.mk_upd_iff]
    | dsimp +zetaDelta only)

theorem keeps_execOscillatorStop {s0 : State} (s : State) (hk : Keeps s0 s) :
    OutKeeps s0 (execOscillatorStop s) := by
  unfold execOscillatorStop
  repeat' (first
    | with_reducible assumption
    | with_reducible apply OutKeeps.next
    | with_reducible intro _
    | extract_lets
    | split
    | simp -zeta only [Keeps.mk_upd_iff]
    | dsimp +zetaDelta only)

theorem keeps_execOscillatorRestart {s0 : State} (s : State) (hk : Keeps s0 s) :
    OutKeeps s0 (execOscillatorRestart s) := by
  unfold execOscillatorRestart
  repeat' (first
    | with_reducible assumption
    | with_reducible apply OutKeeps.next
    | with_reducible apply keeps_resumeFrac
    | with_reducible intro _
    | extract_lets
    | split
    | simp -zeta only [Keeps.mk_upd_iff]
    | dsimp +zetaDelta only)

theorem keeps_execVbatBrownout {s0 : State} (s : State) (hk : Keeps s0 s) :
    OutKeeps s0 (execVbatBrownout s) := by
  unfold execVbatBrownout
  repeat' (first
    | with_reducible assumption
    | with_reducible apply OutKeeps.next
    | with_reducible intro _
    | extract_lets
    | split
    | simp -zeta only [Keeps.mk_upd_iff]
    | dsimp +zetaDelta only)

theorem keeps_recoverRtc {s0 : State} (s : State) (hk : Keeps s0 s) :
    Keeps s0 (recoverRtc s) := by
  unfold recoverRtc
  repeat' (first
    | with_reducible assumption
    | with_reducible intro _
    | extract_lets
    | split
    | simp -zeta only [Keeps.mk_upd_iff]
    | dsimp +zetaDelta only)

theorem keeps_execVbatRestore {s0 : State} (s : State) (hk : Keeps s0 s) :
    OutKeeps s0 (execVbatRestore s) := by
  unfold execVbatRestore
  repeat' (first
    | with_reducible assumption
    | with_reducible apply OutKeeps.next
    | with_reducible apply keeps_recoverRtc
    | with_reducible intro _
    | extract_lets
    | split
    | simp -zeta only [Keeps.mk_upd_iff]
    | dsimp +zetaDelta only)

theorem keeps_timeOp {s0 : State} (cn rq op : Nat) (s : State) (f : State → Nat × List Word × State) (hk : Keeps s0 s)
    (hk_f : ∀ t, Keeps s0 t → Keeps s0 (f t).2.2) :
    OutKeeps s0 (timeOp cn rq op s f) := by
  unfold timeOp
  repeat' (first
    | with_reducible assumption
    | with_reducible apply OutKeeps.next
    | with_reducible apply hk_f
    | with_reducible apply keeps_requestNow
    | with_reducible apply keeps_done
    | with_reducible intro _
    | extract_lets
    | split
    | dsimp only
    | simp -zeta only [Keeps.mk_upd_iff]
    | dsimp +zetaDelta only)

theorem keeps_refuseTime {s0 : State} (status : Nat) (s : State) (hk : Keeps s0 s) :
    Keeps s0 (refuseTime status s).2.2 := by
  unfold refuseTime
  repeat' (first
    | with_reducible assumption
    | with_reducible intro _
    | extract_lets
    | split
    | dsimp only
    | simp -zeta only [Keeps.mk_upd_iff]
    | dsimp +zetaDelta only)

theorem keeps_execTimeget {s0 : State} (cn rq : Nat) (s : State) (hk : Keeps s0 s) :
    OutKeeps s0 (execTimeget cn rq s) := by
  unfold execTimeget
  repeat' (first
    | with_reducible assumption
    | with_reducible apply OutKeeps.next
    | with_reducible apply keeps_timeOp
    | with_reducible intro _
    | extract_lets
    | split
    | simp -zeta only [Keeps.mk_upd_iff]
    | dsimp +zetaDelta only)

theorem keeps_execSetsec {s0 : State} (cn rq : Nat) (count : BitVec 40) (s : State) (hk : Keeps s0 s) :
    OutKeeps s0 (execSetsec cn rq count s) := by
  unfold execSetsec
  repeat' (first
    | with_reducible assumption
    | with_reducible apply OutKeeps.next
    | with_reducible apply keeps_timeOp
    | with_reducible apply keeps_refuseTime
    | with_reducible apply keeps_setTime
    | with_reducible intro _
    | extract_lets
    | split
    | simp -zeta only [Keeps.mk_upd_iff]
    | dsimp +zetaDelta only)

theorem keeps_execSetcal {s0 : State} (cn rq y mo d hh mi ss base : Nat) (s : State) (hk : Keeps s0 s) :
    OutKeeps s0 (execSetcal cn rq y mo d hh mi ss base s) := by
  unfold execSetcal
  repeat' (first
    | with_reducible assumption
    | with_reducible apply OutKeeps.next
    | with_reducible apply keeps_timeOp
    | with_reducible apply keeps_refuseTime
    | with_reducible apply keeps_setTime
    | with_reducible intro _
    | extract_lets
    | split
    | simp -zeta only [Keeps.mk_upd_iff]
    | dsimp +zetaDelta only)

theorem keeps_execSetofs {s0 : State} (cn rq : Nat) (ofs : Int) (s : State) (hk : Keeps s0 s) :
    OutKeeps s0 (execSetofs cn rq ofs s) := by
  unfold execSetofs
  repeat' (first
    | with_reducible assumption
    | with_reducible apply OutKeeps.next
    | with_reducible apply keeps_timeOp
    | with_reducible apply keeps_refuseTime
    | with_reducible intro _
    | extract_lets
    | split
    | simp -zeta only [Keeps.mk_upd_iff]
    | dsimp +zetaDelta only)

theorem keeps_execDststep {s0 : State} (cn rq dir at_ : Nat) (s : State) (hk : Keeps s0 s) :
    OutKeeps s0 (execDststep cn rq dir at_ s) := by
  unfold execDststep
  repeat' (first
    | with_reducible assumption
    | with_reducible apply OutKeeps.next
    | with_reducible apply keeps_timeOp
    | with_reducible apply keeps_refuseTime
    | with_reducible intro _
    | extract_lets
    | split
    | simp -zeta only [Keeps.mk_upd_iff]
    | dsimp +zetaDelta only)

theorem keeps_execLeap {s0 : State} (cn rq y mo d sign : Nat) (s : State) (hk : Keeps s0 s) :
    OutKeeps s0 (execLeap cn rq y mo d sign s) := by
  unfold execLeap
  repeat' (first
    | with_reducible assumption
    | with_reducible apply OutKeeps.next
    | with_reducible apply keeps_timeOp
    | with_reducible apply keeps_refuseTime
    | with_reducible intro _
    | extract_lets
    | split
    | simp -zeta only [Keeps.mk_upd_iff]
    | dsimp +zetaDelta only)

theorem keeps_execAlmset {s0 : State} (cn rq al : Nat) (w0 w1 w2 : Word) (s : State) (hk : Keeps s0 s) :
    OutKeeps s0 (execAlmset cn rq al w0 w1 w2 s) := by
  unfold execAlmset
  repeat' (first
    | with_reducible assumption
    | with_reducible apply OutKeeps.next
    | with_reducible apply keeps_requestNow
    | with_reducible apply keeps_done
    | with_reducible apply keeps_putAlarm
    | with_reducible intro _
    | extract_lets
    | split
    | simp -zeta only [Keeps.mk_upd_iff]
    | dsimp +zetaDelta only)

theorem keeps_putTimecfg {s0 : State} (w : Word) (s : State) (hk : Keeps s0 s) :
    Keeps s0 (putTimecfg w s) := by
  unfold putTimecfg
  repeat' (first
    | with_reducible assumption
    | with_reducible apply keeps_judgeHoldover
    | with_reducible apply keeps_setLock
    | with_reducible intro _
    | extract_lets
    | split
    | simp -zeta only [Keeps.mk_upd_iff]
    | dsimp +zetaDelta only)

theorem keeps_execTimecfg {s0 : State} (cn rq : Nat) (w : Word) (s : State) (hk : Keeps s0 s) :
    OutKeeps s0 (execTimecfg cn rq w s) := by
  unfold execTimecfg
  repeat' (first
    | with_reducible assumption
    | with_reducible apply OutKeeps.next
    | with_reducible apply keeps_timeOp
    | with_reducible apply keeps_putTimecfg
    | with_reducible apply keeps_refuseTime
    | with_reducible intro _
    | extract_lets
    | split
    | simp -zeta only [Keeps.mk_upd_iff]
    | dsimp +zetaDelta only)

/-! ### Machine/Update.lean -/

theorem keeps_putBank {s0 : State} (kind : Nat) (b : Bool) (x : Bank) (s : State) (hk : Keeps s0 s) :
    Keeps s0 (putBank kind b x s) := by
  unfold putBank
  repeat' (first
    | with_reducible assumption
    | with_reducible intro _
    | extract_lets
    | split
    | simp -zeta only [Keeps.mk_upd_iff]
    | dsimp +zetaDelta only
    | (with_reducible apply Keeps.mk_sound) <;> first
        | exact id
        | exact Table.wf_set
        | exact fun _ => Table.wf_nil
        | exact fun x => ⟨Table.wf_set x.1, x.2⟩
        | exact fun x => ⟨x.1, Table.wf_set x.2⟩
        | exact fun x => ⟨x.2, x.2⟩
        | exact fun x => PointsOk.like x rfl rfl rfl
        | exact fun x => PointsOk.retain x rfl rfl rfl
        | exact fun x => PointsOk.restore x rfl rfl rfl
        | exact fun x => PointsOk.frozen x rfl rfl rfl
        | exact fun x => PointsOk.put x (quality_masked _)
        | exact fun x => PointsOk.putRetained x (quality_masked _)
        | skip
    | fail)

theorem keeps_putInB {s0 : State} (kind : Nat) (b : Bool) (s : State) (hk : Keeps s0 s) :
    Keeps s0 (putInB kind b s) := by
  unfold putInB
  repeat' (first
    | with_reducible assumption
    | with_reducible intro _
    | extract_lets
    | split
    | simp -zeta only [Keeps.mk_upd_iff]
    | dsimp +zetaDelta only
    | (with_reducible apply Keeps.mk_sound) <;> first
        | exact id
        | exact Table.wf_set
        | exact fun _ => Table.wf_nil
        | exact fun x => ⟨Table.wf_set x.1, x.2⟩
        | exact fun x => ⟨x.1, Table.wf_set x.2⟩
        | exact fun x => ⟨x.2, x.2⟩
        | exact fun x => PointsOk.like x rfl rfl rfl
        | exact fun x => PointsOk.retain x rfl rfl rfl
        | exact fun x => PointsOk.restore x rfl rfl rfl
        | exact fun x => PointsOk.frozen x rfl rfl rfl
        | exact fun x => PointsOk.put x (quality_masked _)
        | exact fun x => PointsOk.putRetained x (quality_masked _)
        | skip
    | fail)

theorem keeps_updateOp {s0 : State} (cn rq op len : Nat) (s : State) (f : Conn → State → State) (hk : Keeps s0 s)
    (hk_f : ∀ x t, Keeps s0 t → Keeps s0 (f x t)) :
    OutKeeps s0 (updateOp cn rq op len s f) := by
  unfold updateOp
  repeat' (first
    | with_reducible assumption
    | with_reducible apply OutKeeps.next
    | with_reducible apply hk_f
    | with_reducible apply keeps_requestNow
    | with_reducible apply keeps_done
    | with_reducible intro _
    | extract_lets
    | split
    | simp -zeta only [Keeps.mk_upd_iff]
    | dsimp +zetaDelta only)

theorem keeps_execUpdstatus {s0 : State} (cn rq : Nat) (s : State) (hk : Keeps s0 s) :
    OutKeeps s0 (execUpdstatus cn rq s) := by
  unfold execUpdstatus
  repeat' (first
    | with_reducible assumption
    | with_reducible apply OutKeeps.next
    | with_reducible apply keeps_updateOp
    | with_reducible apply keeps_done
    | with_reducible intro _
    | extract_lets
    | split
    | dsimp only
    | simp -zeta only [Keeps.mk_upd_iff]
    | dsimp +zetaDelta only)

theorem keeps_rejectUpd {s0 : State} (cn rq op code secno index ref : Nat) (c : Conn) (s : State) (hk : Keeps s0 s) :
    Keeps s0 (rejectUpd cn rq op code secno index ref c s) := by
  unfold rejectUpd
  repeat' (first
    | with_reducible assumption
    | with_reducible apply keeps_done
    | with_reducible intro _
    | extract_lets
    | split
    | simp -zeta only [Keeps.mk_upd_iff]
    | dsimp +zetaDelta only
    | (with_reducible apply Keeps.mk_sound) <;> first
        | exact id
        | exact Table.wf_set
        | exact fun _ => Table.wf_nil
        | exact fun x => ⟨Table.wf_set x.1, x.2⟩
        | exact fun x => ⟨x.1, Table.wf_set x.2⟩
        | exact fun x => ⟨x.2, x.2⟩
        | exact fun x => PointsOk.like x rfl rfl rfl
        | exact fun x => PointsOk.retain x rfl rfl rfl
        | exact fun x => PointsOk.restore x rfl rfl rfl
        | exact fun x => PointsOk.frozen x rfl rfl rfl
        | exact fun x => PointsOk.put x (quality_masked _)
        | exact fun x => PointsOk.putRetained x (quality_masked _)
        | skip
    | fail)

theorem keeps_failLoad {s0 : State} (cn rq kind check : Nat) (sigBad : Bool) (c : Conn) (s : State) (hk : Keeps s0 s) :
    Keeps s0 (failLoad cn rq kind check sigBad c s) := by
  unfold failLoad
  repeat' (first
    | with_reducible assumption
    | with_reducible apply keeps_putBank
    | with_reducible apply keeps_rejectUpd
    | with_reducible apply keeps_fireSource
    | with_reducible intro _
    | extract_lets
    | split
    | simp -zeta only [Keeps.mk_upd_iff]
    | dsimp +zetaDelta only
    | (with_reducible apply Keeps.mk_sound) <;> first
        | exact id
        | exact Table.wf_set
        | exact fun _ => Table.wf_nil
        | exact fun x => ⟨Table.wf_set x.1, x.2⟩
        | exact fun x => ⟨x.1, Table.wf_set x.2⟩
        | exact fun x => ⟨x.2, x.2⟩
        | exact fun x => PointsOk.like x rfl rfl rfl
        | exact fun x => PointsOk.retain x rfl rfl rfl
        | exact fun x => PointsOk.restore x rfl rfl rfl
        | exact fun x => PointsOk.frozen x rfl rfl rfl
        | exact fun x => PointsOk.put x (quality_masked _)
        | exact fun x => PointsOk.putRetained x (quality_masked _)
        | skip
    | fail)

theorem keeps_loadPart {s0 : State} (cn rq kind : Nat) (bytes : List Byte) (last hashOk sigOk : Bool) (c : Conn) (s : State) (hk : Keeps s0 s) :
    Keeps s0 (loadPart cn rq kind bytes last hashOk sigOk c s) := by
  unfold loadPart
  repeat' (first
    | with_reducible assumption
    | with_reducible apply keeps_putBank
    | with_reducible apply keeps_failLoad
    | with_reducible apply keeps_addJobs
    | with_reducible apply keeps_done
    | with_reducible intro _
    | extract_lets
    | split
    | simp -zeta only [Keeps.mk_upd_iff]
    | dsimp +zetaDelta only
    | (with_reducible apply Keeps.mk_sound) <;> first
        | exact id
        | exact Table.wf_set
        | exact fun _ => Table.wf_nil
        | exact fun x => ⟨Table.wf_set x.1, x.2⟩
        | exact fun x => ⟨x.1, Table.wf_set x.2⟩
        | exact fun x => ⟨x.2, x.2⟩
        | exact fun x => PointsOk.like x rfl rfl rfl
        | exact fun x => PointsOk.retain x rfl rfl rfl
        | exact fun x => PointsOk.restore x rfl rfl rfl
        | exact fun x => PointsOk.frozen x rfl rfl rfl
        | exact fun x => PointsOk.put x (quality_masked _)
        | exact fun x => PointsOk.putRetained x (quality_masked _)
        | skip
    | fail)

theorem keeps_execUpdload {s0 : State} (cn rq kind off : Nat) (bytes : List Byte) (last hashOk sigOk : Bool) (s : State) (hk : Keeps s0 s) :
    OutKeeps s0 (execUpdload cn rq kind off bytes last hashOk sigOk s) := by
  unfold execUpdload
  repeat' (first
    | with_reducible assumption
    | with_reducible apply OutKeeps.next
    | with_reducible apply keeps_updateOp
    | with_reducible apply keeps_done
    | with_reducible apply keeps_rejectUpd
    | with_reducible apply keeps_putBank
    | with_reducible apply keeps_loadPart
    | with_reducible intro _
    | extract_lets
    | split
    | simp -zeta only [Keeps.mk_upd_iff]
    | dsimp +zetaDelta only)

theorem keeps_execUpdstart {s0 : State} (cn rq : Nat) (w : Word) (s : State) (hk : Keeps s0 s) :
    OutKeeps s0 (execUpdstart cn rq w s) := by
  unfold execUpdstart
  repeat' (first
    | with_reducible assumption
    | with_reducible apply OutKeeps.next
    | with_reducible apply keeps_updateOp
    | with_reducible apply keeps_done
    | with_reducible apply keeps_rejectUpd
    | with_reducible apply keeps_rollback
    | with_reducible intro _
    | extract_lets
    | split
    | dsimp only
    | simp -zeta only [Keeps.mk_upd_iff]
    | dsimp +zetaDelta only
    | (with_reducible apply Keeps.mk_sound) <;> first
        | exact id
        | exact Table.wf_set
        | exact fun _ => Table.wf_nil
        | exact fun x => ⟨Table.wf_set x.1, x.2⟩
        | exact fun x => ⟨x.1, Table.wf_set x.2⟩
        | exact fun x => ⟨x.2, x.2⟩
        | exact fun x => PointsOk.like x rfl rfl rfl
        | exact fun x => PointsOk.retain x rfl rfl rfl
        | exact fun x => PointsOk.restore x rfl rfl rfl
        | exact fun x => PointsOk.frozen x rfl rfl rfl
        | exact fun x => PointsOk.put x (quality_masked _)
        | exact fun x => PointsOk.putRetained x (quality_masked _)
        | skip
    | fail)

theorem keeps_putUpd {s0 : State} (u : Option Upd) (s : State) (hk : Keeps s0 s) :
    Keeps s0 (putUpd u s) := by
  unfold putUpd
  repeat' (first
    | with_reducible assumption
    | with_reducible intro _
    | extract_lets
    | split
    | simp -zeta only [Keeps.mk_upd_iff]
    | dsimp +zetaDelta only
    | (with_reducible apply Keeps.mk_sound) <;> first
        | exact id
        | exact Table.wf_set
        | exact fun _ => Table.wf_nil
        | exact fun x => ⟨Table.wf_set x.1, x.2⟩
        | exact fun x => ⟨x.1, Table.wf_set x.2⟩
        | exact fun x => ⟨x.2, x.2⟩
        | exact fun x => PointsOk.like x rfl rfl rfl
        | exact fun x => PointsOk.retain x rfl rfl rfl
        | exact fun x => PointsOk.restore x rfl rfl rfl
        | exact fun x => PointsOk.frozen x rfl rfl rfl
        | exact fun x => PointsOk.put x (quality_masked _)
        | exact fun x => PointsOk.putRetained x (quality_masked _)
        | skip
    | fail)

theorem keeps_forceCold {s0 : State} (s : State) (hk : Keeps s0 s) :
    Keeps s0 (forceCold s) := by
  unfold forceCold
  repeat' (first
    | with_reducible assumption
    | with_reducible apply keeps_foldS
    | with_reducible apply keeps_startProgram
    | with_reducible intro _
    | extract_lets
    | split
    | simp -zeta only [Keeps.mk_upd_iff]
    | dsimp +zetaDelta only)

theorem keeps_switchKind {s0 : State} (kind : Nat) (x : Bank) (s : State) (hk : Keeps s0 s) :
    Keeps s0 (switchKind kind x s) := by
  unfold switchKind
  repeat' (first
    | with_reducible assumption
    | with_reducible apply keeps_mslRestart
    | with_reducible apply keeps_driveOutputs
    | with_reducible apply keeps_pairRestart
    | with_reducible apply keeps_forceCold
    | with_reducible apply keeps_drawIn
    | with_reducible apply keeps_closeSessions
    | with_reducible intro _
    | extract_lets
    | split
    | dsimp only
    | simp -zeta only [Keeps.mk_upd_iff]
    | dsimp +zetaDelta only
    | (with_reducible apply Keeps.mk_sound) <;> first
        | exact id
        | exact Table.wf_set
        | exact fun _ => Table.wf_nil
        | exact fun x => ⟨Table.wf_set x.1, x.2⟩
        | exact fun x => ⟨x.1, Table.wf_set x.2⟩
        | exact fun x => ⟨x.2, x.2⟩
        | exact fun x => PointsOk.like x rfl rfl rfl
        | exact fun x => PointsOk.retain x rfl rfl rfl
        | exact fun x => PointsOk.restore x rfl rfl rfl
        | exact fun x => PointsOk.frozen x rfl rfl rfl
        | exact fun x => PointsOk.put x (quality_masked _)
        | exact fun x => PointsOk.putRetained x (quality_masked _)
        | skip
    | fail)

theorem keeps_activateStep {s0 : State} (s : State) (hk : Keeps s0 s) :
    Keeps s0 (activateStep s) := by
  unfold activateStep
  repeat' (first
    | with_reducible assumption
    | with_reducible apply keeps_putInB
    | with_reducible apply keeps_putUpd
    | with_reducible apply keeps_switchKind
    | with_reducible intro _
    | extract_lets
    | split
    | dsimp only
    | simp -zeta only [Keeps.mk_upd_iff]
    | dsimp +zetaDelta only
    | (with_reducible apply Keeps.mk_sound) <;> first
        | exact id
        | exact Table.wf_set
        | exact fun _ => Table.wf_nil
        | exact fun x => ⟨Table.wf_set x.1, x.2⟩
        | exact fun x => ⟨x.1, Table.wf_set x.2⟩
        | exact fun x => ⟨x.2, x.2⟩
        | exact fun x => PointsOk.like x rfl rfl rfl
        | exact fun x => PointsOk.retain x rfl rfl rfl
        | exact fun x => PointsOk.restore x rfl rfl rfl
        | exact fun x => PointsOk.frozen x rfl rfl rfl
        | exact fun x => PointsOk.put x (quality_masked _)
        | exact fun x => PointsOk.putRetained x (quality_masked _)
        | skip
    | fail)

theorem keeps_stepRecord {s0 : State} (k : Nat) (s : State) (hk : Keeps s0 s) :
    Keeps s0 (stepRecord k s) := by
  unfold stepRecord
  repeat' (first
    | with_reducible assumption
    | with_reducible apply keeps_logEv
    | with_reducible intro _
    | extract_lets
    | split
    | simp -zeta only [Keeps.mk_upd_iff]
    | dsimp +zetaDelta only)

theorem keeps_notifyStep {s0 : State} (cn k : Nat) (s : State) (hk : Keeps s0 s) :
    Keeps s0 (notifyStep cn k s) := by
  unfold notifyStep
  repeat' (first
    | with_reducible assumption
    | with_reducible apply keeps_notify
    | with_reducible intro _
    | extract_lets
    | split
    | simp -zeta only [Keeps.mk_upd_iff]
    | dsimp +zetaDelta only)

theorem keeps_failRecord {s0 : State} (step code cause : Nat) (kinds : List Nat) (s : State) (hk : Keeps s0 s) :
    Keeps s0 (failRecord step code cause kinds s) := by
  unfold failRecord
  repeat' (first
    | with_reducible assumption
    | with_reducible apply keeps_foldl
    | with_reducible apply keeps_logEv
    | with_reducible intro _
    | extract_lets
    | split
    | simp -zeta only [Keeps.mk_upd_iff]
    | dsimp +zetaDelta only
    | (with_reducible apply Keeps.mk_sound) <;> first
        | exact id
        | exact Table.wf_set
        | exact fun _ => Table.wf_nil
        | exact fun x => ⟨Table.wf_set x.1, x.2⟩
        | exact fun x => ⟨x.1, Table.wf_set x.2⟩
        | exact fun x => ⟨x.2, x.2⟩
        | exact fun x => PointsOk.like x rfl rfl rfl
        | exact fun x => PointsOk.retain x rfl rfl rfl
        | exact fun x => PointsOk.restore x rfl rfl rfl
        | exact fun x => PointsOk.frozen x rfl rfl rfl
        | exact fun x => PointsOk.put x (quality_masked _)
        | exact fun x => PointsOk.putRetained x (quality_masked _)
        | skip
    | fail)

theorem keeps_commitStep {s0 : State} (u : Upd) (k : Nat) (s : State) (hk : Keeps s0 s) :
    Keeps s0 (commitStep u k s) := by
  unfold commitStep
  repeat' (first
    | with_reducible assumption
    | with_reducible apply keeps_failRecord
    | with_reducible apply keeps_putUpd
    | with_reducible apply keeps_putInB
    | with_reducible apply keeps_notifyStep
    | with_reducible apply keeps_stepRecord
    | with_reducible intro _
    | extract_lets
    | split
    | simp -zeta only [Keeps.mk_upd_iff]
    | dsimp +zetaDelta only
    | (with_reducible apply Keeps.mk_sound) <;> first
        | exact id
        | exact Table.wf_set
        | exact fun _ => Table.wf_nil
        | exact fun x => ⟨Table.wf_set x.1, x.2⟩
        | exact fun x => ⟨x.1, Table.wf_set x.2⟩
        | exact fun x => ⟨x.2, x.2⟩
        | exact fun x => PointsOk.like x rfl rfl rfl
        | exact fun x => PointsOk.retain x rfl rfl rfl
        | exact fun x => PointsOk.restore x rfl rfl rfl
        | exact fun x => PointsOk.frozen x rfl rfl rfl
        | exact fun x => PointsOk.put x (quality_masked _)
        | exact fun x => PointsOk.putRetained x (quality_masked _)
        | skip
    | fail)

theorem keeps_failStep {s0 : State} (code : Nat) (s : State) (hk : Keeps s0 s) :
    Keeps s0 (failStep code s) := by
  unfold failStep
  repeat' (first
    | with_reducible assumption
    | with_reducible apply keeps_failRecord
    | with_reducible apply keeps_putUpd
    | with_reducible apply keeps_rollback
    | with_reducible intro _
    | extract_lets
    | split
    | simp -zeta only [Keeps.mk_upd_iff]
    | dsimp +zetaDelta only
    | (with_reducible apply Keeps.mk_sound) <;> first
        | exact id
        | exact Table.wf_set
        | exact fun _ => Table.wf_nil
        | exact fun x => ⟨Table.wf_set x.1, x.2⟩
        | exact fun x => ⟨x.1, Table.wf_set x.2⟩
        | exact fun x => ⟨x.2, x.2⟩
        | exact fun x => PointsOk.like x rfl rfl rfl
        | exact fun x => PointsOk.retain x rfl rfl rfl
        | exact fun x => PointsOk.restore x rfl rfl rfl
        | exact fun x => PointsOk.frozen x rfl rfl rfl
        | exact fun x => PointsOk.put x (quality_masked _)
        | exact fun x => PointsOk.putRetained x (quality_masked _)
        | skip
    | fail)

theorem keeps_execUpdateStepProven {s0 : State} (met : Bool) (s : State) (hk : Keeps s0 s) :
    OutKeeps s0 (execUpdateStepProven met s) := by
  unfold execUpdateStepProven
  repeat' (first
    | with_reducible assumption
    | with_reducible apply outKeeps_whenUp
    | with_reducible apply OutKeeps.next
    | with_reducible apply keeps_failStep
    | with_reducible apply keeps_commitStep
    | with_reducible apply keeps_putUpd
    | with_reducible intro _
    | extract_lets
    | split
    | simp -zeta only [Keeps.mk_upd_iff]
    | dsimp +zetaDelta only)

theorem keeps_execUpdateProofTimeout {s0 : State} (s : State) (hk : Keeps s0 s) :
    OutKeeps s0 (execUpdateProofTimeout s) := by
  unfold execUpdateProofTimeout
  repeat' (first
    | with_reducible assumption
    | with_reducible apply outKeeps_whenUpAnd
    | with_reducible apply OutKeeps.next
    | with_reducible apply keeps_failStep
    | with_reducible intro _
    | extract_lets
    | split
    | simp -zeta only [Keeps.mk_upd_iff]
    | dsimp +zetaDelta only)

theorem keeps_countProofTake {s0 : State} (s : State) (hk : Keeps s0 s) :
    Keeps s0 (countProofTake s) := by
  unfold countProofTake
  repeat' (first
    | with_reducible assumption
    | with_reducible apply keeps_failStep
    | with_reducible apply keeps_putUpd
    | with_reducible intro _
    | extract_lets
    | split
    | simp -zeta only [Keeps.mk_upd_iff]
    | dsimp +zetaDelta only
    | (with_reducible apply Keeps.mk_sound) <;> first
        | exact id
        | exact Table.wf_set
        | exact fun _ => Table.wf_nil
        | exact fun x => ⟨Table.wf_set x.1, x.2⟩
        | exact fun x => ⟨x.1, Table.wf_set x.2⟩
        | exact fun x => ⟨x.2, x.2⟩
        | exact fun x => PointsOk.like x rfl rfl rfl
        | exact fun x => PointsOk.retain x rfl rfl rfl
        | exact fun x => PointsOk.restore x rfl rfl rfl
        | exact fun x => PointsOk.frozen x rfl rfl rfl
        | exact fun x => PointsOk.put x (quality_masked _)
        | exact fun x => PointsOk.putRetained x (quality_masked _)
        | skip
    | fail)

theorem keeps_execUpdconfirm {s0 : State} (cn rq : Nat) (s : State) (hk : Keeps s0 s) :
    OutKeeps s0 (execUpdconfirm cn rq s) := by
  unfold execUpdconfirm
  repeat' (first
    | with_reducible assumption
    | with_reducible apply OutKeeps.next
    | with_reducible apply keeps_updateOp
    | with_reducible apply keeps_done
    | with_reducible apply keeps_commitStep
    | with_reducible intro _
    | extract_lets
    | split
    | simp -zeta only [Keeps.mk_upd_iff]
    | dsimp +zetaDelta only)

theorem keeps_execUpdabort {s0 : State} (cn rq : Nat) (s : State) (hk : Keeps s0 s) :
    OutKeeps s0 (execUpdabort cn rq s) := by
  unfold execUpdabort
  repeat' (first
    | with_reducible assumption
    | with_reducible apply OutKeeps.next
    | with_reducible apply keeps_updateOp
    | with_reducible apply keeps_done
    | with_reducible apply keeps_failStep
    | with_reducible intro _
    | extract_lets
    | split
    | simp -zeta only [Keeps.mk_upd_iff]
    | dsimp +zetaDelta only)

theorem keeps_execUpdrecover {s0 : State} (cn rq : Nat) (s : State) (hk : Keeps s0 s) :
    OutKeeps s0 (execUpdrecover cn rq s) := by
  unfold execUpdrecover
  repeat' (first
    | with_reducible assumption
    | with_reducible apply OutKeeps.next
    | with_reducible apply keeps_updateOp
    | with_reducible apply keeps_done
    | with_reducible intro _
    | extract_lets
    | split
    | simp -zeta only [Keeps.mk_upd_iff]
    | dsimp +zetaDelta only
    | (with_reducible apply Keeps.mk_sound) <;> first
        | exact id
        | exact Table.wf_set
        | exact fun _ => Table.wf_nil
        | exact fun x => ⟨Table.wf_set x.1, x.2⟩
        | exact fun x => ⟨x.1, Table.wf_set x.2⟩
        | exact fun x => ⟨x.2, x.2⟩
        | exact fun x => PointsOk.like x rfl rfl rfl
        | exact fun x => PointsOk.retain x rfl rfl rfl
        | exact fun x => PointsOk.restore x rfl rfl rfl
        | exact fun x => PointsOk.frozen x rfl rfl rfl
        | exact fun x => PointsOk.put x (quality_masked _)
        | exact fun x => PointsOk.putRetained x (quality_masked _)
        | skip
    | fail)

theorem keeps_execArchexport {s0 : State} (cn rq unit : Nat) (s : State) (hk : Keeps s0 s) :
    OutKeeps s0 (execArchexport cn rq unit s) := by
  unfold execArchexport
  repeat' (first
    | with_reducible assumption
    | with_reducible apply OutKeeps.next
    | with_reducible apply keeps_updateOp
    | with_reducible apply keeps_done
    | with_reducible intro _
    | extract_lets
    | split
    | simp -zeta only [Keeps.mk_upd_iff]
    | dsimp +zetaDelta only)

/-! ### Machine/Recovery.lean -/

theorem keeps_respond {s0 : State} (host op status : Nat) (sq : Half) (off : Nat) (pay : List Byte) (s : State) (hk : Keeps s0 s) :
    Keeps s0 (respond host op status sq off pay s) := by
  unfold respond
  repeat' (first
    | with_reducible assumption
    | with_reducible apply keeps_emit
    | with_reducible intro _
    | extract_lets
    | split
    | simp -zeta only [Keeps.mk_upd_iff]
    | dsimp +zetaDelta only)

theorem keeps_whenRecovery {s0 : State} (s : State) (f : State → State) (hk : Keeps s0 s)
    (hk_f : ∀ t, Keeps s0 t → Keeps s0 (f t)) :
    OutKeeps s0 (whenRecovery s f) := by
  unfold whenRecovery
  repeat' (first
    | with_reducible assumption
    | with_reducible apply OutKeeps.next
    | with_reducible apply hk_f
    | with_reducible intro _
    | extract_lets
    | split
    | simp -zeta only [Keeps.mk_upd_iff]
    | dsimp +zetaDelta only)

theorem keeps_execRecoveryQuery {s0 : State} (host : Nat) (sq : Half) (s : State) (hk : Keeps s0 s) :
    OutKeeps s0 (execRecoveryQuery host sq s) := by
  unfold execRecoveryQuery
  repeat' (first
    | with_reducible assumption
    | with_reducible apply OutKeeps.next
    | with_reducible apply keeps_whenRecovery
    | with_reducible apply keeps_respond
    | with_reducible intro _
    | extract_lets
    | split
    | simp -zeta only [Keeps.mk_upd_iff]
    | dsimp +zetaDelta only)

theorem keeps_putSess {s0 : State} (r : Option RecSess) (s : State) (hk : Keeps s0 s) :
    Keeps s0 (putSess r s) := by
  unfold putSess
  repeat' (first
    | with_reducible assumption
    | with_reducible intro _
    | extract_lets
    | split
    | simp -zeta only [Keeps.mk_upd_iff]
    | dsimp +zetaDelta only
    | (with_reducible apply Keeps.mk_sound) <;> first
        | exact id
        | exact Table.wf_set
        | exact fun _ => Table.wf_nil
        | exact fun x => ⟨Table.wf_set x.1, x.2⟩
        | exact fun x => ⟨x.1, Table.wf_set x.2⟩
        | exact fun x => ⟨x.2, x.2⟩
        | exact fun x => PointsOk.like x rfl rfl rfl
        | exact fun x => PointsOk.retain x rfl rfl rfl
        | exact fun x => PointsOk.restore x rfl rfl rfl
        | exact fun x => PointsOk.frozen x rfl rfl rfl
        | exact fun x => PointsOk.put x (quality_masked _)
        | exact fun x => PointsOk.putRetained x (quality_masked _)
        | skip
    | fail)

theorem keeps_inSession {s0 : State} (host op : Nat) (sq : Half) (s : State) (f : RecSess → State → State) (hk : Keeps s0 s)
    (hk_f : ∀ x t, Keeps s0 t → Keeps s0 (f x t)) :
    OutKeeps s0 (inSession host op sq s f) := by
  unfold inSession
  repeat' (first
    | with_reducible assumption
    | with_reducible apply OutKeeps.next
    | with_reducible apply hk_f
    | with_reducible apply keeps_whenRecovery
    | with_reducible apply keeps_respond
    | with_reducible apply keeps_putSess
    | with_reducible intro _
    | extract_lets
    | split
    | simp -zeta only [Keeps.mk_upd_iff]
    | dsimp +zetaDelta only)

theorem keeps_execRecoveryBegin {s0 : State} (host : Nat) (sq : Half) (kind total : Nat) (s : State) (hk : Keeps s0 s) :
    OutKeeps s0 (execRecoveryBegin host sq kind total s) := by
  unfold execRecoveryBegin
  repeat' (first
    | with_reducible assumption
    | with_reducible apply OutKeeps.next
    | with_reducible apply keeps_whenRecovery
    | with_reducible apply keeps_respond
    | with_reducible apply keeps_putSess
    | with_reducible apply keeps_putBank
    | with_reducible intro _
    | extract_lets
    | split
    | dsimp only
    | simp -zeta only [Keeps.mk_upd_iff]
    | dsimp +zetaDelta only
    | (with_reducible apply Keeps.mk_sound) <;> first
        | exact id
        | exact Table.wf_set
        | exact fun _ => Table.wf_nil
        | exact fun x => ⟨Table.wf_set x.1, x.2⟩
        | exact fun x => ⟨x.1, Table.wf_set x.2⟩
        | exact fun x => ⟨x.2, x.2⟩
        | exact fun x => PointsOk.like x rfl rfl rfl
        | exact fun x => PointsOk.retain x rfl rfl rfl
        | exact fun x => PointsOk.restore x rfl rfl rfl
        | exact fun x => PointsOk.frozen x rfl rfl rfl
        | exact fun x => PointsOk.put x (quality_masked _)
        | exact fun x => PointsOk.putRetained x (quality_masked _)
        | skip
    | fail)

theorem keeps_execRecoveryData {s0 : State} (host : Nat) (sq : Half) (off : Nat) (bytes : List Byte) (s : State) (hk : Keeps s0 s) :
    OutKeeps s0 (execRecoveryData host sq off bytes s) := by
  unfold execRecoveryData
  repeat' (first
    | with_reducible assumption
    | with_reducible apply OutKeeps.next
    | with_reducible apply keeps_inSession
    | with_reducible apply keeps_respond
    | with_reducible apply keeps_putSess
    | with_reducible apply keeps_putBank
    | with_reducible intro _
    | extract_lets
    | split
    | simp -zeta only [Keeps.mk_upd_iff]
    | dsimp +zetaDelta only)

theorem keeps_execRecoveryEnd {s0 : State} (host : Nat) (sq : Half) (hashOk sigOk : Bool) (s : State) (hk : Keeps s0 s) :
    OutKeeps s0 (execRecoveryEnd host sq hashOk sigOk s) := by
  unfold execRecoveryEnd
  repeat' (first
    | with_reducible assumption
    | with_reducible apply OutKeeps.next
    | with_reducible apply keeps_inSession
    | with_reducible apply keeps_respond
    | with_reducible apply keeps_putSess
    | with_reducible apply keeps_putBank
    | with_reducible intro _
    | extract_lets
    | split
    | simp -zeta only [Keeps.mk_upd_iff]
    | dsimp +zetaDelta only)

theorem keeps_execRecoveryActivate {s0 : State} (host : Nat) (sq : Half) (mask : BitVec 6) (s : State) (hk : Keeps s0 s) :
    OutKeeps s0 (execRecoveryActivate host sq mask s) := by
  unfold execRecoveryActivate
  repeat' (first
    | with_reducible assumption
    | with_reducible apply OutKeeps.next
    | with_reducible apply keeps_foldS
    | with_reducible apply keeps_inSession
    | with_reducible apply keeps_respond
    | with_reducible apply keeps_putInB
    | with_reducible intro _
    | extract_lets
    | split
    | dsimp only
    | simp -zeta only [Keeps.mk_upd_iff]
    | dsimp +zetaDelta only
    | (with_reducible apply Keeps.mk_sound) <;> first
        | exact id
        | exact Table.wf_set
        | exact fun _ => Table.wf_nil
        | exact fun x => ⟨Table.wf_set x.1, x.2⟩
        | exact fun x => ⟨x.1, Table.wf_set x.2⟩
        | exact fun x => ⟨x.2, x.2⟩
        | exact fun x => PointsOk.like x rfl rfl rfl
        | exact fun x => PointsOk.retain x rfl rfl rfl
        | exact fun x => PointsOk.restore x rfl rfl rfl
        | exact fun x => PointsOk.frozen x rfl rfl rfl
        | exact fun x => PointsOk.put x (quality_masked _)
        | exact fun x => PointsOk.putRetained x (quality_masked _)
        | skip
    | fail)

theorem keeps_execRecoverySessionTimeout {s0 : State} (s : State) (hk : Keeps s0 s) :
    OutKeeps s0 (execRecoverySessionTimeout s) := by
  unfold execRecoverySessionTimeout
  repeat' (first
    | with_reducible assumption
    | with_reducible apply OutKeeps.next
    | with_reducible apply keeps_whenRecovery
    | with_reducible apply keeps_putSess
    | with_reducible intro _
    | extract_lets
    | split
    | simp -zeta only [Keeps.mk_upd_iff]
    | dsimp +zetaDelta only)

/-! ### Machine/Integrity.lean -/

theorem keeps_judgeMarginal {s0 : State} (p : Nat) (s : State) (hk : Keeps s0 s) :
    Keeps s0 (judgeMarginal p s) := by
  unfold judgeMarginal
  repeat' (first
    | with_reducible assumption
    | with_reducible apply keeps_predict
    | with_reducible apply keeps_retirePair
    | with_reducible intro _
    | extract_lets
    | split
    | simp -zeta only [Keeps.mk_upd_iff]
    | dsimp +zetaDelta only)

theorem keeps_judgeRotation {s0 : State} (p : Nat) (failN failS : Bool) (s : State) (hk : Keeps s0 s) :
    Keeps s0 (judgeRotation p failN failS s) := by
  unfold judgeRotation
  repeat' (first
    | with_reducible assumption
    | with_reducible apply keeps_retirePair
    | with_reducible apply keeps_judgeMarginal
    | with_reducible apply keeps_unpredict
    | with_reducible intro _
    | extract_lets
    | split
    | simp -zeta only [Keeps.mk_upd_iff]
    | dsimp +zetaDelta only)

theorem keeps_execRotationTestChunk {s0 : State} (p : Nat) (okNormal okShort final : Bool) (s : State) (hk : Keeps s0 s) :
    OutKeeps s0 (execRotationTestChunk p okNormal okShort final s) := by
  unfold execRotationTestChunk
  repeat' (first
    | with_reducible assumption
    | with_reducible apply outKeeps_whenUpAnd
    | with_reducible apply OutKeeps.next
    | with_reducible apply keeps_judgeRotation
    | with_reducible intro _
    | extract_lets
    | split
    | simp -zeta only [Keeps.mk_upd_iff]
    | dsimp +zetaDelta only)

theorem keeps_repairRow {s0 : State} (row : Nat) (s : State) (hk : Keeps s0 s) :
    Keeps s0 (repairRow row s) := by
  unfold repairRow
  repeat' (first
    | with_reducible assumption
    | with_reducible apply keeps_logEv
    | with_reducible apply keeps_refreshMod
    | with_reducible apply keeps_predict
    | with_reducible intro _
    | extract_lets
    | split
    | dsimp only
    | simp -zeta only [Keeps.mk_upd_iff]
    | dsimp +zetaDelta only)

theorem keeps_correctSram {s0 : State} (row word : Nat) (s : State) (hk : Keeps s0 s) :
    Keeps s0 (correctSram row word s) := by
  unfold correctSram
  repeat' (first
    | with_reducible assumption
    | with_reducible apply keeps_repairRow
    | with_reducible intro _
    | extract_lets
    | split
    | dsimp only
    | simp -zeta only [Keeps.mk_upd_iff]
    | dsimp +zetaDelta only)

theorem keeps_eccRecord {s0 : State} (memory address region : Nat) (s : State) (hk : Keeps s0 s) :
    Keeps s0 (eccRecord memory address region s) := by
  unfold eccRecord
  repeat' (first
    | with_reducible assumption
    | with_reducible apply keeps_logEv
    | with_reducible intro _
    | extract_lets
    | split
    | simp -zeta only [Keeps.mk_upd_iff]
    | dsimp +zetaDelta only)

theorem keeps_scrubbed {s0 : State} (r : ScrubFind) (s : State) (hk : Keeps s0 s) :
    Keeps s0 (scrubbed r s) := by
  unfold scrubbed
  repeat' (first
    | with_reducible assumption
    | with_reducible apply keeps_correctSram
    | with_reducible apply keeps_drawIn
    | with_reducible apply keeps_eccRecord
    | with_reducible apply keeps_repairRow
    | with_reducible apply keeps_putPoint
    | with_reducible apply keeps_coldLoop
    | with_reducible apply keeps_retainLoop
    | with_reducible apply keeps_loopEnterFb
    | with_reducible apply keeps_putKey
    | with_reducible intro _
    | extract_lets
    | split
    | dsimp only
    | simp -zeta only [Keeps.mk_upd_iff]
    | dsimp +zetaDelta only
    | (with_reducible apply Keeps.mk_sound) <;> first
        | exact id
        | exact Table.wf_set
        | exact fun _ => Table.wf_nil
        | exact fun x => ⟨Table.wf_set x.1, x.2⟩
        | exact fun x => ⟨x.1, Table.wf_set x.2⟩
        | exact fun x => ⟨x.2, x.2⟩
        | exact fun x => PointsOk.like x rfl rfl rfl
        | exact fun x => PointsOk.retain x rfl rfl rfl
        | exact fun x => PointsOk.restore x rfl rfl rfl
        | exact fun x => PointsOk.frozen x rfl rfl rfl
        | exact fun x => PointsOk.put x (quality_masked _)
        | exact fun x => PointsOk.putRetained x (quality_masked _)
        | skip
    | fail)

theorem keeps_execScrub {s0 : State} (f : ScrubFind) (s : State) (hk : Keeps s0 s) :
    OutKeeps s0 (execScrub f s) := by
  unfold execScrub
  repeat' (first
    | with_reducible assumption
    | with_reducible apply outKeeps_whenUp
    | with_reducible apply OutKeeps.next
    | with_reducible apply keeps_scrubbed
    | with_reducible intro _
    | extract_lets
    | split
    | simp -zeta only [Keeps.mk_upd_iff]
    | dsimp +zetaDelta only)

theorem keeps_execCoreCheckpoint {s0 : State} (s : State) (hk : Keeps s0 s) :
    OutKeeps s0 (execCoreCheckpoint s) := by
  unfold execCoreCheckpoint
  repeat' (first
    | with_reducible assumption
    | with_reducible apply outKeeps_whenUpAnd
    | with_reducible apply OutKeeps.next
    | with_reducible intro _
    | extract_lets
    | split
    | simp -zeta only [Keeps.mk_upd_iff]
    | dsimp +zetaDelta only)

theorem keeps_coresGone {s0 : State} (s : State) (hk : Keeps s0 s) :
    Keeps s0 (coresGone s) := by
  unfold coresGone
  repeat' (first
    | with_reducible assumption
    | with_reducible intro _
    | extract_lets
    | split
    | simp -zeta only [Keeps.mk_upd_iff]
    | dsimp +zetaDelta only
    | (with_reducible apply Keeps.mk_sound) <;> first
        | exact id
        | exact Table.wf_set
        | exact fun _ => Table.wf_nil
        | exact fun x => ⟨Table.wf_set x.1, x.2⟩
        | exact fun x => ⟨x.1, Table.wf_set x.2⟩
        | exact fun x => ⟨x.2, x.2⟩
        | exact fun x => PointsOk.like x rfl rfl rfl
        | exact fun x => PointsOk.retain x rfl rfl rfl
        | exact fun x => PointsOk.restore x rfl rfl rfl
        | exact fun x => PointsOk.frozen x rfl rfl rfl
        | exact fun x => PointsOk.put x (quality_masked _)
        | exact fun x => PointsOk.putRetained x (quality_masked _)
        | skip
    | fail)

theorem keeps_execCoreLockstepMismatch {s0 : State} (s : State) (hk : Keeps s0 s) :
    OutKeeps s0 (execCoreLockstepMismatch s) := by
  unfold execCoreLockstepMismatch
  repeat' (first
    | with_reducible assumption
    | with_reducible apply outKeeps_whenUpAnd
    | with_reducible apply OutKeeps.next
    | with_reducible apply keeps_logEv
    | with_reducible apply keeps_coresGone
    | with_reducible apply keeps_refreshMod
    | with_reducible apply keeps_closeSessions
    | with_reducible apply keeps_predict
    | with_reducible intro _
    | extract_lets
    | split
    | simp -zeta only [Keeps.mk_upd_iff]
    | dsimp +zetaDelta only)

theorem keeps_execAgeingMeasure {s0 : State} (margin : Word) (s : State) (hk : Keeps s0 s) :
    OutKeeps s0 (execAgeingMeasure margin s) := by
  unfold execAgeingMeasure
  repeat' (first
    | with_reducible assumption
    | with_reducible apply outKeeps_whenUp
    | with_reducible apply OutKeeps.next
    | with_reducible apply keeps_predict
    | with_reducible apply keeps_unpredict
    | with_reducible intro _
    | extract_lets
    | split
    | simp -zeta only [Keeps.mk_upd_iff]
    | dsimp +zetaDelta only)

theorem keeps_execNandBlockFail {s0 : State} (s : State) (hk : Keeps s0 s) :
    OutKeeps s0 (execNandBlockFail s) := by
  unfold execNandBlockFail
  repeat' (first
    | with_reducible assumption
    | with_reducible apply outKeeps_whenUpAnd
    | with_reducible apply OutKeeps.next
    | with_reducible apply keeps_predict
    | with_reducible apply keeps_logEv
    | with_reducible intro _
    | extract_lets
    | split
    | simp -zeta only [Keeps.mk_upd_iff]
    | dsimp +zetaDelta only)

end Sys2Proof.Machine
end

