-- ==== Sys2Proof/Laws/KeepsPower.lean ====
section
/-! SUPPORT. What takes, power, starts and register writes keep of a state: the queue, the clock, the variant, the count
of free values, and a sound point image and sound tables. One lemma for each operation and for each meaning. -/

namespace Sys2Proof.Machine
open Sys2Proof

/-! ### Machine/Takes.lean -/

theorem keeps_endHalf {s0 : State} (s : State) (hk : Keeps s0 s) :
    Keeps s0 (endHalf s) := by
  unfold endHalf
  extract_lets j s1 s2 ends
  have h1 : Keeps s0 s1 := keeps_sendDevs _ (keeps_foldS _ _ _ hk (fun _ _ h => keeps_closeWindow _ _ h))
  have h2 : Keeps s0 s2 := by
    dsimp only [s2]
    split
    · exact h1
    · exact keeps_missedDeadline _ h1
  clear_value ends s2
  refine ⟨h2.pending, h2.now, h2.variant, h2.draws, fun x => ?_, fun x => { h2.tables x with }⟩
  cases ends
  · exact PointsOk.like (h2.image x) rfl rfl rfl
  · exact PointsOk.retain (h2.image x) rfl rfl rfl

theorem keeps_startBurst {s0 : State} (s : State) (hk : Keeps s0 s) :
    Keeps s0 (startBurst s) := by
  unfold startBurst
  repeat' (first
    | with_reducible assumption
    | with_reducible apply keeps_fieldLatch
    | with_reducible intro _
    | extract_lets
    | split
    | simp -zeta only [Keeps.mk_upd_iff]
    | dsimp +zetaDelta only)

theorem keeps_fallbackPhase {s0 : State} (s : State) (hk : Keeps s0 s) :
    Keeps s0 (fallbackPhase s) := by
  unfold fallbackPhase
  repeat' (first
    | with_reducible assumption
    | with_reducible apply keeps_foldS
    | with_reducible apply keeps_leaveFallback
    | with_reducible apply keeps_enterFallback
    | with_reducible intro _
    | extract_lets
    | split
    | dsimp only
    | simp -zeta only [Keeps.mk_upd_iff]
    | dsimp +zetaDelta only)

theorem keeps_placeAll {s0 : State} (s : State) (hk : Keeps s0 s) :
    Keeps s0 (placeAll s) := by
  unfold placeAll
  repeat' (first
    | with_reducible assumption
    | with_reducible apply keeps_foldl
    | with_reducible intro _
    | extract_lets
    | split
    | simp -zeta only [Keeps.mk_upd_iff]
    | dsimp +zetaDelta only
    | (with_reducible apply Keeps.mk_sound) <;> first
        | exact id
        | exact Table.wf_set
        | exact fun _ => Table.wf_nil
        | exact fun x => ⟨Table.wf_set x.1, x.2⟩
        | exact fun x => ⟨x.1, Table.wf_set x.2⟩
        | exact fun x => ⟨x.2, x.2⟩
        | exact fun x => PointsOk.like x rfl rfl rfl
        | exact fun x => PointsOk.retain x rfl rfl rfl
        | exact fun x => PointsOk.restore x rfl rfl rfl
        | exact fun x => PointsOk.frozen x rfl rfl rfl
        | exact fun x => PointsOk.put x (quality_masked _)
        | exact fun x => PointsOk.putRetained x (quality_masked _)
        | skip
    | fail)

theorem keeps_boundaryPhase {s0 : State} (s : State) (hk : Keeps s0 s) :
    Keeps s0 (boundaryPhase s) := by
  unfold boundaryPhase
  repeat' (first
    | with_reducible assumption
    | with_reducible apply keeps_boundary
    | with_reducible apply keeps_heldCommits
    | with_reducible apply keeps_placeAll
    | with_reducible intro _
    | extract_lets
    | split
    | simp -zeta only [Keeps.mk_upd_iff]
    | dsimp +zetaDelta only)

theorem keeps_placeCheck {s0 : State} (s : State) (hk : Keeps s0 s) :
    Keeps s0 (placeCheck s) := by
  unfold placeCheck
  repeat' (first
    | with_reducible assumption
    | with_reducible apply keeps_foldS
    | with_reducible apply keeps_logEv
    | with_reducible intro _
    | extract_lets
    | split
    | simp -zeta only [Keeps.mk_upd_iff]
    | dsimp +zetaDelta only)

theorem keeps_fullPhase {s0 : State} (s : State) (hk : Keeps s0 s) :
    Keeps s0 (fullPhase s) := by
  unfold fullPhase
  repeat' (first
    | with_reducible assumption
    | with_reducible apply keeps_placeCheck
    | with_reducible apply keeps_activateStep
    | with_reducible intro _
    | extract_lets
    | split
    | simp -zeta only [Keeps.mk_upd_iff]
    | dsimp +zetaDelta only)

theorem keeps_answerOp {s0 : State} (cn rq st op status : Nat) (s : State) (hk : Keeps s0 s) :
    Keeps s0 (answerOp cn rq st op status s) := by
  unfold answerOp
  repeat' (first
    | with_reducible assumption
    | with_reducible apply keeps_endOp
    | with_reducible intro _
    | extract_lets
    | split
    | simp -zeta only [Keeps.mk_upd_iff]
    | dsimp +zetaDelta only)

theorem keeps_freezeOp {s0 : State} (o : HostOp) (s : State) (hk : Keeps s0 s) :
    Keeps s0 (freezeOp o s) := by
  unfold freezeOp
  repeat' (first
    | with_reducible assumption
    | with_reducible apply keeps_postOp
    | with_reducible apply keeps_answerOp
    | with_reducible apply keeps_freezePt
    | with_reducible apply keeps_releasePt
    | with_reducible intro _
    | extract_lets
    | split
    | simp -zeta only [Keeps.mk_upd_iff]
    | dsimp +zetaDelta only)

theorem keeps_writeOp {s0 : State} (o : HostOp) (s : State) (hk : Keeps s0 s) :
    Keeps s0 (writeOp o s) := by
  unfold writeOp
  repeat' (first
    | with_reducible assumption
    | with_reducible apply keeps_foldS
    | with_reducible apply keeps_hostWrite
    | with_reducible apply keeps_answerOp
    | with_reducible apply keeps_postOp
    | with_reducible intro _
    | extract_lets
    | split
    | dsimp only
    | simp -zeta only [Keeps.mk_upd_iff]
    | dsimp +zetaDelta only)

theorem keeps_opsPhase {s0 : State} (s : State) (hk : Keeps s0 s) :
    Keeps s0 (opsPhase s) := by
  unfold opsPhase
  repeat' (first
    | with_reducible assumption
    | with_reducible apply keeps_foldS
    | with_reducible apply keeps_writeOp
    | with_reducible apply keeps_freezeOp
    | with_reducible intro _
    | extract_lets
    | split
    | simp -zeta only [Keeps.mk_upd_iff]
    | dsimp +zetaDelta only
    | (with_reducible apply Keeps.mk_sound) <;> first
        | exact id
        | exact Table.wf_set
        | exact fun _ => Table.wf_nil
        | exact fun x => ⟨Table.wf_set x.1, x.2⟩
        | exact fun x => ⟨x.1, Table.wf_set x.2⟩
        | exact fun x => ⟨x.2, x.2⟩
        | exact fun x => PointsOk.like x rfl rfl rfl
        | exact fun x => PointsOk.retain x rfl rfl rfl
        | exact fun x => PointsOk.restore x rfl rfl rfl
        | exact fun x => PointsOk.frozen x rfl rfl rfl
        | exact fun x => PointsOk.put x (quality_masked _)
        | exact fun x => PointsOk.putRetained x (quality_masked _)
        | skip
    | fail)

theorem keeps_requestPhase {s0 : State} (s : State) (hk : Keeps s0 s) :
    Keeps s0 (requestPhase s) := by
  unfold requestPhase
  repeat' (first
    | with_reducible assumption
    | with_reducible intro _
    | extract_lets
    | split
    | dsimp only
    | simp -zeta only [Keeps.mk_upd_iff]
    | dsimp +zetaDelta only
    | (with_reducible apply Keeps.mk_sound) <;> first
        | exact id
        | exact Table.wf_set
        | exact fun _ => Table.wf_nil
        | exact fun x => ⟨Table.wf_set x.1, x.2⟩
        | exact fun x => ⟨x.1, Table.wf_set x.2⟩
        | exact fun x => ⟨x.2, x.2⟩
        | exact fun x => PointsOk.like x rfl rfl rfl
        | exact fun x => PointsOk.retain x rfl rfl rfl
        | exact fun x => PointsOk.restore x rfl rfl rfl
        | exact fun x => PointsOk.frozen x rfl rfl rfl
        | exact fun x => PointsOk.put x (quality_masked _)
        | exact fun x => PointsOk.putRetained x (quality_masked _)
        | skip
    | fail)

theorem keeps_inputs {s0 : State} (s : State) (hk : Keeps s0 s) :
    Keeps s0 (inputs s) := by
  unfold inputs
  repeat' (first
    | with_reducible assumption
    | with_reducible apply keeps_foldS
    | with_reducible apply keeps_fieldInput
    | with_reducible apply keeps_undelivered
    | with_reducible apply keeps_canInput
    | with_reducible apply keeps_writeAlarms
    | with_reducible apply keeps_latchTime
    | with_reducible apply keeps_mslStatPoints
    | with_reducible intro _
    | extract_lets
    | split
    | simp -zeta only [Keeps.mk_upd_iff]
    | dsimp +zetaDelta only)

theorem keeps_beginTake {s0 : State} (k : Nat) (s : State) (hk : Keeps s0 s) :
    Keeps s0 (beginTake k s) := by
  unfold beginTake
  repeat' (first
    | with_reducible assumption
    | with_reducible apply keeps_putTake
    | with_reducible intro _
    | extract_lets
    | split
    | simp -zeta only [Keeps.mk_upd_iff]
    | dsimp +zetaDelta only
    | (with_reducible apply Keeps.mk_sound) <;> first
        | exact id
        | exact Table.wf_set
        | exact fun _ => Table.wf_nil
        | exact fun x => ⟨Table.wf_set x.1, x.2⟩
        | exact fun x => ⟨x.1, Table.wf_set x.2⟩
        | exact fun x => ⟨x.2, x.2⟩
        | exact fun x => PointsOk.like x rfl rfl rfl
        | exact fun x => PointsOk.retain x rfl rfl rfl
        | exact fun x => PointsOk.restore x rfl rfl rfl
        | exact fun x => PointsOk.frozen x rfl rfl rfl
        | exact fun x => PointsOk.put x (quality_masked _)
        | exact fun x => PointsOk.putRetained x (quality_masked _)
        | skip
    | fail)

theorem keeps_takesPhase {s0 : State} (s : State) (hk : Keeps s0 s) :
    Keeps s0 (takesPhase s) := by
  unfold takesPhase
  repeat' (first
    | with_reducible assumption
    | with_reducible apply keeps_foldS
    | with_reducible apply keeps_putTake
    | with_reducible apply keeps_beginTake
    | with_reducible intro _
    | extract_lets
    | split
    | simp -zeta only [Keeps.mk_upd_iff]
    | dsimp +zetaDelta only)

theorem keeps_clearRecut {s0 : State} (s : State) (hk : Keeps s0 s) :
    Keeps s0 (clearRecut s) := by
  unfold clearRecut
  repeat' (first
    | with_reducible assumption
    | with_reducible apply keeps_foldS
    | with_reducible apply keeps_putStg
    | with_reducible intro _
    | extract_lets
    | split
    | simp -zeta only [Keeps.mk_upd_iff]
    | dsimp +zetaDelta only)

theorem keeps_halfStartPhase {s0 : State} (s : State) (hk : Keeps s0 s) :
    Keeps s0 (halfStartPhase s) := by
  unfold halfStartPhase
  repeat' (first
    | with_reducible assumption
    | with_reducible apply keeps_startBurst
    | with_reducible apply keeps_fallbackPhase
    | with_reducible apply keeps_clearRecut
    | with_reducible apply keeps_inputs
    | with_reducible apply keeps_opsPhase
    | with_reducible apply keeps_fullPhase
    | with_reducible apply keeps_boundaryPhase
    | with_reducible apply keeps_compareSubs
    | with_reducible apply keeps_prepWindows
    | with_reducible apply keeps_takesPhase
    | with_reducible apply keeps_requestPhase
    | with_reducible apply keeps_startDevs
    | with_reducible intro _
    | extract_lets
    | split
    | simp -zeta only [Keeps.mk_upd_iff]
    | dsimp +zetaDelta only)

theorem keeps_execHalfPeriodStart {s0 : State} (s : State) (hk : Keeps s0 s) :
    OutKeeps s0 (execHalfPeriodStart s) := by
  unfold execHalfPeriodStart
  repeat' (first
    | with_reducible assumption
    | with_reducible apply outKeeps_whenUpAnd
    | with_reducible apply OutKeeps.next
    | with_reducible apply keeps_halfStartPhase
    | with_reducible apply keeps_beginHalf
    | with_reducible apply keeps_endHalf
    | with_reducible intro _
    | extract_lets
    | split
    | simp -zeta only [Keeps.mk_upd_iff]
    | dsimp +zetaDelta only)

theorem keeps_handOffRemote {s0 : State} (k : Nat) (s : State) (hk : Keeps s0 s) :
    Keeps s0 (handOffRemote k s) := by
  unfold handOffRemote
  repeat' (first
    | with_reducible assumption
    | with_reducible apply keeps_foldS
    | with_reducible apply keeps_handOffDevs
    | with_reducible apply keeps_handOffCan
    | with_reducible intro _
    | extract_lets
    | split
    | simp -zeta only [Keeps.mk_upd_iff]
    | dsimp +zetaDelta only)

theorem keeps_execHandOffPhase {s0 : State} (k : Nat) (s : State) (hk : Keeps s0 s) :
    OutKeeps s0 (execHandOffPhase k s) := by
  unfold execHandOffPhase
  repeat' (first
    | with_reducible assumption
    | with_reducible apply outKeeps_whenUpAnd
    | with_reducible apply OutKeeps.next
    | with_reducible apply keeps_handOffRemote
    | with_reducible apply keeps_deadline
    | with_reducible apply keeps_putTake
    | with_reducible intro _
    | extract_lets
    | split
    | simp -zeta only [Keeps.mk_upd_iff]
    | dsimp +zetaDelta only)

theorem keeps_publishPt {s0 : State} (st : Nat) (fb : Bool) (e : Nat × Option (Word × Byte)) (s : State) (hk : Keeps s0 s) :
    Keeps s0 (publishPt st fb e s) := by
  unfold publishPt
  repeat' (first
    | with_reducible assumption
    | with_reducible apply keeps_writeStageReq
    | with_reducible apply keeps_putPoint
    | with_reducible intro _
    | extract_lets
    | split
    | dsimp only
    | simp -zeta only [Keeps.mk_upd_iff]
    | dsimp +zetaDelta only)

theorem keeps_putTimer {s0 : State} (n : Nat) (t : Timer) (s : State) (hk : Keeps s0 s) :
    Keeps s0 (putTimer n t s) := by
  unfold putTimer
  repeat' (first
    | with_reducible assumption
    | with_reducible intro _
    | extract_lets
    | split
    | simp -zeta only [Keeps.mk_upd_iff]
    | dsimp +zetaDelta only)

theorem keeps_putCounter {s0 : State} (n : Nat) (c : Counter) (s : State) (hk : Keeps s0 s) :
    Keeps s0 (putCounter n c s) := by
  unfold putCounter
  repeat' (first
    | with_reducible assumption
    | with_reducible intro _
    | extract_lets
    | split
    | simp -zeta only [Keeps.mk_upd_iff]
    | dsimp +zetaDelta only)

theorem keeps_publishStage {s0 : State} (k st : Nat) (s : State) (hk : Keeps s0 s) :
    Keeps s0 (publishStage k st s) := by
  unfold publishStage
  repeat' (first
    | with_reducible assumption
    | with_reducible apply keeps_foldS
    | with_reducible apply keeps_publishPt
    | with_reducible apply keeps_putTimer
    | with_reducible apply keeps_putCounter
    | with_reducible apply keeps_loopCommands
    | with_reducible apply keeps_putStg
    | with_reducible intro _
    | extract_lets
    | split
    | dsimp only
    | simp -zeta only [Keeps.mk_upd_iff]
    | dsimp +zetaDelta only)

theorem keeps_writeFallback {s0 : State} (k st : Nat) (s : State) (hk : Keeps s0 s) :
    Keeps s0 (writeFallback k st s) := by
  unfold writeFallback
  repeat' (first
    | with_reducible assumption
    | with_reducible apply keeps_foldS
    | with_reducible apply keeps_putPoint
    | with_reducible intro _
    | extract_lets
    | split
    | simp -zeta only [Keeps.mk_upd_iff]
    | dsimp +zetaDelta only)

theorem keeps_stageOutput {s0 : State} (k st : Nat) (s : State) (hk : Keeps s0 s) :
    Keeps s0 (stageOutput k st s) := by
  unfold stageOutput
  repeat' (first
    | with_reducible assumption
    | with_reducible apply keeps_foldS
    | with_reducible apply keeps_enterFallback
    | with_reducible apply keeps_publishStage
    | with_reducible apply keeps_loopEnterFb
    | with_reducible apply keeps_writeFallback
    | with_reducible apply keeps_putStg
    | with_reducible intro _
    | extract_lets
    | split
    | simp -zeta only [Keeps.mk_upd_iff]
    | dsimp +zetaDelta only)

theorem keeps_classZero {s0 : State} (s : State) (hk : Keeps s0 s) :
    Keeps s0 (classZero s) := by
  unfold classZero
  extract_lets s1
  have h1 : Keeps s0 s1 := keeps_sendDevs _ (keeps_foldS _ _ _ hk (fun _ _ h => keeps_closeWindow _ _ h))
  clear_value s1
  exact keeps_countProofTake _ ⟨h1.pending, h1.now, h1.variant, h1.draws, h1.image, fun x => { h1.tables x with }⟩

theorem keeps_execOutputPhase {s0 : State} (k : Nat) (s : State) (hk : Keeps s0 s) :
    OutKeeps s0 (execOutputPhase k s) := by
  unfold execOutputPhase
  refine outKeeps_whenUpAnd hk (fun t h => ?_)
  extract_lets s1 _ s2 _ s3 s4 s5 s6
  have h2 : Keeps s0 s2 := keeps_putTake _ _ _ (keeps_foldS _ _ _ h (fun _ _ h => keeps_stageOutput _ _ _ h))
  clear_value s2
  have h3 : Keeps s0 s3 := ⟨h2.pending, h2.now, h2.variant, h2.draws, h2.image, fun x => { h2.tables x with }⟩
  have h5 : Keeps s0 s5 := keeps_foldS _ _ _ (keeps_releaseDevs _ _ h3) (fun _ _ h => keeps_canOutput _ _ h)
  have h6 : Keeps s0 s6 := by
    dsimp only [s6]
    split
    · exact keeps_classZero _ h5
    · exact h5
  clear_value s6
  exact ⟨h6.pending, h6.now, h6.variant, h6.draws, fun x => PointsOk.retain (h6.image x) rfl rfl rfl,
    fun x => { h6.tables x with }⟩

/-! ### Machine/Power.lean -/

theorem keeps_execDipStart {s0 : State} (vin : Word) (s : State) (hk : Keeps s0 s) :
    OutKeeps s0 (execDipStart vin s) := by
  unfold execDipStart
  repeat' (first
    | with_reducible assumption
    | with_reducible apply OutKeeps.next
    | with_reducible intro _
    | extract_lets
    | split
    | simp -zeta only [Keeps.mk_upd_iff]
    | dsimp +zetaDelta only)

theorem keeps_execDipEnd {s0 : State} (vin : Word) (s : State) (hk : Keeps s0 s) :
    OutKeeps s0 (execDipEnd vin s) := by
  unfold execDipEnd
  repeat' (first
    | with_reducible assumption
    | with_reducible apply OutKeeps.next
    | with_reducible apply keeps_logEv
    | with_reducible intro _
    | extract_lets
    | split
    | simp -zeta only [Keeps.mk_upd_iff]
    | dsimp +zetaDelta only)

theorem keeps_outputsOff {s0 : State} (s : State) (hk : Keeps s0 s) :
    Keeps s0 (outputsOff s) := by
  unfold outputsOff
  repeat' (first
    | with_reducible assumption
    | with_reducible apply keeps_foldS
    | with_reducible apply keeps_canOff
    | with_reducible apply keeps_driveOutputs
    | with_reducible apply keeps_pairRestart
    | with_reducible intro _
    | extract_lets
    | split
    | simp -zeta only [Keeps.mk_upd_iff]
    | dsimp +zetaDelta only
    | (with_reducible apply Keeps.mk_sound) <;> first
        | exact id
        | exact Table.wf_set
        | exact fun _ => Table.wf_nil
        | exact fun x => ⟨Table.wf_set x.1, x.2⟩
        | exact fun x => ⟨x.1, Table.wf_set x.2⟩
        | exact fun x => ⟨x.2, x.2⟩
        | exact fun x => PointsOk.like x rfl rfl rfl
        | exact fun x => PointsOk.retain x rfl rfl rfl
        | exact fun x => PointsOk.restore x rfl rfl rfl
        | exact fun x => PointsOk.frozen x rfl rfl rfl
        | exact fun x => PointsOk.put x (quality_masked _)
        | exact fun x => PointsOk.putRetained x (quality_masked _)
        | skip
    | fail)

theorem keeps_atTick {s0 : State} (t : Nat) (f : State → State) (s : State) (hk : Keeps s0 s)
    (hk_f : ∀ x u, Keeps x u → Keeps x (f u)) : Keeps s0 (atTick t f s) := by
  have g := hk_f { s with now := t } _ (Keeps.refl _)
  exact ⟨g.pending.trans hk.pending, hk.now, g.variant.trans hk.variant, Nat.le_trans hk.draws g.draws,
    fun x => g.image (hk.image x), fun x => { g.tables { hk.tables x with } with }⟩

theorem keeps_stopSteps {s0 : State} (t : Nat) (s : State) (hk : Keeps s0 s) :
    Keeps s0 (stopSteps t s) := by
  unfold stopSteps
  repeat' (first
    | with_reducible assumption
    | with_reducible apply keeps_atTick
    | with_reducible apply keeps_logEv
    | with_reducible intro _
    | extract_lets
    | split
    | simp -zeta only [Keeps.mk_upd_iff]
    | dsimp +zetaDelta only)

theorem keeps_restoreBoot {s0 : State} (s : State) (hk : Keeps s0 s) :
    Keeps s0 (restoreBoot s) := by
  unfold restoreBoot
  repeat' (first
    | with_reducible assumption
    | with_reducible intro _
    | extract_lets
    | split
    | simp -zeta only [Keeps.mk_upd_iff]
    | dsimp +zetaDelta only
    | (with_reducible apply Keeps.mk_sound) <;> first
        | exact id
        | exact Table.wf_set
        | exact fun _ => Table.wf_nil
        | exact fun x => ⟨Table.wf_set x.1, x.2⟩
        | exact fun x => ⟨x.1, Table.wf_set x.2⟩
        | exact fun x => ⟨x.2, x.2⟩
        | exact fun x => PointsOk.like x rfl rfl rfl
        | exact fun x => PointsOk.retain x rfl rfl rfl
        | exact fun x => PointsOk.restore x rfl rfl rfl
        | exact fun x => PointsOk.frozen x rfl rfl rfl
        | exact fun x => PointsOk.put x (quality_masked _)
        | exact fun x => PointsOk.putRetained x (quality_masked _)
        | skip
    | fail)

theorem keptLoops_wf {s : State} (h : Table.wf LoopRt.fresh s.loops.kept = true) :
    Table.wf LoopRt.fresh (keptLoops s) = true := by
  unfold keptLoops
  generalize s.loops.kept = k at h ⊢
  suffices g : ∀ t, Table.wf LoopRt.fresh t = true → Table.wf LoopRt.fresh (s.loops.rt.foldl (fun t e =>
      Table.set LoopRt.fresh t e.1 { Table.get LoopRt.fresh k e.1 with lastOut := e.2.lastOut }) t) = true from g k h
  generalize s.loops.rt = l
  induction l with
  | nil => exact fun t ht => ht
  | cons e l ih => exact fun t ht => ih _ (Table.wf_set ht)

theorem keeps_goDown {s0 : State} (cause : Nat) (s : State) (hk : Keeps s0 s) :
    Keeps s0 (goDown cause s) := by
  have h := keeps_outputsOff _ hk
  exact ⟨h.pending, h.now, h.variant, h.draws, h.image, fun x => { h.tables x with
    takes := rfl, loops := keptLoops_wf (h.tables x).loopsKept, conns := rfl }⟩

theorem keeps_auxOff {s0 : State} (s : State) (hk : Keeps s0 s) :
    Keeps s0 (auxOff s) := by
  unfold auxOff
  repeat' (first
    | with_reducible assumption
    | with_reducible intro _
    | extract_lets
    | split
    | simp -zeta only [Keeps.mk_upd_iff]
    | dsimp +zetaDelta only)

theorem keeps_stopSequence {s0 : State} (cause t : Nat) (s : State) (hk : Keeps s0 s) :
    Keeps s0 (stopSequence cause t s) := by
  unfold stopSequence
  repeat' (first
    | with_reducible assumption
    | with_reducible apply keeps_restoreBoot
    | with_reducible apply keeps_stopSteps
    | with_reducible apply keeps_goDown
    | with_reducible intro _
    | extract_lets
    | split
    | simp -zeta only [Keeps.mk_upd_iff]
    | dsimp +zetaDelta only)

theorem keeps_execPowerFail {s0 : State} (s : State) (hk : Keeps s0 s) :
    OutKeeps s0 (execPowerFail s) := by
  unfold execPowerFail
  repeat' (first
    | with_reducible assumption
    | with_reducible apply OutKeeps.next
    | with_reducible apply keeps_auxOff
    | with_reducible apply keeps_stopSequence
    | with_reducible intro _
    | extract_lets
    | split
    | simp -zeta only [Keeps.mk_upd_iff]
    | dsimp +zetaDelta only)

theorem keeps_execRstnAssert {s0 : State} (s : State) (hk : Keeps s0 s) :
    OutKeeps s0 (execRstnAssert s) := by
  unfold execRstnAssert
  repeat' (first
    | with_reducible assumption
    | with_reducible apply OutKeeps.next
    | with_reducible apply keeps_stopSequence
    | with_reducible intro _
    | extract_lets
    | split
    | simp -zeta only [Keeps.mk_upd_iff]
    | dsimp +zetaDelta only)

theorem keeps_execBootWatchdog {s0 : State} (s : State) (hk : Keeps s0 s) :
    OutKeeps s0 (execBootWatchdog s) := by
  unfold execBootWatchdog
  repeat' (first
    | with_reducible assumption
    | with_reducible apply outKeeps_whenUpAnd
    | with_reducible apply OutKeeps.next
    | with_reducible apply keeps_goDown
    | with_reducible intro _
    | extract_lets
    | split
    | simp -zeta only [Keeps.mk_upd_iff]
    | dsimp +zetaDelta only)

theorem keeps_execSwreset {s0 : State} (s : State) (hk : Keeps s0 s) :
    OutKeeps s0 (execSwreset s) := by
  unfold execSwreset
  repeat' (first
    | with_reducible assumption
    | with_reducible apply OutKeeps.next
    | with_reducible apply keeps_goDown
    | with_reducible apply keeps_stopSteps
    | with_reducible intro _
    | extract_lets
    | split
    | simp -zeta only [Keeps.mk_upd_iff]
    | dsimp +zetaDelta only)

theorem keeps_execAuxOverload {s0 : State} (s : State) (hk : Keeps s0 s) :
    OutKeeps s0 (execAuxOverload s) := by
  unfold execAuxOverload
  repeat' (first
    | with_reducible assumption
    | with_reducible apply OutKeeps.next
    | with_reducible apply keeps_drawIn
    | with_reducible apply keeps_logEv
    | with_reducible intro _
    | extract_lets
    | split
    | dsimp only
    | simp -zeta only [Keeps.mk_upd_iff]
    | dsimp +zetaDelta only)

theorem keeps_execAuxRetry {s0 : State} (ovr : Bool) (s : State) (hk : Keeps s0 s) :
    OutKeeps s0 (execAuxRetry ovr s) := by
  unfold execAuxRetry
  repeat' (first
    | with_reducible assumption
    | with_reducible apply OutKeeps.next
    | with_reducible intro _
    | extract_lets
    | split
    | simp -zeta only [Keeps.mk_upd_iff]
    | dsimp +zetaDelta only)

/-! ### Machine/Start.lean -/

theorem keeps_undoUpdate {s0 : State} (s : State) (hk : Keeps s0 s) :
    Keeps s0 (undoUpdate s) := by
  unfold undoUpdate
  repeat' (first
    | with_reducible assumption
    | with_reducible apply keeps_foldS
    | with_reducible apply keeps_putInB
    | with_reducible intro _
    | extract_lets
    | split
    | dsimp only
    | simp -zeta only [Keeps.mk_upd_iff]
    | dsimp +zetaDelta only)

theorem keeps_undoRecord {s0 : State} (u : Option Upd) (s : State) (hk : Keeps s0 s) :
    Keeps s0 (undoRecord u s) := by
  unfold undoRecord
  repeat' (first
    | with_reducible assumption
    | with_reducible apply keeps_done
    | with_reducible apply keeps_failRecord
    | with_reducible apply keeps_putUpd
    | with_reducible intro _
    | extract_lets
    | split
    | simp -zeta only [Keeps.mk_upd_iff]
    | dsimp +zetaDelta only)

theorem keeps_romJudge {s0 : State} (b : BootFacts) (s : State) (hk : Keeps s0 s) :
    Keeps s0 (romJudge b s) := by
  unfold romJudge
  repeat' (first
    | with_reducible assumption
    | with_reducible apply keeps_foldS
    | with_reducible apply keeps_putBank
    | with_reducible intro _
    | extract_lets
    | split
    | dsimp only
    | simp -zeta only [Keeps.mk_upd_iff]
    | dsimp +zetaDelta only)

theorem keeps_romStart {s0 : State} (s : State) (hk : Keeps s0 s) :
    Keeps s0 (romStart s) := by
  unfold romStart
  repeat' (first
    | with_reducible assumption
    | with_reducible intro _
    | extract_lets
    | split
    | simp -zeta only [Keeps.mk_upd_iff]
    | dsimp +zetaDelta only
    | (with_reducible apply Keeps.mk_sound) <;> first
        | exact id
        | exact Table.wf_set
        | exact fun _ => Table.wf_nil
        | exact fun x => ⟨Table.wf_set x.1, x.2⟩
        | exact fun x => ⟨x.1, Table.wf_set x.2⟩
        | exact fun x => ⟨x.2, x.2⟩
        | exact fun x => PointsOk.like x rfl rfl rfl
        | exact fun x => PointsOk.retain x rfl rfl rfl
        | exact fun x => PointsOk.restore x rfl rfl rfl
        | exact fun x => PointsOk.frozen x rfl rfl rfl
        | exact fun x => PointsOk.put x (quality_masked _)
        | exact fun x => PointsOk.putRetained x (quality_masked _)
        | skip
    | fail)

theorem keeps_testUnits {s0 : State} (b : BootFacts) (s : State) (hk : Keeps s0 s) :
    Keeps s0 (testUnits b s) := by
  unfold testUnits
  repeat' (first
    | with_reducible assumption
    | with_reducible apply keeps_placeCheck
    | with_reducible intro _
    | extract_lets
    | split
    | simp -zeta only [Keeps.mk_upd_iff]
    | dsimp +zetaDelta only
    | (with_reducible apply Keeps.mk_sound) <;> first
        | exact id
        | exact Table.wf_set
        | exact fun _ => Table.wf_nil
        | exact fun x => ⟨Table.wf_set x.1, x.2⟩
        | exact fun x => ⟨x.1, Table.wf_set x.2⟩
        | exact fun x => ⟨x.2, x.2⟩
        | exact fun x => PointsOk.like x rfl rfl rfl
        | exact fun x => PointsOk.retain x rfl rfl rfl
        | exact fun x => PointsOk.restore x rfl rfl rfl
        | exact fun x => PointsOk.frozen x rfl rfl rfl
        | exact fun x => PointsOk.put x (quality_masked _)
        | exact fun x => PointsOk.putRetained x (quality_masked _)
        | skip
    | fail)

theorem keeps_testPair {s0 : State} (b : BootFacts) (p : Nat) (s : State) (hk : Keeps s0 s) :
    Keeps s0 (testPair b p s) := by
  unfold testPair
  repeat' (first
    | with_reducible assumption
    | with_reducible apply keeps_retirePair
    | with_reducible apply keeps_predict
    | with_reducible apply keeps_unpredict
    | with_reducible intro _
    | extract_lets
    | split
    | simp -zeta only [Keeps.mk_upd_iff]
    | dsimp +zetaDelta only)

theorem keeps_judgeCause {s0 : State} (c : Bool) (cause : Nat) (s : State) (hk : Keeps s0 s) :
    Keeps s0 (judgeCause c cause s) := by
  unfold judgeCause
  repeat' (first
    | with_reducible assumption
    | with_reducible apply keeps_predict
    | with_reducible apply keeps_unpredict
    | with_reducible intro _
    | extract_lets
    | split
    | simp -zeta only [Keeps.mk_upd_iff]
    | dsimp +zetaDelta only)

theorem keeps_selfTest {s0 : State} (b : BootFacts) (s : State) (hk : Keeps s0 s) :
    Keeps s0 (selfTest b s) := by
  unfold selfTest
  repeat' (first
    | with_reducible assumption
    | with_reducible apply keeps_foldS
    | with_reducible apply keeps_testPair
    | with_reducible apply keeps_judgeCause
    | with_reducible apply keeps_refreshMod
    | with_reducible intro _
    | extract_lets
    | split
    | simp -zeta only [Keeps.mk_upd_iff]
    | dsimp +zetaDelta only)

theorem keeps_pendingSources {s0 : State} (s : State) (hk : Keeps s0 s) :
    Keeps s0 (pendingSources s) := by
  unfold pendingSources
  repeat' (first
    | with_reducible assumption
    | with_reducible apply keeps_fireSource
    | with_reducible intro _
    | extract_lets
    | split
    | simp -zeta only [Keeps.mk_upd_iff]
    | dsimp +zetaDelta only)

theorem keeps_endRepl {s0 : State} (s : State) (hk : Keeps s0 s) :
    Keeps s0 (endRepl s) := by
  unfold endRepl
  repeat' (first
    | with_reducible assumption
    | with_reducible apply keeps_certify
    | with_reducible apply keeps_putKey
    | with_reducible intro _
    | extract_lets
    | split
    | simp -zeta only [Keeps.mk_upd_iff]
    | dsimp +zetaDelta only)

theorem keeps_readRoot {s0 : State} (h : Helper) (differ : Nat) (s : State) (hk : Keeps s0 s) :
    Keeps s0 (readRoot h differ s).2 := by
  unfold readRoot
  repeat' (first
    | with_reducible assumption
    | with_reducible apply keeps_draw256
    | with_reducible intro _
    | extract_lets
    | split
    | dsimp only
    | simp -zeta only [Keeps.mk_upd_iff]
    | dsimp +zetaDelta only)

theorem keeps_regenRoot {s0 : State} (puf : List Nat) (h : Helper) (s : State) (hk : Keeps s0 s) :
    Keeps s0 (regenRoot puf h s).2 := by
  unfold regenRoot
  generalize puf.take 3 = l
  refine (?_ : ∀ x : Option (BitVec 256) × State, Keeps s0 x.2 → Keeps s0 (List.foldl _ x l).2) (none, s) hk
  induction l with
  | nil => exact fun x hx => hx
  | cons d l ih =>
    intro x hx
    apply ih
    dsimp only
    split
    · exact hx
    · exact keeps_readRoot _ _ _ hx

theorem keeps_readKeys {s0 : State} (b : BootFacts) (s : State) (hk : Keeps s0 s) :
    Keeps s0 (readKeys b s) := by
  unfold readKeys
  repeat' (first
    | with_reducible assumption
    | with_reducible apply keeps_regenRoot
    | with_reducible intro _
    | extract_lets
    | split
    | dsimp only
    | simp -zeta only [Keeps.mk_upd_iff]
    | dsimp +zetaDelta only)

theorem keeps_judgeKeyloss {s0 : State} (s : State) (hk : Keeps s0 s) :
    Keeps s0 (judgeKeyloss s) := by
  unfold judgeKeyloss
  repeat' (first
    | with_reducible assumption
    | with_reducible intro _
    | extract_lets
    | split
    | simp -zeta only [Keeps.mk_upd_iff]
    | dsimp +zetaDelta only)

theorem keeps_rootStart {s0 : State} (b : BootFacts) (s : State) (hk : Keeps s0 s) :
    Keeps s0 (rootStart b s) := by
  unfold rootStart
  repeat' (first
    | with_reducible assumption
    | with_reducible apply keeps_endRepl
    | with_reducible apply keeps_pendingSources
    | with_reducible apply keeps_readKeys
    | with_reducible apply keeps_enrol
    | with_reducible apply keeps_logEv
    | with_reducible apply keeps_judgeKeyloss
    | with_reducible intro _
    | extract_lets
    | split
    | simp -zeta only [Keeps.mk_upd_iff]
    | dsimp +zetaDelta only)

theorem keeps_factoryRegion {s0 : State} (r : Nat) (s : State) (hk : Keeps s0 s) :
    Keeps s0 (factoryRegion r s) := by
  unfold factoryRegion
  repeat' (first
    | with_reducible assumption
    | with_reducible intro _
    | extract_lets
    | split
    | simp -zeta only [Keeps.mk_upd_iff]
    | dsimp +zetaDelta only
    | (with_reducible apply Keeps.mk_sound) <;> first
        | exact id
        | exact Table.wf_set
        | exact fun _ => Table.wf_nil
        | exact fun x => ⟨Table.wf_set x.1, x.2⟩
        | exact fun x => ⟨x.1, Table.wf_set x.2⟩
        | exact fun x => ⟨x.2, x.2⟩
        | exact fun x => PointsOk.like x rfl rfl rfl
        | exact fun x => PointsOk.retain x rfl rfl rfl
        | exact fun x => PointsOk.restore x rfl rfl rfl
        | exact fun x => PointsOk.frozen x rfl rfl rfl
        | exact fun x => PointsOk.put x (quality_masked _)
        | exact fun x => PointsOk.putRetained x (quality_masked _)
        | skip
    | fail)

theorem keeps_factoryRegions {s0 : State} (s : State) (hk : Keeps s0 s) :
    Keeps s0 (factoryRegions s) := by
  unfold factoryRegions
  repeat' (first
    | with_reducible assumption
    | with_reducible apply keeps_foldS
    | with_reducible apply keeps_factoryRegion
    | with_reducible intro _
    | extract_lets
    | split
    | simp -zeta only [Keeps.mk_upd_iff]
    | dsimp +zetaDelta only)

theorem keeps_resetNets {s0 : State} (s : State) (hk : Keeps s0 s) :
    Keeps s0 (resetNets s) := by
  unfold resetNets
  repeat' (first
    | with_reducible assumption
    | with_reducible intro _
    | extract_lets
    | split
    | dsimp only
    | simp -zeta only [Keeps.mk_upd_iff]
    | dsimp +zetaDelta only)

theorem keeps_resetField {s0 : State} (s : State) (hk : Keeps s0 s) :
    Keeps s0 (resetField s) := by
  have H : ∀ p q t : State, Keeps s0 p → Keeps s0 q → Keeps s0 t → Keeps s0 { t with
      saf := { p.saf with hostReq := [], reqTx := 0, cycle := 0 }
      msl := { q.msl with discards := 0, statAt := [], statW := [], opened := [] } } := fun p q t hp hq ht =>
    ⟨ht.pending, ht.now, ht.variant, ht.draws, ht.image, fun x => { ht.tables x with
      safIn := (hp.tables x).safIn, safOut := (hp.tables x).safOut, safFn := (hp.tables x).safFn
      safInB := (hp.tables x).safInB, safFnB := (hp.tables x).safFnB, mslSlot := (hq.tables x).mslSlot }⟩
  have ht : Keeps s0 { s with
      field := { State.reset.field with cfg := s.field.cfg, temp := s.field.temp }, bar := State.reset.bar } :=
    ⟨hk.pending, hk.now, hk.variant, hk.draws, hk.image, fun x => { hk.tables x with
      di := rfl, dout := rfl, ao := rfl, enc := rfl }⟩
  exact H _ _ _ (keeps_pairRestart _ ht) (keeps_mslRestart _ ht) ht

theorem keeps_resetHost {s0 : State} (s : State) (hk : Keeps s0 s) :
    Keeps s0 (resetHost s) := by
  unfold resetHost
  repeat' (first
    | with_reducible assumption
    | with_reducible intro _
    | extract_lets
    | split
    | simp -zeta only [Keeps.mk_upd_iff]
    | dsimp +zetaDelta only
    | (with_reducible apply Keeps.mk_sound) <;> first
        | exact id
        | exact Table.wf_set
        | exact fun _ => Table.wf_nil
        | exact fun x => ⟨Table.wf_set x.1, x.2⟩
        | exact fun x => ⟨x.1, Table.wf_set x.2⟩
        | exact fun x => ⟨x.2, x.2⟩
        | exact fun x => PointsOk.like x rfl rfl rfl
        | exact fun x => PointsOk.retain x rfl rfl rfl
        | exact fun x => PointsOk.restore x rfl rfl rfl
        | exact fun x => PointsOk.frozen x rfl rfl rfl
        | exact fun x => PointsOk.put x (quality_masked _)
        | exact fun x => PointsOk.putRetained x (quality_masked _)
        | skip
    | fail)

theorem keeps_resetEngines {s0 : State} (s : State) (hk : Keeps s0 s) :
    Keeps s0 (resetEngines s) := by
  unfold resetEngines
  repeat' (first
    | with_reducible assumption
    | with_reducible intro _
    | extract_lets
    | split
    | simp -zeta only [Keeps.mk_upd_iff]
    | dsimp +zetaDelta only
    | (with_reducible apply Keeps.mk_sound) <;> first
        | exact id
        | exact Table.wf_set
        | exact fun _ => Table.wf_nil
        | exact fun x => ⟨Table.wf_set x.1, x.2⟩
        | exact fun x => ⟨x.1, Table.wf_set x.2⟩
        | exact fun x => ⟨x.2, x.2⟩
        | exact fun x => PointsOk.like x rfl rfl rfl
        | exact fun x => PointsOk.retain x rfl rfl rfl
        | exact fun x => PointsOk.restore x rfl rfl rfl
        | exact fun x => PointsOk.frozen x rfl rfl rfl
        | exact fun x => PointsOk.put x (quality_masked _)
        | exact fun x => PointsOk.putRetained x (quality_masked _)
        | skip
    | fail)

theorem keeps_resetClock {s0 : State} (s : State) (hk : Keeps s0 s) :
    Keeps s0 (resetClock s) := by
  unfold resetClock
  repeat' (first
    | with_reducible assumption
    | with_reducible apply keeps_judgeHoldover
    | with_reducible intro _
    | extract_lets
    | split
    | simp -zeta only [Keeps.mk_upd_iff]
    | dsimp +zetaDelta only)

theorem keeps_stopStage {s0 : State} (st : Nat) (s : State) (hk : Keeps s0 s) :
    Keeps s0 (stopStage st s) := by
  unfold stopStage
  repeat' (first
    | with_reducible assumption
    | with_reducible apply keeps_putStg
    | with_reducible apply keeps_putProg
    | with_reducible intro _
    | extract_lets
    | split
    | simp -zeta only [Keeps.mk_upd_iff]
    | dsimp +zetaDelta only)

theorem keeps_loadStages {s0 : State} (s : State) (hk : Keeps s0 s) :
    Keeps s0 (loadStages s) := by
  unfold loadStages
  repeat' (first
    | with_reducible assumption
    | with_reducible apply keeps_foldS
    | with_reducible apply keeps_stopStage
    | with_reducible intro _
    | extract_lets
    | split
    | simp -zeta only [Keeps.mk_upd_iff]
    | dsimp +zetaDelta only)

theorem keeps_applyPending {s0 : State} (s : State) (hk : Keeps s0 s) :
    Keeps s0 (applyPending s) := by
  unfold applyPending
  repeat' (first
    | with_reducible assumption
    | with_reducible apply keeps_foldS
    | with_reducible apply keeps_rollback
    | with_reducible apply keeps_stopStage
    | with_reducible apply keeps_applyCommits
    | with_reducible intro _
    | extract_lets
    | split
    | simp -zeta only [Keeps.mk_upd_iff]
    | dsimp +zetaDelta only
    | (with_reducible apply Keeps.mk_sound) <;> first
        | exact id
        | exact Table.wf_set
        | exact fun _ => Table.wf_nil
        | exact fun x => ⟨Table.wf_set x.1, x.2⟩
        | exact fun x => ⟨x.1, Table.wf_set x.2⟩
        | exact fun x => ⟨x.2, x.2⟩
        | exact fun x => PointsOk.like x rfl rfl rfl
        | exact fun x => PointsOk.retain x rfl rfl rfl
        | exact fun x => PointsOk.restore x rfl rfl rfl
        | exact fun x => PointsOk.frozen x rfl rfl rfl
        | exact fun x => PointsOk.put x (quality_masked _)
        | exact fun x => PointsOk.putRetained x (quality_masked _)
        | skip
    | fail)

theorem keeps_startLoops {s0 : State} (k : StartKind) (st : Nat) (s : State) (hk : Keeps s0 s) :
    Keeps s0 (startLoops k st s) := by
  unfold startLoops
  repeat' (first
    | with_reducible assumption
    | with_reducible apply keeps_foldS
    | with_reducible apply keeps_coldLoop
    | with_reducible apply keeps_warmLoop
    | with_reducible intro _
    | extract_lets
    | split
    | simp -zeta only [Keeps.mk_upd_iff]
    | dsimp +zetaDelta only)

theorem keeps_startStage {s0 : State} (was : List Nat) (st : Nat) (s : State) (hk : Keeps s0 s) :
    Keeps s0 (startStage was st s) := by
  unfold startStage
  repeat' (first
    | with_reducible assumption
    | with_reducible apply keeps_startProgram
    | with_reducible apply keeps_startLoops
    | with_reducible apply keeps_putStg
    | with_reducible intro _
    | extract_lets
    | split
    | simp -zeta only [Keeps.mk_upd_iff]
    | dsimp +zetaDelta only)

theorem keeps_startStages {s0 : State} (s : State) (hk : Keeps s0 s) :
    Keeps s0 (startStages s) := by
  unfold startStages
  repeat' (first
    | with_reducible assumption
    | with_reducible apply keeps_foldS
    | with_reducible apply keeps_applyPending
    | with_reducible apply keeps_startStage
    | with_reducible apply keeps_mapQual
    | with_reducible apply keeps_lanesGone
    | with_reducible intro _
    | extract_lets
    | split
    | simp -zeta only [Keeps.mk_upd_iff]
    | dsimp +zetaDelta only
    | (with_reducible apply Keeps.mk_sound) <;> first
        | exact id
        | exact Table.wf_set
        | exact fun _ => Table.wf_nil
        | exact fun x => ⟨Table.wf_set x.1, x.2⟩
        | exact fun x => ⟨x.1, Table.wf_set x.2⟩
        | exact fun x => ⟨x.2, x.2⟩
        | exact fun x => PointsOk.like x rfl rfl rfl
        | exact fun x => PointsOk.retain x rfl rfl rfl
        | exact fun x => PointsOk.restore x rfl rfl rfl
        | exact fun x => PointsOk.frozen x rfl rfl rfl
        | exact fun x => PointsOk.put x (quality_masked _)
        | exact fun x => PointsOk.putRetained x (quality_masked _)
        | skip
    | fail)

theorem keeps_startSlate {s0 : State} (s : State) (hk : Keeps s0 s) :
    Keeps s0 (startSlate s) := by
  unfold startSlate
  repeat' (first
    | with_reducible assumption
    | with_reducible apply keeps_halfStartPhase
    | with_reducible apply keeps_placeAll
    | with_reducible intro _
    | extract_lets
    | split
    | simp -zeta only [Keeps.mk_upd_iff]
    | dsimp +zetaDelta only)

theorem keeps_railsUp {s0 : State} (s : State) (hk : Keeps s0 s) :
    Keeps s0 (railsUp s) := by
  unfold railsUp
  repeat' (first
    | with_reducible assumption
    | with_reducible intro _
    | extract_lets
    | split
    | simp -zeta only [Keeps.mk_upd_iff]
    | dsimp +zetaDelta only)

theorem keeps_enterRecovery {s0 : State} (b : BootFacts) (cause : Nat) (s : State) (hk : Keeps s0 s) :
    Keeps s0 (enterRecovery b cause s) := by
  unfold enterRecovery
  repeat' (first
    | with_reducible assumption
    | with_reducible apply keeps_outputsOff
    | with_reducible apply keeps_judgeKeyloss
    | with_reducible apply keeps_readKeys
    | with_reducible intro _
    | extract_lets
    | split
    | simp -zeta only [Keeps.mk_upd_iff]
    | dsimp +zetaDelta only
    | (with_reducible apply Keeps.mk_sound) <;> first
        | exact id
        | exact Table.wf_set
        | exact fun _ => Table.wf_nil
        | exact fun x => ⟨Table.wf_set x.1, x.2⟩
        | exact fun x => ⟨x.1, Table.wf_set x.2⟩
        | exact fun x => ⟨x.2, x.2⟩
        | exact fun x => PointsOk.like x rfl rfl rfl
        | exact fun x => PointsOk.retain x rfl rfl rfl
        | exact fun x => PointsOk.restore x rfl rfl rfl
        | exact fun x => PointsOk.frozen x rfl rfl rfl
        | exact fun x => PointsOk.put x (quality_masked _)
        | exact fun x => PointsOk.putRetained x (quality_masked _)
        | skip
    | fail)

theorem keeps_lateRecords {s0 : State} (pwr : Option (List Byte)) (noCores : Bool) (subst : List Nat) (u : Option Upd) (s : State) (hk : Keeps s0 s) :
    Keeps s0 (lateRecords pwr noCores subst u s) := by
  unfold lateRecords
  repeat' (first
    | with_reducible assumption
    | with_reducible apply keeps_foldS
    | with_reducible apply keeps_logEv
    | with_reducible apply keeps_undoRecord
    | with_reducible intro _
    | extract_lets
    | split
    | simp -zeta only [Keeps.mk_upd_iff]
    | dsimp +zetaDelta only)

theorem keeps_firmwareStart {s0 : State} (b : BootFacts) (s : State) (hk : Keeps s0 s) :
    Keeps s0 (firmwareStart b s) := by
  unfold firmwareStart
  repeat' (first
    | with_reducible assumption
    | with_reducible apply keeps_startSlate
    | with_reducible apply keeps_startStages
    | with_reducible apply keeps_loadStages
    | with_reducible apply keeps_rootStart
    | with_reducible apply keeps_resetClock
    | with_reducible apply keeps_logEv
    | with_reducible intro _
    | extract_lets
    | split
    | simp -zeta only [Keeps.mk_upd_iff]
    | dsimp +zetaDelta only)

theorem keeps_startModule {s0 : State} (b : BootFacts) (s : State) (hk : Keeps s0 s) :
    Keeps s0 (startModule b s) := by
  unfold startModule
  repeat' (first
    | with_reducible assumption
    | with_reducible apply keeps_foldS
    | with_reducible apply keeps_romStart
    | with_reducible apply keeps_undoUpdate
    | with_reducible apply keeps_factoryRegions
    | with_reducible apply keeps_resumeFrac
    | with_reducible apply keeps_recoverRtc
    | with_reducible apply keeps_railsUp
    | with_reducible apply keeps_romJudge
    | with_reducible apply keeps_resetHost
    | with_reducible apply keeps_resetField
    | with_reducible apply keeps_resetNets
    | with_reducible apply keeps_resetEngines
    | with_reducible apply keeps_enterRecovery
    | with_reducible apply keeps_putInB
    | with_reducible apply keeps_testUnits
    | with_reducible apply keeps_judgeKeyloss
    | with_reducible apply keeps_readKeys
    | with_reducible apply keeps_firmwareStart
    | with_reducible apply keeps_lateRecords
    | with_reducible apply keeps_selfTest
    | with_reducible intro _
    | extract_lets
    | split
    | simp -zeta only [Keeps.mk_upd_iff]
    | dsimp +zetaDelta only)

theorem keeps_execPowerGood {s0 : State} (b : BootFacts) (s : State) (hk : Keeps s0 s) :
    OutKeeps s0 (execPowerGood b s) := by
  unfold execPowerGood
  repeat' (first
    | with_reducible assumption
    | with_reducible apply OutKeeps.next
    | with_reducible apply keeps_startModule
    | with_reducible intro _
    | extract_lets
    | split
    | simp -zeta only [Keeps.mk_upd_iff]
    | dsimp +zetaDelta only)

/-! ### Machine/Registers.lean -/

theorem keeps_stageReg {s0 : State} (r : RegId) (v : Dword) (s : State) (hk : Keeps s0 s) :
    Keeps s0 (stageReg r v s) := by
  unfold stageReg
  repeat' (first
    | with_reducible assumption
    | with_reducible apply keeps_putTx
    | with_reducible intro _
    | extract_lets
    | split
    | simp -zeta only [Keeps.mk_upd_iff]
    | dsimp +zetaDelta only)

theorem keeps_writeAlm {s0 : State} (a i : Nat) (w : Word) (s : State) (hk : Keeps s0 s) :
    Keeps s0 (writeAlm a i w s) := by
  unfold writeAlm
  repeat' (first
    | with_reducible assumption
    | with_reducible apply keeps_putAlarm
    | with_reducible intro _
    | extract_lets
    | split
    | simp -zeta only [Keeps.mk_upd_iff]
    | dsimp +zetaDelta only)

theorem keeps_clearLost {s0 : State} (c b : Nat) (v : Bool) (s : State) (hk : Keeps s0 s) :
    Keeps s0 (clearLost c b v s) := by
  unfold clearLost
  repeat' (first
    | with_reducible assumption
    | with_reducible apply keeps_putCan
    | with_reducible intro _
    | extract_lets
    | split
    | simp -zeta only [Keeps.mk_upd_iff]
    | dsimp +zetaDelta only)

theorem keeps_writeReg {s0 : State} (r : RegId) (v : Dword) (s : State) (hk : Keeps s0 s) :
    Keeps s0 (writeReg r v s) := by
  unfold writeReg
  repeat' (first
    | with_reducible assumption
    | with_reducible apply keeps_putTimecfg
    | with_reducible apply keeps_writeAlm
    | with_reducible apply keeps_clearLost
    | with_reducible apply keeps_stageReg
    | with_reducible intro _
    | extract_lets
    | split
    | simp -zeta only [Keeps.mk_upd_iff]
    | dsimp +zetaDelta only)

theorem keeps_execRegisterWrite {s0 : State} (r : RegId) (v : Dword) (s : State) (hk : Keeps s0 s) :
    OutKeeps s0 (execRegisterWrite r v s) := by
  unfold execRegisterWrite
  repeat' (first
    | with_reducible assumption
    | with_reducible apply outKeeps_whenUp
    | with_reducible apply OutKeeps.next
    | with_reducible apply keeps_writeReg
    | with_reducible intro _
    | extract_lets
    | split
    | simp -zeta only [Keeps.mk_upd_iff]
    | dsimp +zetaDelta only)

theorem keeps_execLostClear {s0 : State} (c buf : Nat) (v : Bool) (s : State) (hk : Keeps s0 s) :
    OutKeeps s0 (execLostClear c buf v s) := by
  unfold execLostClear
  repeat' (first
    | with_reducible assumption
    | with_reducible apply outKeeps_whenUp
    | with_reducible apply OutKeeps.next
    | with_reducible apply keeps_clearLost
    | with_reducible intro _
    | extract_lets
    | split
    | simp -zeta only [Keeps.mk_upd_iff]
    | dsimp +zetaDelta only)

theorem keeps_execPinUpdate {s0 : State} (mw : Word) (s : State) (hk : Keeps s0 s) :
    OutKeeps s0 (execPinUpdate mw s) := by
  unfold execPinUpdate
  repeat' (first
    | with_reducible assumption
    | with_reducible apply outKeeps_whenUp
    | with_reducible apply OutKeeps.next
    | with_reducible intro _
    | extract_lets
    | split
    | simp -zeta only [Keeps.mk_upd_iff]
    | dsimp +zetaDelta only)

end Sys2Proof.Machine
end

