-- ==== Sys2Proof/Laws/Log.lean ====
section
/-! SUPPORT. What recording does to the state: every operation of the continuity log changes the log and the arrival
count, and nothing else. -/

namespace Sys2Proof.Machine
open Sys2Proof

/-- `t` is `s` but for its log and its arrival count. -/
def LogOnly (s t : State) : Prop := t = { s with log := t.log, arrSeq := t.arrSeq }

theorem LogOnly.refl (s : State) : LogOnly s s := rfl

theorem LogOnly.trans {s t u : State} (h : LogOnly s t) (h' : LogOnly t u) : LogOnly s u := by
  unfold LogOnly at *; rw [h', h]

theorem logOnly_mk {s : State} (l : LogS) (a : ArrS) : LogOnly s { s with log := l, arrSeq := a } := rfl

theorem logOnly_foldS {α : Type} {f : α → State → State} (h : ∀ a s, LogOnly s (f a s)) (l : List α) :
    ∀ s, LogOnly s (foldS l f s) := by
  induction l with
  | nil => exact fun s => LogOnly.refl s
  | cons a t ih => exact fun s => LogOnly.trans (h a s) (ih (f a s))

theorem logOnly_nextArr (n : Nat) (s : State) : LogOnly s (nextArr n s).2 := logOnly_mk _ _

theorem logOnly_pushRec (r : Rec) (s : State) : LogOnly s (pushRec r s) := by
  unfold pushRec; dsimp only
  split
  · exact logOnly_mk _ _
  · split
    · exact logOnly_mk _ _
    · split
      · exact logOnly_mk _ _
      · split <;> exact logOnly_mk _ _

theorem logOnly_storeRec (r : Rec) (s : State) : LogOnly s (storeRec r s) := by
  unfold storeRec
  have h := logOnly_nextArr r.rank s
  generalize nextArr r.rank s = n at h ⊢
  dsimp only
  split
  · exact h
  · exact LogOnly.trans h (logOnly_pushRec _ _)

theorem logOnly_closeWin (w : LogWin) (s : State) : LogOnly s (closeWin w s) := by
  unfold closeWin; dsimp only
  split
  · exact logOnly_mk _ _
  · exact LogOnly.trans (logOnly_mk _ _) (logOnly_storeRec _ _)

theorem logOnly_putWin (a b : LogWin) (s : State) : LogOnly s (putWin a b s) := logOnly_mk _ _

theorem logOnly_catchAll (r : Rec) (s : State) : LogOnly s (catchAll r s) := by
  unfold catchAll
  have h := logOnly_nextArr r.rank s
  generalize (nextArr r.rank s).2 = u at h ⊢
  dsimp only
  split
  · exact LogOnly.trans h (logOnly_putWin _ _ _)
  · exact LogOnly.trans h (logOnly_mk _ _)

theorem logOnly_judgeRec (r : Rec) (b n w : Nat) (s : State) : LogOnly s (judgeRec r b n w s) := by
  unfold judgeRec
  extract_lets prog s'
  have h : LogOnly s s' := by
    dsimp only [s']
    split
    · exact logOnly_closeWin _ _
    · exact LogOnly.refl _
  refine LogOnly.trans h ?_
  split
  · split
    · exact LogOnly.trans (logOnly_putWin _ _ _) (logOnly_storeRec _ _)
    · split
      · exact logOnly_storeRec _ _
      · exact LogOnly.trans (logOnly_nextArr _ _) (logOnly_putWin _ _ _)
  · split
    · split
      · exact logOnly_storeRec _ _
      · exact logOnly_catchAll _ _
    · exact LogOnly.trans (logOnly_mk _ _) (logOnly_storeRec _ _)

theorem logOnly_logEv (c v o : Nat) (w : Word) (src : Nat) (d : List Byte) (s : State) :
    LogOnly s (logEv c v o w src d s) := by
  unfold logEv; dsimp only
  split
  · exact logOnly_storeRec _ _
  · exact logOnly_judgeRec _ _ _ _ _

theorem logOnly_logProg (e : EvEnt) (s : State) : LogOnly s (logProg e s) := by
  unfold logProg; dsimp only
  exact logOnly_judgeRec _ _ _ _ _

theorem logOnly_logDropped (e : EvEnt) (s : State) : LogOnly s (logDropped e s) := by
  unfold logDropped
  have h := logOnly_nextArr (mkRec s e.code.toNat e.sev e.stage 0 1 []).rank s
  generalize mkRec s e.code.toNat e.sev e.stage 0 1 [] = r at h ⊢
  generalize bandLimit e.sev = nw
  dsimp only
  generalize (nextArr r.rank s).2 = u at h ⊢
  split
  · exact LogOnly.trans h (logOnly_putWin _ _ _)
  · split
    · exact logOnly_catchAll _ _
    · exact LogOnly.trans h (logOnly_mk _ _)

/-! ### What a record leaves -/

section
variable (c v o : Nat) (w : Word) (src : Nat) (d : List Byte) (s : State)

@[simp] theorem logEv_pending : (logEv c v o w src d s).pending = s.pending := by rw [logOnly_logEv c v o w src d s]
@[simp] theorem logEv_now : (logEv c v o w src d s).now = s.now := by rw [logOnly_logEv c v o w src d s]
@[simp] theorem logEv_freeCtr : (logEv c v o w src d s).freeCtr = s.freeCtr := by rw [logOnly_logEv c v o w src d s]
@[simp] theorem logEv_variant : (logEv c v o w src d s).variant = s.variant := by rw [logOnly_logEv c v o w src d s]
@[simp] theorem logEv_out : (logEv c v o w src d s).out = s.out := by rw [logOnly_logEv c v o w src d s]
@[simp] theorem logEv_points : (logEv c v o w src d s).points = s.points := by rw [logOnly_logEv c v o w src d s]
@[simp] theorem logEv_slate : (logEv c v o w src d s).slate = s.slate := by rw [logOnly_logEv c v o w src d s]
@[simp] theorem logEv_takes : (logEv c v o w src d s).takes = s.takes := by rw [logOnly_logEv c v o w src d s]
@[simp] theorem logEv_eng : (logEv c v o w src d s).eng = s.eng := by rw [logOnly_logEv c v o w src d s]
@[simp] theorem logEv_progs : (logEv c v o w src d s).progs = s.progs := by rw [logOnly_logEv c v o w src d s]
@[simp] theorem logEv_loops : (logEv c v o w src d s).loops = s.loops := by rw [logOnly_logEv c v o w src d s]
@[simp] theorem logEv_bar : (logEv c v o w src d s).bar = s.bar := by rw [logOnly_logEv c v o w src d s]
@[simp] theorem logEv_field : (logEv c v o w src d s).field = s.field := by rw [logOnly_logEv c v o w src d s]
@[simp] theorem logEv_saf : (logEv c v o w src d s).saf = s.saf := by rw [logOnly_logEv c v o w src d s]
@[simp] theorem logEv_msl : (logEv c v o w src d s).msl = s.msl := by rw [logOnly_logEv c v o w src d s]
@[simp] theorem logEv_eth : (logEv c v o w src d s).eth = s.eth := by rw [logOnly_logEv c v o w src d s]
@[simp] theorem logEv_can : (logEv c v o w src d s).can = s.can := by rw [logOnly_logEv c v o w src d s]
@[simp] theorem logEv_host : (logEv c v o w src d s).host = s.host := by rw [logOnly_logEv c v o w src d s]
@[simp] theorem logEv_rtc : (logEv c v o w src d s).rtc = s.rtc := by rw [logOnly_logEv c v o w src d s]
@[simp] theorem logEv_keys : (logEv c v o w src d s).keys = s.keys := by rw [logOnly_logEv c v o w src d s]
@[simp] theorem logEv_upd : (logEv c v o w src d s).upd = s.upd := by rw [logOnly_logEv c v o w src d s]
@[simp] theorem logEv_integ : (logEv c v o w src d s).integ = s.integ := by rw [logOnly_logEv c v o w src d s]
@[simp] theorem logEv_power : (logEv c v o w src d s).power = s.power := by rw [logOnly_logEv c v o w src d s]

end

end Sys2Proof.Machine
end

