-- ==== Sys2Proof/Laws/Lanes.lean ====
section
/-! SUPPORT. What the end of a section does: a merge changes the takes, the log and the scene's bookkeeping; a halt
also the fault record, the violation count and the pair. -/

namespace Sys2Proof.Machine
open Sys2Proof

/-- `t` is `s` but for its takes, its log and the scene's bookkeeping in the engine. -/
def SceneOnly (s t : State) : Prop :=
  t = { s with
    log := t.log, arrSeq := t.arrSeq, takes := t.takes
    eng := { s.eng with scene := t.eng.scene, slots := t.eng.slots, waiting := t.eng.waiting, recovered := t.eng.recovered } }

theorem SceneOnly.refl (s : State) : SceneOnly s s := rfl

theorem SceneOnly.trans {s t u : State} (h : SceneOnly s t) (h' : SceneOnly t u) : SceneOnly s u := by
  unfold SceneOnly at *; rw [h', h]

theorem SceneOnly.of_log {s t : State} (h : LogOnly s t) : SceneOnly s t := by
  unfold LogOnly at h; unfold SceneOnly; rw [h]

theorem sceneOnly_mergeSlot (k : Nat) (sl : SecSlot) (s : State) : SceneOnly s (mergeSlot k sl s) := by
  unfold mergeSlot; dsimp only
  split
  · refine SceneOnly.trans ?_ (SceneOnly.of_log (logOnly_foldS logOnly_logDropped _ _))
    refine SceneOnly.trans ?_ (SceneOnly.of_log (logOnly_foldS logOnly_logProg _ _))
    rfl
  · exact SceneOnly.refl s

theorem sceneOnly_foldS {α : Type} {f : α → State → State} (h : ∀ a s, SceneOnly s (f a s)) (l : List α) :
    ∀ s, SceneOnly s (foldS l f s) := by
  induction l with
  | nil => exact fun s => SceneOnly.refl s
  | cons a t ih => exact fun s => SceneOnly.trans (h a s) (ih (f a s))

theorem sceneOnly_mergeScene (s : State) : SceneOnly s (mergeScene s) := by
  unfold mergeScene
  split
  · exact SceneOnly.refl s
  · exact SceneOnly.trans (sceneOnly_foldS (sceneOnly_mergeSlot _) s.eng.slots s) rfl

theorem sceneOnly_sceneCheck (s : State) : SceneOnly s (sceneCheck s) := by
  unfold sceneCheck; split
  · exact sceneOnly_mergeScene s
  · exact SceneOnly.refl s

@[simp] theorem sceneCheck_points (s : State) : (sceneCheck s).points = s.points := by rw [sceneOnly_sceneCheck s]
@[simp] theorem sceneCheck_loops (s : State) : (sceneCheck s).loops = s.loops := by rw [sceneOnly_sceneCheck s]
@[simp] theorem sceneCheck_progs (s : State) : (sceneCheck s).progs = s.progs := by rw [sceneOnly_sceneCheck s]
@[simp] theorem sceneCheck_run (s : State) : (sceneCheck s).eng.run = s.eng.run := by rw [sceneOnly_sceneCheck s]
@[simp] theorem sceneCheck_flt (s : State) : (sceneCheck s).eng.flt = s.eng.flt := by rw [sceneOnly_sceneCheck s]
@[simp] theorem sceneCheck_timers (s : State) : (sceneCheck s).eng.timers = s.eng.timers := by
  rw [sceneOnly_sceneCheck s]
@[simp] theorem sceneCheck_counters (s : State) : (sceneCheck s).eng.counters = s.eng.counters := by
  rw [sceneOnly_sceneCheck s]

/-- A scene with a section left to run goes on. -/
theorem sceneCheck_open {s : State} (h : ∃ sl ∈ s.eng.slots, sl.isOpen = true) : sceneCheck s = s := by
  obtain ⟨sl, hm, ho⟩ := h
  unfold sceneCheck
  have : s.eng.slots.all (fun sl => !sl.isOpen) = false := by
    apply Bool.eq_false_iff.mpr
    intro hc
    have := List.all_eq_true.mp hc sl hm
    simp [ho] at this
  simp [this]

/-- A scene with no section left to run is merged. -/
theorem sceneCheck_done {s : State} (hs : s.eng.scene.isSome = true) (h : ∀ sl ∈ s.eng.slots, sl.isOpen = false) :
    sceneCheck s = mergeScene s := by
  unfold sceneCheck
  have : s.eng.slots.all (fun sl => !sl.isOpen) = true := by
    apply List.all_eq_true.mpr
    intro sl hm; simp [h sl hm]
  simp [this, hs]

@[simp] theorem freePair_points (p : Nat) (s : State) : (freePair p s).points = s.points := by
  unfold freePair; split <;> (try split) <;> rfl
@[simp] theorem freePair_loops (p : Nat) (s : State) : (freePair p s).loops = s.loops := by
  unfold freePair; split <;> (try split) <;> rfl
@[simp] theorem freePair_progs (p : Nat) (s : State) : (freePair p s).progs = s.progs := by
  unfold freePair; split <;> (try split) <;> rfl
@[simp] theorem freePair_takes (p : Nat) (s : State) : (freePair p s).takes = s.takes := by
  unfold freePair; split <;> (try split) <;> rfl
@[simp] theorem freePair_flt (p : Nat) (s : State) : (freePair p s).eng.flt = s.eng.flt := by
  unfold freePair; split <;> (try split) <;> rfl
@[simp] theorem freePair_slots (p : Nat) (s : State) : (freePair p s).eng.slots = s.eng.slots := by
  unfold freePair; split <;> (try split) <;> rfl
@[simp] theorem freePair_scene (p : Nat) (s : State) : (freePair p s).eng.scene = s.eng.scene := by
  unfold freePair; split <;> (try split) <;> rfl
@[simp] theorem freePair_timers (p : Nat) (s : State) : (freePair p s).eng.timers = s.eng.timers := by
  unfold freePair; split <;> (try split) <;> rfl
@[simp] theorem freePair_counters (p : Nat) (s : State) : (freePair p s).eng.counters = s.eng.counters := by
  unfold freePair; split <;> (try split) <;> rfl
theorem freePair_run {s : State} (h : s.eng.waiting = []) (p : Nat) :
    (freePair p s).eng.run = Table.set none s.eng.run p none := by
  unfold freePair; simp [h]

end Sys2Proof.Machine
end

