-- ==== Sys2Proof/Laws/Puts.lean ====
section
/-! SUPPORT. Reads after writes of the numbered collections: another number reads as before, and the number written reads
as written where the table is canonical, or where what is written is not what an unlisted number reads as. -/

namespace Sys2Proof.Machine
open Sys2Proof

variable (s : State)

theorem canOf_putCan_ne {c j : Nat} (h : j ≠ c) (x : Can) : canOf (putCan c x s) j = canOf s j :=
  Table.get_set_ne h

theorem canOf_putCan {c : Nat} (x : Can) (h : Table.wf Can.factory s.can = true) : canOf (putCan c x s) c = x :=
  Table.get_set_same h

theorem canOf_putCan_listed {c : Nat} {x : Can} (h : x ≠ Can.factory) : canOf (putCan c x s) c = x :=
  Table.get_set_listed h

theorem macOf_putMac_ne {m j : Nat} (h : j ≠ m) (x : Mac) : macOf (putMac m x s) j = macOf s j :=
  Table.get_set_ne h

theorem macOf_putMac {m : Nat} (x : Mac) (h : Table.wf Mac.zero s.eth.mac = true) : macOf (putMac m x s) m = x :=
  Table.get_set_same h

theorem macOf_putMac_listed {m : Nat} {x : Mac} (h : x ≠ Mac.zero) : macOf (putMac m x s) m = x :=
  Table.get_set_listed h

theorem devRt_putDevRt_ne {key j : Nat} (h : j ≠ key) (x : DevRt) : devRt (putDevRt key x s) j = devRt s j :=
  Table.get_set_ne h

theorem devRt_putDevRt {key : Nat} (x : DevRt) (h : Table.wf DevRt.zero s.eth.devRt = true) : devRt (putDevRt key x s) key = x :=
  Table.get_set_same h

theorem devRt_putDevRt_listed {key : Nat} {x : DevRt} (h : x ≠ DevRt.zero) : devRt (putDevRt key x s) key = x :=
  Table.get_set_listed h

theorem winOf_putWin__ne {g j : Nat} (h : j ≠ g) (x : SegWin) : winOf (putWin_ g x s) j = winOf s j :=
  Table.get_set_ne h

theorem winOf_putWin_ {g : Nat} (x : SegWin) (h : Table.wf SegWin.none s.eth.win = true) : winOf (putWin_ g x s) g = x :=
  Table.get_set_same h

theorem winOf_putWin__listed {g : Nat} {x : SegWin} (h : x ≠ SegWin.none) : winOf (putWin_ g x s) g = x :=
  Table.get_set_listed h

theorem diOf_putDi_ne {n j : Nat} (h : j ≠ n) (x : DiS) : diOf (putDi n x s) j = diOf s j :=
  Table.get_set_ne h

theorem diOf_putDi {n : Nat} (x : DiS) (h : Table.wf DiS.zero s.field.di = true) : diOf (putDi n x s) n = x :=
  Table.get_set_same h

theorem diOf_putDi_listed {n : Nat} {x : DiS} (h : x ≠ DiS.zero) : diOf (putDi n x s) n = x :=
  Table.get_set_listed h

theorem aoOf_putAo_ne {n j : Nat} (h : j ≠ n) (x : AoS) : aoOf (putAo n x s) j = aoOf s j :=
  Table.get_set_ne h

theorem aoOf_putAo {n : Nat} (x : AoS) (h : Table.wf AoS.zero s.field.ao = true) : aoOf (putAo n x s) n = x :=
  Table.get_set_same h

theorem aoOf_putAo_listed {n : Nat} {x : AoS} (h : x ≠ AoS.zero) : aoOf (putAo n x s) n = x :=
  Table.get_set_listed h

theorem encOf_putEnc_ne {c j : Nat} (h : j ≠ c) (x : EncS) : encOf (putEnc c x s) j = encOf s j :=
  Table.get_set_ne h

theorem encOf_putEnc {c : Nat} (x : EncS) (h : Table.wf EncS.zero s.field.enc = true) : encOf (putEnc c x s) c = x :=
  Table.get_set_same h

theorem encOf_putEnc_listed {c : Nat} {x : EncS} (h : x ≠ EncS.zero) : encOf (putEnc c x s) c = x :=
  Table.get_set_listed h

theorem connOf_putConn_ne {cn j : Nat} (h : j ≠ cn) (x : Option Conn) : connOf (putConn cn x s) j = connOf s j :=
  Table.get_set_ne h

theorem connOf_putConn {cn : Nat} (x : Option Conn) (h : Table.wf none s.host.conns = true) : connOf (putConn cn x s) cn = x :=
  Table.get_set_same h

theorem connOf_putConn_listed {cn : Nat} {x : Option Conn} (h : x ≠ none) : connOf (putConn cn x s) cn = x :=
  Table.get_set_listed h

theorem admitOf_putAdmit_ne {st j : Nat} (h : j ≠ st) (x : Admit) : admitOf (putAdmit st x s) j = admitOf s j :=
  Table.get_set_ne h

theorem admitOf_putAdmit {st : Nat} (x : Admit) (h : Table.wf Admit.zero s.host.adm = true) : admitOf (putAdmit st x s) st = x :=
  Table.get_set_same h

theorem admitOf_putAdmit_listed {st : Nat} {x : Admit} (h : x ≠ Admit.zero) : admitOf (putAdmit st x s) st = x :=
  Table.get_set_listed h

theorem devQueue_putDevQueue_ne {key j : Nat} (h : j ≠ key) (x : List DevReq) : devQueue (putDevQueue key x s) j = devQueue s j :=
  Table.get_set_ne h

theorem devQueue_putDevQueue {key : Nat} (x : List DevReq) (h : Table.wf [] s.host.devReq = true) : devQueue (putDevQueue key x s) key = x :=
  Table.get_set_same h

theorem devQueue_putDevQueue_listed {key : Nat} {x : List DevReq} (h : x ≠ []) : devQueue (putDevQueue key x s) key = x :=
  Table.get_set_listed h

theorem txOf_putTx_ne {st j : Nat} (h : j ≠ st) (x : Option Tx) : txOf (putTx st x s) j = txOf s j :=
  Table.get_set_ne h

theorem txOf_putTx {st : Nat} (x : Option Tx) (h : Table.wf none s.host.tx = true) : txOf (putTx st x s) st = x :=
  Table.get_set_same h

theorem txOf_putTx_listed {st : Nat} {x : Option Tx} (h : x ≠ none) : txOf (putTx st x s) st = x :=
  Table.get_set_listed h

theorem sinOf_putSin_ne {n j : Nat} (h : j ≠ n) (x : SinS) : sinOf (putSin n x s) j = sinOf s j :=
  Table.get_set_ne h

theorem sinOf_putSin {n : Nat} (x : SinS) (h : Table.wf SinS.zero s.saf.ins = true) : sinOf (putSin n x s) n = x :=
  Table.get_set_same h

theorem sinOf_putSin_listed {n : Nat} {x : SinS} (h : x ≠ SinS.zero) : sinOf (putSin n x s) n = x :=
  Table.get_set_listed h

theorem sqOf_putSq_ne {m j : Nat} (h : j ≠ m) (x : SqS) : sqOf (putSq m x s) j = sqOf s j :=
  Table.get_set_ne h

theorem sqOf_putSq {m : Nat} (x : SqS) (h : Table.wf SqS.zero s.saf.sq = true) : sqOf (putSq m x s) m = x :=
  Table.get_set_same h

theorem sqOf_putSq_listed {m : Nat} {x : SqS} (h : x ≠ SqS.zero) : sqOf (putSq m x s) m = x :=
  Table.get_set_listed h

theorem sfOf_putSf_ne {f j : Nat} (h : j ≠ f) (x : SfS) : sfOf (putSf f x s) j = sfOf s j :=
  Table.get_set_ne h

theorem sfOf_putSf {f : Nat} (x : SfS) (h : Table.wf SfS.zero s.saf.sf = true) : sfOf (putSf f x s) f = x :=
  Table.get_set_same h

theorem sfOf_putSf_listed {f : Nat} {x : SfS} (h : x ≠ SfS.zero) : sfOf (putSf f x s) f = x :=
  Table.get_set_listed h

theorem mslOf_putMsl_ne {slot j : Nat} (h : j ≠ slot) (x : MslSlot) : mslOf (putMsl slot x s) j = mslOf s j :=
  Table.get_set_ne h

theorem mslOf_putMsl {slot : Nat} (x : MslSlot) (h : Table.wf MslSlot.zero s.msl.slot = true) : mslOf (putMsl slot x s) slot = x :=
  Table.get_set_same h

theorem mslOf_putMsl_listed {slot : Nat} {x : MslSlot} (h : x ≠ MslSlot.zero) : mslOf (putMsl slot x s) slot = x :=
  Table.get_set_listed h

theorem alarmOf_putAlarm_ne {a j : Nat} (h : j ≠ a) (x : Alarm) : alarmOf (putAlarm a x s) j = alarmOf s j :=
  Table.get_set_ne h

theorem alarmOf_putAlarm {a : Nat} (x : Alarm) (h : Table.wf Alarm.factory s.rtc.alarms = true) : alarmOf (putAlarm a x s) a = x :=
  Table.get_set_same h

theorem alarmOf_putAlarm_listed {a : Nat} {x : Alarm} (h : x ≠ Alarm.factory) : alarmOf (putAlarm a x s) a = x :=
  Table.get_set_listed h

theorem inB_putInB_ne {kind j : Nat} (h : j ≠ kind) (x : Bool) : inB (putInB kind x s) j = inB s j :=
  Table.get_set_ne h

theorem inB_putInB {kind : Nat} (x : Bool) (h : Table.wf false s.upd.inB = true) : inB (putInB kind x s) kind = x :=
  Table.get_set_same h

theorem inB_putInB_listed {kind : Nat} {x : Bool} (h : x ≠ false) : inB (putInB kind x s) kind = x :=
  Table.get_set_listed h

/-! ### Banks of images -/

theorem bankOf_putBank_ne {k j : Nat} {a b : Bool} (h : j ≠ k ∨ b ≠ a) (x : Bank) :
    bankOf (putBank k a x s) j b = bankOf s j b := by
  refine Table.get_set_ne ?_
  cases a <;> cases b <;> simp [b2n] at h ⊢ <;> omega

theorem bankOf_putBank {k : Nat} {a : Bool} (x : Bank) (h : Table.wf Bank.erased s.upd.bank = true) :
    bankOf (putBank k a x s) k a = x := Table.get_set_same h

theorem bankOf_putBank_listed {k : Nat} {a : Bool} {x : Bank} (h : x ≠ Bank.erased) :
    bankOf (putBank k a x s) k a = x := Table.get_set_listed h

/-! ### Digital outputs, whose change may be an event -/

@[simp] theorem putDo_dout (n : Nat) (d : DoS) : (putDo n d s).field.dout = Table.set DoS.zero s.field.dout n d := by
  unfold putDo putDoHot; dsimp only; split <;> rfl

theorem doOf_putDo_ne {n m : Nat} (h : m ≠ n) (d : DoS) : doOf (putDo n d s) m = doOf s m := by
  rw [doOf, putDo_dout, Table.get_set_ne h]; rfl

theorem doOf_putDo {n : Nat} (d : DoS) (h : Table.wf DoS.zero s.field.dout = true) : doOf (putDo n d s) n = d := by
  rw [doOf, putDo_dout, Table.get_set_same h]

theorem doOf_putDo_listed {n : Nat} {d : DoS} (h : d ≠ DoS.zero) : doOf (putDo n d s) n = d := by
  rw [doOf, putDo_dout, Table.get_set_listed h]

/-- The events that wait are all else that an output's change can touch. -/
theorem putDo_eq (n : Nat) (d : DoS) : putDo n d s =
    { s with field := { s.field with
        dout := Table.set DoS.zero s.field.dout n d, events := (putDo n d s).field.events } } := by
  unfold putDo putDoHot; dsimp only; split <;> rfl

@[simp] theorem putDo_points (n : Nat) (d : DoS) : (putDo n d s).points = s.points := by rw [putDo_eq]
@[simp] theorem putDo_slate (n : Nat) (d : DoS) : (putDo n d s).slate = s.slate := by rw [putDo_eq]
@[simp] theorem putDo_takes (n : Nat) (d : DoS) : (putDo n d s).takes = s.takes := by rw [putDo_eq]
@[simp] theorem putDo_eng (n : Nat) (d : DoS) : (putDo n d s).eng = s.eng := by rw [putDo_eq]
@[simp] theorem putDo_progs (n : Nat) (d : DoS) : (putDo n d s).progs = s.progs := by rw [putDo_eq]
@[simp] theorem putDo_loops (n : Nat) (d : DoS) : (putDo n d s).loops = s.loops := by rw [putDo_eq]
@[simp] theorem putDo_bar (n : Nat) (d : DoS) : (putDo n d s).bar = s.bar := by rw [putDo_eq]
@[simp] theorem putDo_saf (n : Nat) (d : DoS) : (putDo n d s).saf = s.saf := by rw [putDo_eq]
@[simp] theorem putDo_msl (n : Nat) (d : DoS) : (putDo n d s).msl = s.msl := by rw [putDo_eq]
@[simp] theorem putDo_eth (n : Nat) (d : DoS) : (putDo n d s).eth = s.eth := by rw [putDo_eq]
@[simp] theorem putDo_can (n : Nat) (d : DoS) : (putDo n d s).can = s.can := by rw [putDo_eq]
@[simp] theorem putDo_host (n : Nat) (d : DoS) : (putDo n d s).host = s.host := by rw [putDo_eq]
@[simp] theorem putDo_rtc (n : Nat) (d : DoS) : (putDo n d s).rtc = s.rtc := by rw [putDo_eq]
@[simp] theorem putDo_log (n : Nat) (d : DoS) : (putDo n d s).log = s.log := by rw [putDo_eq]
@[simp] theorem putDo_keys (n : Nat) (d : DoS) : (putDo n d s).keys = s.keys := by rw [putDo_eq]
@[simp] theorem putDo_upd (n : Nat) (d : DoS) : (putDo n d s).upd = s.upd := by rw [putDo_eq]
@[simp] theorem putDo_integ (n : Nat) (d : DoS) : (putDo n d s).integ = s.integ := by rw [putDo_eq]
@[simp] theorem putDo_power (n : Nat) (d : DoS) : (putDo n d s).power = s.power := by rw [putDo_eq]
@[simp] theorem putDo_now (n : Nat) (d : DoS) : (putDo n d s).now = s.now := by rw [putDo_eq]
@[simp] theorem putDo_out (n : Nat) (d : DoS) : (putDo n d s).out = s.out := by rw [putDo_eq]
@[simp] theorem putDo_field_cfg (n : Nat) (d : DoS) : (putDo n d s).field.cfg = s.field.cfg := by rw [putDo_eq]
@[simp] theorem putDo_field_held (n : Nat) (d : DoS) : (putDo n d s).field.held = s.field.held := by rw [putDo_eq]
@[simp] theorem putDo_field_di (n : Nat) (d : DoS) : (putDo n d s).field.di = s.field.di := by rw [putDo_eq]
@[simp] theorem putDo_field_aiShunt (n : Nat) (d : DoS) : (putDo n d s).field.aiShunt = s.field.aiShunt := by rw [putDo_eq]
@[simp] theorem putDo_field_ao (n : Nat) (d : DoS) : (putDo n d s).field.ao = s.field.ao := by rw [putDo_eq]
@[simp] theorem putDo_field_enc (n : Nat) (d : DoS) : (putDo n d s).field.enc = s.field.enc := by rw [putDo_eq]
@[simp] theorem putDo_field_overtemp (n : Nat) (d : DoS) : (putDo n d s).field.overtemp = s.field.overtemp := by rw [putDo_eq]
@[simp] theorem putDo_field_pend (n : Nat) (d : DoS) : (putDo n d s).field.pend = s.field.pend := by rw [putDo_eq]
@[simp] theorem putDo_field_acked (n : Nat) (d : DoS) : (putDo n d s).field.acked = s.field.acked := by rw [putDo_eq]
@[simp] theorem putDo_field_blState (n : Nat) (d : DoS) : (putDo n d s).field.blState = s.field.blState := by rw [putDo_eq]
@[simp] theorem putDo_field_needFull (n : Nat) (d : DoS) : (putDo n d s).field.needFull = s.field.needFull := by rw [putDo_eq]
@[simp] theorem putDo_field_blHoldTo (n : Nat) (d : DoS) : (putDo n d s).field.blHoldTo = s.field.blHoldTo := by rw [putDo_eq]

end Sys2Proof.Machine
end

