-- ==== Sys2Proof/Machine/Pins.lean ====
section
/-! DEFINITION. The status outputs STRUN, STFLT, STSAF and STSVC as the module drives them (R454). They are
functions of the state; no command reads them. -/

namespace Sys2Proof.Machine
open Sys2Proof

/-- What a status output shows: off, on, flashing at 1 Hz, or flashing at 4 Hz. -/
inductive Lamp where
  | off | on | flash | flash4
  deriving DecidableEq, Repr

/-- The upper of the rows that hold. -/
def lampOf (on_ flashing : Bool) : Lamp := if on_ then .on else if flashing then .flash else .off

/-- A stage in service is in fallback (R46). -/
def anyFallback (s : State) : Bool := (List.range 32).any (fun st => (stgRt s st).state == 2)

/-- STRUN (H70). DEDUCED, log 59. -/
def strun (s : State) : Lamp :=
  match s.power.mode with
  | .up => lampOf (s.integ.modstate == 1 || s.integ.modstate == 2) (s.integ.modstate == 0 || s.integ.modstate == 3)
  | _ => .off

/-- STFLT (H71). DEDUCED, log 59. -/
def stflt (s : State) : Lamp :=
  match s.power.mode with
  | .down => .off
  | .recovery => .on
  | .up => lampOf (s.integ.modstate == 4) (anyFallback s || s.keys.latched != 0)

/-- STSAF (H72). DEDUCED, log 59. -/
def stsaf (s : State) : Lamp :=
  match s.power.mode with
  | .down => .off
  | _ => lampOf ((List.range 8).any (fun f => (sfOf s f).st == .lockout))
      ((List.range 8).any (fun f => (sfOf s f).si) || s.saf.inForce.isNone)

/-- STSVC (H73). -/
def stsvc (s : State) : Lamp :=
  match s.power.mode with
  | .down => .off
  | .recovery => if s.upd.sess.isSome then .flash4 else .off
  | .up =>
    if s.host.conns.any (fun e => match e.2 with
      | some c => c.port == .svc && c.sess.isSome
      | none => false) then .on
    else if s.upd.upd.isSome then .flash4 else .off

end Sys2Proof.Machine
end

