-- ==== Sys2Proof/Tests/Slice0.lean ====
section
/-! SUPPORT. The model's own tests: ill-formed commands that WellFormed refuses, small steps whose results are read from the
manual, and for every statement with hypotheses a state and operands that meet them. -/

set_option Elab.async false

namespace Sys2Proof.Tests
open Sys2Proof Sys2Proof.Machine

/-! ## What the tests are built from -/

/-- The state that a command answers. -/
def after (i : Instr) (s : State) : State :=
  match exec i s with
  | .next t => t
  | .fault _ => s
  | .refused _ => s

/-- The factory module in service: powered, tested, its slate started, its keys and its safety pair up. -/
def up : State :=
  { State.reset with
    now := 1_000_000_000
    power := { State.reset.power with mode := .up, pfw := false, aux := true, firstPower := false }
    slate := { State.reset.slate with started := true }
    saf := { State.reset.saf with ha := true, hb := true }
    integ := { State.reset.integ with tested := true, modstate := 1 }
    keys := { State.reset.keys with
      root := some 0, kek := some 0, keyloss := false
      slots := [(0, ⟨0, 1, 0, 0, 0, 0, 0, 0, 0⟩), (1, ⟨1, 2, 1, 0, 0, 0, 0, 0, 0⟩), (33, ⟨33, 2, 0, 0, 0, 0, 0, 0, 0⟩)] }
    host := { State.reset.host with svcOpen := true, tenants := true } }

/-- A section of the house stage, in its first block with W of 1,000 cycles. -/
def sec : SecRun :=
  { stage := 0, secno := 7, cls := 0, scene := 0, core := Core.start 16, buf := WBuf.empty, cycles := 8, w := 1_000
    ckI := 0, ckC := 8, rsCore := Core.start 16, rsBuf := WBuf.empty, rsCycles := 8 }

/-- The section with accumulators. -/
def secWith (wb wa : Word) : SecRun := { sec with core := { sec.core with wb := wb, wa := wa } }

/-- Its program: the section may write points 0x0400 to 0x040F; 0x0120 and 0x0410 are output objects of class 0; the instruction at 16
may reach points 0x0400 to 0x0411 by an index. -/
def prog : Prog :=
  { imageId := 1
    secs := [{ secno := 7, cls := 0, scene := 0, first := 16, count := 2, rd := [], wr := [(0x0400, 0x040F)], w := 1_000, wtool := 900 }]
    subs := [], ranges := [(16, 0x0400, 0x0411)], slots := []
    objs := [⟨0x0120, 1, 2, 0, 0, 0, 0, [], none⟩, ⟨0x0410, 1, 2, 0, 0, 0, 0, [], none⟩]
    code := List.replicate 17 0x0100_0000 ++ [0x9F00_0000], setBytes := 8 }

/-- The module in service with a section on pair 0. -/
def ecmS (r : SecRun) : State :=
  { up with
    eng := { up.eng with run := [(0, r)] }
    progs := { up.progs with
      prog := [(0, prog)]
      stg := [(0, { StageRt.fresh with state := 1 })] } }

/-- The machine state on pair 0 after a command. -/
def coreAfter (i : Instr) (s : State) : Core := ((runOf (after i s) 0).getD sec).core

/-- A session of a stage with roles, on connection 3. -/
def conn (stage : Nat) (roles : Half) : Conn :=
  { Conn.fresh .ul1 0 with tls := true, sess := some 0, stage := stage, principal := 1, roles := roles }

/-- The module in service with that session; its stage's bucket is full. -/
def hostS (c : Conn) : State :=
  { up with host := { up.host with
      conns := [(3, some c)]
      adm := [(c.stage, { Admit.zero with tok := 8_000 * 25_000_000, at_ := 1_000_000_000 })] } }

/-- The state at phase step `n` of its half-period. -/
def atStep (n : Nat) (s : State) : State :=
  { s with slate := { s.slate with halfStart := s.now - (n * s.slate.period + 4_095) / 4_096 } }

/-- The point image and the tables of the module in service are sound. -/
theorem up_sound : PointsOk up.points ∧ TablesOk up :=
  ⟨by constructor <;> decide, by constructor <;> rfl⟩

/-! ## The queue -/

theorem witness_StepExecutesFront : ({ up with pending := [.coreCheckpoint, .cryptoJobDone] } : State).pending =
    Instr.coreCheckpoint :: [.cryptoJobDone] := rfl

theorem witness_EmptyQueueIdles : up.pending = [] := rfl

theorem witness_CommandsKeepQueueClockAndVariant : exec .coreCheckpoint up = .next (after .coreCheckpoint up) := rfl

theorem witness_EveryStepKeepsImageAndTables : PointsOk up.points ∧ TablesOk up ∧
    step { up with pending := [.cryptoJobDone] } = .next up := ⟨up_sound.1, up_sound.2, rfl⟩

theorem test_step_takes_the_front : step { up with pending := [.pinUpdate 7, .pinUpdate 8] } =
    .next { up with pending := [.pinUpdate 8], power := { up.power with pin := 7 } } := rfl

/-- R111: 0x44 is ADD, 0x9F END, 0x98 LOOP and 0x30 TON; 0x00 and 0xFF are not in the map (R81). The rows that are no
instructions have no bits. -/
theorem test_words : decodeTableWord 32 0x4400_0000 = some (.addI 0 0) ∧ decodeEcmund 3 0x9F00_0000 = some (.endS 3 0) ∧
    decodeEcmund 0 0x9803_F00C = some (.loopOp 0 0x03_F00C) ∧ decodeEcmund 0 0x3080_0005 = some (.ton 0 0x80_0005) ∧
    decodeEcmund 0 0x4120_003F = some (.sta 0 0x20_003F) ∧ decodeEcmund 0 0xC060_8001 = some (.evt 0 0x60_8001) ∧
    decodeTableWord 32 0x0000_0000 = none ∧ decodeTableWord 32 0xFF00_0000 = none ∧ decodeTableWord 8 0x44 = none ∧
    State.reset.withFetchWord 8 0x44 = State.reset := by decide

theorem test_fetch_word : (State.reset.withFetchWord 32 0x4400_0000).pending = [.addI 0 0] := by decide

/-! ## Ecmund: every row can run -/

/-- A section with a loop, a return and a bracket open, on its ENDL. -/
def secDeep (ba nc : Bool) : SecRun :=
  { sec with core := { sec.core with
      stw := if ba then 1 else 0, br := [⟨true, 1, nc, 2⟩], lps := [⟨3, 12, 16⟩], calls := [⟨9, 1, 1⟩] } }

/-- A section with 32 brackets, four loops and eight returns. -/
def secFull : SecRun :=
  { sec with core := { sec.core with
      stw := 1, wa := 1, br := List.replicate 32 ⟨true, 1, true, 0⟩, lps := List.replicate 4 ⟨1, 12, 20⟩
      calls := List.replicate 8 ⟨9, 0, 0⟩ } }

theorem witness_IntegerInstructions : ∀ x ∈ intRows ++ divRows ++ bitRows, CanRun x.op 0 0 sec (ecmS sec) := by decide

theorem witness_RealInstructions :
    (∀ op ∈ [0x60, 0x61, 0x62, 0x63, 0x64, 0x65, 0x66, 0x67, 0x68, 0x69, 0x6A, 0x6B, 0x70, 0x71, 0x72, 0x73, 0x74, 0x75],
      CanRun op 0 0 sec (ecmS sec)) ∧ isNaN 0x7FC0_0000 = true ∧ isNaN 0xFF80_0001 = true ∧ isInf 0xFF80_0000 = true ∧
    fSign 0x7F80_0000 ≠ fSign 0xFF80_0000 := by decide

/-- 2^23, -2^23, the least and the greatest number, 0 and -0 are finite. -/
theorem witness_RealInstructions_finite :
    ([0x4B00_0000, 0xCB00_0000, 1, 0, 0x8000_0000, 0x7F7F_FFFF] : List Word).map (fun w => (isNaN w, isInf w)) =
      List.replicate 6 (false, false) := by decide +kernel

theorem witness_RealInstructions_values : fVal 0 = 0 ∧ fVal 0x8000_0000 = 0 ∧ fVal 0x4B00_0000 = 8_388_608 ∧
    fVal 0xCB00_0000 = -8_388_608 := by decide +kernel

theorem witness_RealInstructions_zero_sum : fVal 0x4B00_0000 + fVal 0xCB00_0000 = 0 := by
  rw [witness_RealInstructions_values.2.2.1, witness_RealInstructions_values.2.2.2]
  exact Rat.add_neg_cancel _

theorem witness_CompareInstructions :
    (∀ op ∈ [0x80, 0x81, 0x82, 0x83, 0x84, 0x85, 0x88, 0x89, 0x8A, 0x8B, 0x8C, 0x8D], CanRun op 0 0 sec (ecmS sec)) ∧
    isNaN (secWith 0x3F80_0000 0).core.wb = false ∧ isNaN (secWith 0 0x7FC0_0000).core.wa = true := by decide

/-- Bit operand 0x0004_0001: bit 0 of local L4 (R83). -/
theorem witness_BitLogicInstructions : (∀ op ∈ [0x10, 0x11, 0x12, 0x13, 0x14, 0x15], CanRun op 0x0401 0 sec (ecmS sec)) ∧
    readBitOp (ecmS sec) (sec.atBlockEnd 0x10) 0x0401 = .ok (false, 1) := ⟨by decide, rfl⟩

theorem witness_BitLogicInstructions_accumulator : (∀ op ∈ [0x16, 0x17, 0x18], CanRun op 0 0 sec (ecmS sec)) ∧
    CanRun 0x1E 0x12 0 sec (ecmS sec) := by decide

theorem witness_BracketInstructions : (∀ op ∈ [0x19, 0x1A, 0x1B, 0x1C, 0x1D], CanRun op 0 0 sec (ecmS sec) ∧
      sec.core.br.length < 32 ∧ sec.core.br = []) ∧
    (CanRun 0x19 0 0 secFull (ecmS secFull) ∧ 32 ≤ secFull.core.br.length) ∧
    ∀ nc, CanRun 0x1D 0 0 (secDeep true nc) (ecmS (secDeep true nc)) ∧ (secDeep true nc).core.br = [⟨true, 1, nc, 2⟩] := by
  decide

/-- Bit 0 of local L4, bit 3 of point 0x0400 and the same by index I0 (R83), for stage 0. -/
theorem bits_writable : BitWritable (ecmS sec) sec 0x0401 ∧ BitWritable (ecmS sec) sec 0x04_0018 ∧
    BitWritable (ecmS sec) sec 0x04_001C := by
  refine ⟨?_, ?_, ?_⟩ <;> simp only [BitWritable] <;> first | exact trivial | decide

/-- Beside them a point that the section may not write, one outside the declared range and two outside the write set. -/
theorem witness_BitStoreInstructions : (BitWritable (ecmS sec) sec 0x0401 ∧ BitWritable (ecmS sec) sec 0x04_001C) ∧
    (∀ op ∈ [0x20, 0x21, 0x22, 0x23], ∀ w ∈ [0x0401, 0x04_0018, 0x04_001C, 0x00_8100, 0x04_2004, 0x04_1000, 0x04_1104],
      CanRun op (BitVec.ofNat 24 w) 0 sec (ecmS sec)) ∧ Table.wf (0, 1) sec.core.loc = true ∧
    mayWrite (ecmS sec) 0 (bitPoint sec.core 0x00_8100) = false ∧
    mayWrite (ecmS sec) 0 (bitPoint sec.core 0x04_2004) = true ∧ inRange (ecmS sec) sec (bitPoint sec.core 0x04_2004) = false ∧
    (∀ w ∈ [0x04_1000, 0x04_1104],
      let pt := bitPoint sec.core (BitVec.ofNat 24 w)
      mayWrite (ecmS sec) 0 pt = true ∧ inRange (ecmS sec) sec pt = true ∧ inWrSet (ecmS sec) sec pt = false) :=
  ⟨⟨bits_writable.1, bits_writable.2.2⟩, by decide, by decide⟩

theorem witness_EdgeInstructions : BitWritable (ecmS sec) sec 0x04_0018 ∧ CanRun 0x24 0x04_0018 0 sec (ecmS sec) ∧
    CanRun 0x25 0x04_0018 0 sec (ecmS sec) := ⟨bits_writable.2.1, by decide⟩
/-- A timer that runs. -/
def tonRuns : Timer := { Timer.zero with run := true, pt := 5, s := 100 }

/-- The house stage has 8,192 timer and 4,096 counter slots from the factory; the second state gives it none. -/
theorem witness_TimerInstructions : (∀ op ∈ [0x30, 0x31, 0x32, 0x33, 0x34], CanRun op 0 0 sec (ecmS sec) ∧
      (0#24).toNat % 8192 < tmrCnt (ecmS sec) 0) ∧
    tmrCnt { up with host := { up.host with stg := [(0, ⟨0, 0, 0, 0, 0, 0⟩)] } } 0 ≤ (0#24).toNat % 8192 ∧
    tonRuns.run = true ∧ tonRuns.s.toNat + 1000 * tonRuns.pt.toNat ≤ (5_100#64).toNat := by decide

theorem witness_CounterInstructions : (∀ op ∈ [0x38, 0x39, 0x3A, 0x3B], CanRun op 0 0 sec (ecmS sec) ∧
      (0#24).toNat % 8192 < ctrCnt (ecmS sec) 0) ∧
    ctrCnt { up with host := { up.host with stg := [(0, ⟨0, 0, 0, 0, 0, 0⟩)] } } 0 ≤ (0#24).toNat % 8192 := by decide

/-- Point 0x0400, its quality word and the same by index; a local, an immediate; PT of timer 5 and CV of counter 5 (R85,
R86). -/
theorem words_readable : WordReadable (ecmS sec) sec 0x00_0400 ∧ WordReadable (ecmS sec) sec 0x10_0400 ∧
    WordReadable (ecmS sec) sec 0x50_0400 ∧ WordReadable (ecmS sec) sec 0x38_0000 ∧ WordReadable (ecmS sec) sec 0x61_0005 ∧
    WordWritable (ecmS sec) sec 0x00_0400 ∧ WordWritable (ecmS sec) sec 0x50_0400 ∧ WordWritable (ecmS sec) sec 0x20_000C ∧
    WordWritable (ecmS sec) sec 0x61_0005 ∧ WordWritable (ecmS sec) sec 0x68_0005 := by
  refine ⟨?_, ?_, ?_, ?_, ?_, ?_, ?_, ?_, ?_, ?_⟩ <;> simp only [WordReadable, WordWritable] <;> first | exact trivial | decide

theorem witness_LoadAndStoreInstructions : (WordReadable (ecmS sec) sec 0x50_0400 ∧ WordWritable (ecmS sec) sec 0x50_0400 ∧
      WordWritable (ecmS sec) sec 0x20_000C ∧ WordWritable (ecmS sec) sec 0x61_0005 ∧ WordWritable (ecmS sec) sec 0x68_0005) ∧
    (∀ op ∈ [0x40, 0x4D, 0x41], ∀ w ∈ [0x50_0400, 0x20_000C, 0x61_0005, 0x68_0005], CanRun op (BitVec.ofNat 24 w) 0 sec (ecmS sec)) ∧
    (0x68_0005#24).getLsbD 19 = true ∧ (0x61_0005#24).getLsbD 19 = false ∧
    Table.wf (0, 1) sec.core.loc = true ∧ ∀ op ∈ [0x42, 0x43], CanRun op 0 0 sec (ecmS sec) :=
  ⟨⟨words_readable.2.2.1, words_readable.2.2.2.2.2.2⟩, by decide, by decide⟩

/-- A section of stage 1, which owns no block. -/
def sec1 : SecRun := { sec with stage := 1 }

/-- The module with the image word of point 0x0400 in error. -/
def ueccS (r : SecRun) : State := { ecmS r with points := { up.points with uecc := [0x0400] } }

theorem witness_WordOperandValues : (∀ op ∈ [0x40, 0x4D], ∀ w ∈ [0x00_0400, 0x50_0400, 0x50_0412],
      CanRun op (BitVec.ofNat 24 w) 0 sec (ueccS sec) ∧ CanRun op (BitVec.ofNat 24 w) 0 sec1 (ueccS sec1)) ∧
    (∀ op ∈ [0x10, 0x15], ∀ w ∈ [0x04_0000, 0x04_0004, 0x04_1204],
      CanRun op (BitVec.ofNat 24 w) 0 sec (ueccS sec) ∧ CanRun op (BitVec.ofNat 24 w) 0 sec1 (ueccS sec1)) ∧
    mayRead (ueccS sec1) 1 0x0400 = false ∧ mayRead (ueccS sec) 0 0x0400 = true ∧ mayRead (ueccS sec) 0 0x0412 = true ∧
    inRange (ueccS sec) sec 0x0412 = false ∧ inRange (ueccS sec) sec 0x0400 = true ∧ imageBad (ueccS sec) sec 0x0400 = true :=
  ⟨by decide, by decide, by decide⟩

theorem witness_JumpInstructions : (∀ op ∈ [0x90, 0x91, 0x92, 0x93, 0x94, 0x95, 0x96],
      CanRun op 17 0 sec (ecmS sec) ∧ CanRun op 16 0 sec (ecmS sec)) ∧ sec.core.pc.toNat < (17#24).toNat ∧
    (16#24).toNat ≤ sec.core.pc.toNat := by decide

/-- LOOP with B = 64 and its ENDL 12 instructions later is 0x9803_F00C (R104). -/
theorem witness_LoopInstructions :
    (CanRun 0x98 0x03_F00C 0 sec (ecmS sec) ∧ sec.core.lps.length < 4) ∧
    (CanRun 0x98 0x03_F00C 0 secFull (ecmS secFull) ∧ 4 ≤ secFull.core.lps.length ∧
      (min (max secFull.core.wa.toInt 0) 64).toNat ≠ 0) ∧
    (∀ nc, CanRun 0x99 0 0 (secDeep true nc) (ecmS (secDeep true nc)) ∧
      ∃ e, (secDeep true nc).core.lps = [e] ∧ e.endl = (secDeep true nc).core.pc.toNat ∧ 1 < e.cnt.toNat) ∧
    (CanRun 0x99 0 0 sec (ecmS sec) ∧ sec.core.lps = []) ∧
    (∀ op ∈ [0x9A, 0x9B], CanRun op 17 0 (secDeep true true) (ecmS (secDeep true true)) ∧ CanRun op 16 0 sec (ecmS sec) ∧
      CanRun op 17 0 sec (ecmS sec)) := ⟨by decide, by decide, fun nc => by cases nc <;> exact ⟨by decide, _, rfl, by decide⟩,
  by decide, by decide⟩

theorem witness_CallInstructions :
    (CanRun 0x9C 20 0 sec (ecmS sec) ∧ sec.core.calls.length < 8) ∧
    (CanRun 0x9C 20 0 secFull (ecmS secFull) ∧ 8 ≤ secFull.core.calls.length) ∧
    (∀ op ∈ [0x9D, 0x9E], CanRun op 0 0 (secDeep true true) (ecmS (secDeep true true)) ∧
      CanRun op 0 0 (secDeep false true) (ecmS (secDeep false true)) ∧ CanRun op 0 0 sec (ecmS sec)) ∧
    (∃ e, (secDeep true true).core.calls = [e] ∧ e.depth = (secDeep true true).core.br.length ∧
      e.lps = (secDeep true true).core.lps.length) ∧ sec.core.calls = [] :=
  ⟨by decide, by decide, by decide, ⟨_, rfl, by decide⟩, rfl⟩

theorem witness_QualityInstructions : (∀ q ∈ [0x02, 0x102, 0x202], CanRun 0xA0 (BitVec.ofNat 24 q) 0 sec (ecmS sec) ∧
    CanRun 0xA1 (BitVec.ofNat 24 q) 0 sec (ecmS sec)) ∧ ∀ op ∈ [0xA2, 0xA3], CanRun op 0 0 sec (ecmS sec) := by decide

theorem witness_LoopCommandInstructions : (∀ op ∈ [0xB0, 0xB1, 0xB2, 0xB3, 0xB4], CanRun op 5 0 sec (ecmS sec)) ∧
    ownsLoop (ecmS sec) 0 5 = true ∧ ownsLoop (ecmS sec) 1 5 = false ∧ (loopDesc (ecmS sec) 5).kind ≠ 2 ∧
    (let s := { ecmS sec with loops := { up.loops with desc := [(5, { LoopDesc.unused with kind := 2 })] } }
     CanRun 0xB4 5 0 sec s ∧ (loopDesc s 5).kind = 2) := by decide

/-- A section with 16 event entries. -/
def secEvs (n : Nat) : SecRun :=
  { sec with
    core := { sec.core with stw := 3 }
    buf := { sec.buf with evs := List.replicate n ⟨0, 7, 3, 9, 0, 1, 0⟩ } }

theorem witness_EventInstruction : CanRun 0xC0 0x60_8001 0 sec (ecmS sec) ∧ sec.core.stw.getLsbD 0 = false ∧
    (∀ n ∈ [15, 16], CanRun 0xC0 0x60_8001 0 (secEvs n) (ecmS (secEvs n)) ∧ (secEvs n).core.stw.getLsbD 0 = true ∧
      (secEvs n).buf.evs.length = n) := by decide

theorem witness_SystemInstructions : (∀ op ∈ [0x01, 0xD0, 0xD1, 0xD2, 0xD3, 0xD4, 0xD5], CanRun op 0 0 sec (ecmS sec)) ∧
    CanRun 0xD3 0 0 secFull (ecmS secFull) ∧ secFull.core.lps ≠ [] ∧ sec.core.lps = [] := by decide

/-- A section one cycle short of W. -/
def secLate : SecRun := { sec with cycles := 999 }

theorem witness_EncodingAndBudgetFaults : runOf (ecmS sec) 0 = some sec ∧ codeBad (ecmS sec) sec = false ∧
    reservedWord 0x0000_0000 = true ∧ opAtPc (ecmS secLate) secLate ≠ 0x9F ∧
    secLate.w ≤ secLate.cycles + cyclesOf (opAtPc (ecmS secLate) secLate) ∧ secLate.w ≤ secLate.cycles + 1 ∧
    runOf (ecmS secLate) 0 = some secLate := by decide

theorem witness_HaltDiscardsSection : 1 ≤ fOPC.code ∧ fOPC.code ≤ 8 ∧ (ecmS sec).eng.waiting = [] := by decide

/-- A scene with its section running, alone or beside another that waits. -/
def sceneS (others : List SecSlot) (r : SecRun) : State :=
  { ecmS r with eng := { (ecmS r).eng with scene := some (0, 0), slots := ⟨0, 7, .running, WBuf.empty⟩ :: others } }

theorem witness_EndCompletesSection : (∀ o ∈ [[], [⟨0, 9, .waiting, WBuf.empty⟩]],
      runOf (sceneS o sec) 0 = some sec ∧ codeBad (sceneS o sec) sec = false ∧ (sceneS o sec).eng.scene = some (0, 0)) ∧
    sec.cycles + 5 ≤ sec.w ∧ sec.core.br = [] ∧ sec.core.calls = [] ∧ sec.core.lps = [] ∧
    runOf (ecmS secFull) 0 = some secFull ∧ codeBad (ecmS secFull) secFull = false ∧ secFull.core.br ≠ [] := by decide

/-! ### Values from the manual -/

/-- R100: 1.5 times 0.5 is 0.75 in Q16.16. -/
theorem test_mulq_example : (coreAfter (.mulq 0 0) (ecmS (secWith 0x0001_8000 0x0000_8000))).wa = 0x0000_C000 := by decide

/-- R95: the largest integer plus 1 wraps, sets N and V and no C. -/
theorem test_add_wraps : let c := coreAfter (.addI 0 0) (ecmS (secWith 0x7FFF_FFFF 1))
    c.wa = 0x8000_0000 ∧ c.stw = 0x002A := by decide

/-- R62, R95: a division by 0 gives 0, sets Z, V and DZ, and adds FAULT. -/
theorem test_div_by_zero : let c := coreAfter (.divI 0 0) (ecmS (secWith 7 0))
    c.wa = 0 ∧ c.qa = 0x81 ∧ c.stw = 0x0066 := by decide

/-- R62: the remainder has the sign of the dividend. -/
theorem test_mod_sign : (coreAfter (.modI 0 0) (ecmS (secWith (BitVec.ofInt 32 (-7)) 3))).wa = BitVec.ofInt 32 (-1) := by decide

/-- R96: ROL by 4. -/
theorem test_rol : (coreAfter (.rol 0 4) (ecmS (secWith 0 0xF000_0001))).wa = 0x0000_001F := by decide

/-- R98: 1.0 / 0.0 in binary32 is an infinity and sets DZ. -/
theorem test_divf_by_zero : let c := coreAfter (.divf 0 0) (ecmS (secWith 0x3F80_0000 0))
    c.wa = 0x7F80_0000 ∧ c.stw.getLsbD 6 = true := by decide

/-- R98: 1.5 + 2.25 is 3.75. -/
theorem test_addf : (coreAfter (.addf 0 0) (ecmS (secWith 0x3FC0_0000 0x4010_0000))).wa = 0x4070_0000 := by decide

/-- R106: QCLR QA 0x02 then QSET QA 0x05 makes a stale value valid and substituted. -/
theorem test_quality_example : let s := ecmS { sec with core := { sec.core with qa := 0x02 } }
    (coreAfter (.qset 0 0x105) (after (.qclr 0 0x102) s)).qa = 0x05 := by decide

/-- R104: LOOP 0x03_F00C with WA = 70 is limited to 64 and sets LCLAMP. -/
theorem test_loop_limit : let c := coreAfter (.loopOp 0 0x03_F00C) (ecmS (secWith 0 70))
    c.lps.map (fun e => (e.cnt.toNat, e.endl)) = [(64, 28)] ∧ c.stw.getLsbD 8 = true ∧ c.pc = 17 := by decide

/-- R92: a TON of 30,000 ms started at MT 0 is not due at 29,999 ms and is due at 30,000 ms. -/
theorem test_ton : let t : Timer := { (Timer.zero.stepTON 0 false) with pt := 30_000 }
    ((t.stepTON 0 true).stepTON 29_999_999 true).q = false ∧ ((t.stepTON 0 true).stepTON 30_000_000 true).q = true := by decide

/-! ## Takes, scenes and the mains -/

/-- A take of class 0 in progress with scene `j` placed in its only half-period and its image built. -/
def takeS (j : Nat) (handed : Bool) : State :=
  { ecmS sec with
    eng := { up.eng with run := [] }
    bar := { up.bar with burstDone := true }
    takes := [(0, { ClassTake.idle with active := true, place := [(j, 0)], handed := handed })] }

/-- Its scene with a section that waits. -/
def waitS : State :=
  { takeS 0 false with eng := { up.eng with scene := some (0, 0), slots := [⟨0, 7, .waiting, WBuf.empty⟩] } }

theorem witness_ScenesAndDispatch : sceneMayStart (takeS 0 false) 0 0 = true ∧ sceneSlots (takeS 0 false) 0 0 ≠ [] ∧
    sceneMayStart (takeS 1 false) 0 1 = true ∧ sceneSlots (takeS 1 false) 0 1 = [] ∧ sceneMayStart up 0 0 = false ∧
    waitS.eng.scene = some (0, 0) ∧ waitS.eng.slots = [] ++ ⟨0, 7, .waiting, WBuf.empty⟩ :: [] ∧
    (secDef waitS 0 7).isSome = true ∧ waitS.eng.inService.getLsbD 0 = true ∧ runOf waitS 0 = none ∧
    (∀ sl ∈ up.eng.slots, sl.st ≠ .waiting) := by decide

/-- R37: a scene of the half-period that begins the take waits for its image. -/
theorem test_scene_waits_for_the_image : sceneMayStart { takeS 0 false with bar := up.bar } 0 0 = false := by decide

theorem test_dispatch_takes_pair_0 : (runOf (after .sectionDispatch waitS) 0).map (fun r => (r.secno, r.cycles, r.core.pc)) =
    some (7, 8, 16) := by decide

/-- A section at its END, and the module with a pair retired. -/
def secEnd : SecRun := { sec with core := Core.start 17 }
def eightS : State := { ecmS sec with eng := { (ecmS sec).eng with inService := 0x17F } }

theorem witness_BlockCheckpoints : runOf (ecmS secEnd) 0 = some secEnd ∧ opAtPc (ecmS secEnd) secEnd = 0x9F ∧
    runOf (ecmS sec) 0 = some sec ∧ sec.ckI < 2048 ∧ sec.ckC < 4096 ∧ opAtPc (ecmS sec) sec ≠ 0x9F ∧
    (ecmS sec).eng.inService = 0x1FF ∧ (ecmS sec).eng.recovered = 0 ∧ runOf (ecmS sec) 8 = none ∧
    runOf eightS 0 = some sec ∧ eightS.eng.inService.getLsbD 0 = true ∧ eightS.eng.inService ≠ 0x1FF := by decide

theorem test_double_takes_over : let t := after (.blockCheckpoint 0 false) (ecmS sec)
    (runOf t 8).map (·.secno) = some 7 ∧ t.eng.inService = 0x1FE := by decide

/-- The module at the last tick before the end of its half-period, and at its end. -/
def halfS (ago : Nat) : State := { up with slate := { up.slate with halfStart := 1_000_000_000 - ago } }

theorem witness_HalfPeriodStart : Running (halfS 250_000) ∧ (halfS 250_000).slate.started = true ∧
    (halfS 250_000).power.dip = none ∧ (halfS 250_000).slate.halfStart + (halfS 250_000).slate.period / 2 = up.now ∧
    up.now < (halfS 249_999).slate.halfStart + (halfS 249_999).slate.period / 2 ∧
    State.reset.slate.started = false ∧ (clsCfg up 0).en = true ∧ (clsCfg up 0).n = 0 ∧
    beginsTake up up.slate.halfcnt 0 = true ∧ (∀ j, j < 4 → (clsCfg up j).en = false → (takeOf up j).active = false) ∧
    (let s := { up with slate := { up.slate with cls := [(0, ⟨1536, true, 1⟩)], halfcnt := 1 } };
      (clsCfg s 0).en = true ∧ beginsTake s s.slate.halfcnt 0 = false) := by decide

set_option maxRecDepth 20000 in
/-- R25: the next half-period begins at the instant the last one ended, though the command comes a tick later. -/
theorem test_half_period : (after .halfPeriodStart (halfS 250_001)).slate.halfStart = 999_999_999 ∧
    (after .halfPeriodStart (halfS 249_999)).slate.halfcnt = up.slate.halfcnt := ⟨rfl, rfl⟩

/-- The first half-period of a take of two, at offset 2,040. -/
def lateS : State :=
  let s := takeS 0 false
  atStep 2040 { s with slate := { s.slate with cls := [(0, ⟨1536, true, 1⟩)] } }

theorem witness_DeadlinesAndHandOff : (∀ j, (j ∈ classesOn lateS ∧ (takeOf lateS j).active = true ∧
      lastHalfOf lateS lateS.slate.halfcnt j = false) ↔ j = 0) ∧
    Running lateS ∧ offsetNow lateS = 2040 ∧ Late lateS 0 0 ∧ ¬ Late lateS 0 1 ∧ offsetNow (atStep 2039 lateS) < 2040 ∧
    (let s := atStep 1528 (takeS 1 false)
     Running s ∧ (takeOf s 0).active = true ∧ lastHalfOf s s.slate.halfcnt 0 = true ∧ (takeOf s 0).handed = false ∧
       offsetNow s + 8 = (clsCfg s 0).outph ∧ (∀ st, st < 32 → ¬ Late s 0 st) ∧ fallbackNow s 0 (lioOwner s) = false ∧
       (Table.get StageTake.fresh (takeOf s 0).stage (lioOwner s)).ovr = false ∧ outObjClass s 0x120 = some 0 ∧
       frozen s 0x120 = none) ∧
    isLoopOut (atStep 1528 (takeS 1 false)) 0x120 = false ∧ (takeOf (takeS 0 true) 0).handed = true ∧
    offsetNow (atStep 1529 (takeS 1 false)) + 8 ≠ (clsCfg up 0).outph := by
  have h : classesOn lateS = [0] := by decide
  refine ⟨fun j => ⟨fun x => ?_, ?_⟩, by decide⟩
  · rw [h] at x
    exact List.mem_singleton.1 x.1
  · rintro rfl
    decide

/-- A take with a merged write of 5 to point 0x0400. -/
def mergedS : State :=
  { takeS 0 true with takes := [(0, { ClassTake.idle with
      active := true, handed := true, merged := [(0, { WBuf.empty with pts := [(0x0400, some (5, 1))] })] })] }

theorem witness_PublishedWrites : PointsOk mergedS.points ∧ (stgRt mergedS 0).state ≠ 2 ∧
    (mergedOf mergedS 0 0).pts = [] ++ (0x0400, some (5, 1)) :: [] ∧ isRelRW 0x0400 = false := ⟨up_sound.1, by decide⟩

theorem test_publish : rawPoint (publishStage 0 0 mergedS) 0x0400 = ⟨5, 1⟩ := by decide

theorem witness_OutputPhase : (let s := atStep 1536 (takeS 0 true)
      Running s ∧ (takeOf s 0).active = true ∧ lastHalfOf s s.slate.halfcnt 0 = true ∧ (takeOf s 0).handed = true ∧
        (takeOf s 0).out = false ∧ offsetNow s = (clsCfg s 0).outph) ∧ (takeOf (takeS 0 false) 0).handed = false ∧
    offsetNow (atStep 1537 (takeS 0 true)) ≠ (clsCfg up 0).outph := by decide

/-- The slate with the last crossing `ago` ticks ago. -/
def mainsS (m : SlateMode) (ago : Nat) : State :=
  { up with slate := { up.slate with
      mode := m, lastCross := some (up.now - ago), lastPlaus := some (up.now - ago), firstAfter := false
      lastPer := some 500_000 } }

theorem witness_MainsRows : (mainsS .free 0).slate.mode = .free ∧
    (mainsS .locked 124_999).slate.lastCross = some 999_875_001 ∧ up.now < 999_875_001 + 125_000 ∧
    up.slate.lastCross = none ∧ up.slate.started = true ∧ up.slate.mode ≠ .free ∧
    8 * 65536 ≤ (0x0008_0000#32).toNat ∧ (0x0007_FFFF#32).toNat < 8 * 65536 ∧
    (mainsS .locked 500_000).slate.lastCross = some 999_500_000 ∧ 999_500_000 + 125_000 ≤ up.now ∧
    plausible (mainsS .locked 500_000) 500_000 = true ∧ plausible (mainsS .locked 500_000) 555_557 = false ∧
    (mainsS .locked 555_556).slate.missing = false ∧ up.now - 555_556 + 555_556 ≤ up.now ∧
    (mainsS .flywheel 50_000_000).slate.lastPlaus = some 950_000_000 ∧ 950_000_000 + 50_000_000 ≤ up.now := by decide

/-- R28, R33: a period of 20 ms is 20,000,000 ns. -/
theorem test_mains_period : let t := after (.mainsCrossing 0x00E6_0000) (mainsS .locked 500_000)
    t.slate.mainsPer = 20_000_000 ∧ t.slate.run8 = 1 := by decide

/-! ## The barrier and the local I/O -/

def hdr (a b rep : Bool) (seq : Half) : FrameHdr := ⟨a, b, rep, seq⟩

/-- A command of class 0 for DO 0 on, and one acknowledged at the field side with an event that waits there. -/
def cmd0 : OutCmd := ⟨0, 0, 1, 1, 0, [], false⟩
def ackS : State :=
  { up with
    bar := { up.bar with outTx := [(0, some (cmd0, false))], outSeq := [(0, some 1)] }
    field := { up.field with
      acked := [(0, some ⟨cmd0, 1, 1, []⟩)], events := [⟨0x16, 3, 0, 1, 3, []⟩], pend := [(1, { cmd0 with doMask := 3 })] } }

/-- A module with a telegram of 40 bytes on its way in each direction, of which 34 have crossed. -/
def fragS : State :=
  { up with msl := { up.msl with
      toPair := [(2, List.replicate 40 1)], rxPair := [(2, List.replicate 34 1)]
      fromPair := [(2, List.replicate 40 1)], rxCore := [(2, List.replicate 34 1)] } }

theorem arrives : (Arrives (hdr true true false 1) up.bar.field ∧ Arrives (hdr true true false 1) up.bar.core) ∧
    ¬ Arrives (hdr false false false 1) up.bar.field := by
  unfold Arrives
  decide

theorem witness_FramesToField : TablesOk ackS ∧ Arrives (hdr true true false 1) ackS.bar.field ∧
    ¬ Arrives (hdr false false false 1) ackS.bar.field ∧ Running ackS ∧ Table.get none ackS.bar.outTx 0 = some (cmd0, false) ∧
    (LinkEnd.good.slot true 9 up.now).1 = true ∧ (({ LinkEnd.good with synced := true } : LinkEnd).slot true 9 up.now).1 = false ∧
    (∀ x ∈ ackS.field.pend, x.2.doMask &&& ~~~cmd0.doMask ≠ 0) ∧
    (let got := joinFragment (Table.get [] fragS.msl.rxPair 2) (Table.get [] fragS.msl.toPair 2) 1
     got ≠ [] ∧ got.length = (Table.get [] fragS.msl.toPair 2).length) ∧
    toFieldRow (.safreq (hdr false false false 1)) = some (hdr false false false 1) :=
  ⟨by constructor <;> rfl, arrives.1.1, arrives.2, by decide⟩

/-- R168: a command goes to the field side and is pending there; the older one stays for the channel it alone names. -/
theorem test_outcmd : ((after (.outcmd (hdr true true false 1) 0) ackS).field.pend.map (fun x => (x.1, x.2.doMask))) =
    [(1, 2), (0, 1)] := by decide

/-- A module whose last burst is whole but for `sub`, 48 us after the latch less a tick. -/
def burstS (sub : Nat) : State :=
  { up with
    bar := { up.bar with burst := ((List.range 7).filter (fun i => i != sub)).map (fun i => (i, List.replicate 8 0)) }
    field := { up.field with latAt := 999_998_801 } }

theorem witness_FramesToCore : Arrives (hdr true true false 1) ackS.bar.core ∧
    Arrives (hdr true true false 1) (burstS 3).bar.core ∧ Running ackS ∧
    Table.get none ackS.bar.outTx 0 = some (cmd0, false) ∧ Table.get none ackS.field.acked 0 = some ⟨cmd0, 1, 1, []⟩ ∧
    sentWith ackS 0 1 = true ∧ ackS.field.events ≠ [] ∧ (∀ n, n < 16 → (doOf ackS n).pulse = none) ∧
    (burstS 3).bar.burstDone = false ∧
    (∀ sub ∈ [3, 4], burstWhole ((burstS 3).bar.burst.filter (fun e => e.1 != sub) ++ [(sub, inputWords (burstS 3) sub [])]) =
      decide (sub = 3)) ∧ (burstS 3).now < (burstS 3).field.latAt + 1200 ∧ (burstS 3).bar.ret = .ok ∧
    Table.get [] fragS.msl.fromPair 2 ≠ [] ∧
    (joinFragment (Table.get [] fragS.msl.rxCore 2) (Table.get [] fragS.msl.fromPair 2) 1).length = 40 := ⟨arrives.1.2, arrives.1.2, by decide⟩

/-- R169: a slot whose two good copies differ is counted at the end that saw it. -/
theorem test_differing_copies : (after (.badCopy true false false ⟨false, 1, true⟩) up).bar.field.diffs = 1 := by decide

theorem witness_MissedBursts : PointsOk up.points ∧ Running up ∧ up.slate.started = true ∧ up.bar.burstDone = false ∧
    up.field.latAt + 1200 ≤ up.now ∧ (burstS 3).now < (burstS 3).field.latAt + 1200 := ⟨up_sound.1, by decide⟩

/-- A module with a link that has been without a good copy for `n` slots at an end. -/
def linkS (n : Nat) (ret : Option (Nat × Bool)) : State :=
  { up with bar := { up.bar with
      core := { up.bar.core with a := { LinkEnd.good with noGood := n }, noGood := n }
      field := { up.bar.field with a := { LinkEnd.good with noGood := n }, noGood := n }
      retrainA := ret } }

theorem witness_LinksAndLoss : TablesOk (linkS 25 none) ∧ Running (linkS 4 none) ∧ ((linkS 4 none).bar.core.link .a).bad = false ∧
    4 ≤ ((linkS 4 none).bar.core.link .a).noGood ∧ ((linkS 4 none).bar.field.link .a).bad = false ∧
    4 ≤ ((linkS 4 none).bar.field.link .a).noGood ∧ retrainOf (linkS 4 none) .a = none ∧
    retrainOf (linkS 4 (some (999_975_000, false))) .a = some (999_975_000, false) ∧ 999_975_000 + 25_000 ≤ up.now ∧
    retrainOf (linkS 4 (some (1_000_000_000, true))) .a = some (1_000_000_000, true) ∧ up.now < 1_000_000_000 + 25_000 ∧
    (linkS 25 none).bar.field.loss = false ∧ 25 ≤ (linkS 25 none).bar.field.noGood ∧ (linkS 25 none).bar.core.loss = false ∧
    25 ≤ (linkS 25 none).bar.core.noGood ∧ (linkS 24 none).bar.core.noGood < 25 ∧ bitsOf (docfg up 0) 4 3 = 0 ∧
    (aocfg up 0).getLsbD 0 = false ∧ (let s := { up with field := { up.field with blHoldTo := some up.now } };
      s.field.blHoldTo = some up.now ∧ up.now ≤ s.now) := ⟨by constructor <;> rfl, by decide⟩

/-- A module with DO 0 on, tested by dark pulses, latched or in a pulse since an instant where given; the AI 1 shunt open for
1 s. -/
def doS (latched : Option Nat) (pulse : Option Nat) : State :=
  atStep 1000 { up with field := { up.field with
      cfg := { up.field.cfg with dout := [(0, 0x40)], ai := [(1, 0x0F6E_000A)] }
      dout := [(0, { DoS.zero with cmd := true, appl := latched.isNone, latchedAt := latched, offSince := true, pulse := pulse })]
      aiShunt := [(1, some 975_000_000)] } }

theorem doS_sound (l p : Option Nat) : TablesOk (doS l p) := by
  cases l <;> cases p <;> constructor <;> rfl

theorem witness_LocalChannels : TablesOk (doS none none) ∧ Running (doS none none) ∧ (doOf (doS none none) 0).appl = true ∧
    (doOf (doS (some 975_000_000) none) 0).latchedAt = some 975_000_000 ∧
    (doOf (doS (some 975_000_000) none) 0).offSince = true ∧ 975_000_000 + 25_000_000 ≤ up.now ∧
    up.now < 975_000_001 + 25_000_000 ∧ condApplies (doS none none) 0 2 = true ∧
    (doOf (doS none (some 999_993_750)) 0).pulse = some 999_993_750 ∧ 999_993_750 + 6_250 ≤ up.now ∧
    up.now < 999_992_501 + 7_500 ∧ (doOf (doS none (some 999_993_750)) 0).low = none ∧
    (docfg (doS none none) 0).getLsbD 6 = true ∧ pulseBarred (doS none none) = false ∧
    (∀ m, m < 16 → (doOf (doS none none) m).pulse = none ∧ (doOf (doS none none) m).lastPulse = none) ∧
    (doOf up 0).appl = false ∧ up.field.overtemp = false ∧ bitsOf (aicfg (doS none none) 1) 2 0 = 2 ∧
    Table.get none (doS none none).field.aiShunt 1 = some 975_000_000 := ⟨doS_sound none none, by decide⟩

/-- R188: the output is off in its pulse, and the check comes 250 us into it. -/
theorem test_dark_pulse : let t := after (.darkTestPulse 0) (doS none none)
    (doOf t 0).pulse = some up.now ∧ (doOf t 0).conducts up.now = false ∧
    (doOf (after (.darkTestCheck 0 true) (doS none (some 999_993_751))) 0).low = none ∧
    (doOf (after (.darkTestCheck 0 true) (doS none (some 999_993_750))) 0).low = some true := by decide

/-- An encoder channel in mode 1 that latches its position at Z. -/
def encS : State := { up with field := { up.field with cfg := { up.field.cfg with enc := [(0, 0x0000_1409)] } } }

theorem witness_EncoderEdges : TablesOk encS ∧ Running encS ∧ bitsOf (enccfg encS 0) 2 0 = 1 ∧ bitsOf (enccfg up 0) 2 0 = 0 ∧
    (enccfg encS 0).getLsbD 3 = true ∧ (true : Bool) ≠ (encOf encS 0).a ∧ (true : Bool) ≠ (encOf encS 0).b ∧
    (encOf encS 0).z = false := ⟨by constructor <;> rfl, by decide⟩

/-! ## The loop engine and the outputs -/

/-- A loop that samples at step 100 and writes point 0x0410, and its engine open. -/
def loopD : LoopDesc :=
  { LoopDesc.unused with
    kind := 1, pvpt := 0x0401, sppt := 0xFFFF, outpt := 0x0410, sample := 100, lat := 16, olo := 0, ohi := 0x0064_0000 }

/-- The module at step 100 with that loop in a mode, its process value and set-point valid, and an output due at a point. -/
def loopS (mode : Nat) (pvQ : Half) (out : Nat) : State :=
  atStep 100 { up with
    points := { up.points with pts := [(0x0401, ⟨0x0001_0000, pvQ⟩)] }
    loops := { up.loops with
      desc := [(3, loopD)], open_ := true, katDue := true
      rt := [(3, { LoopRt.fresh with force := ⟨mode, (0x0002_0000, 1), (0x0003_0000, 1), (0x0004_0000, 1)⟩ })]
      due := [⟨3, out, 0x0000_8001, 1, 100⟩] } }

theorem witness_LoopEngineRows : PointsOk (loopS 0 1 0x0410).points ∧
    (∀ m ∈ [0, 1, 2, 3, 4], Running (loopS m 1 0x0410) ∧ (loopS m 1 0x0410).loops.open_ = true ∧
      (loopS m 1 0x0410).loops.inService = true ∧ usable (loopS m 1 0x0410) 3 ∧ (loopRt (loopS m 1 0x0410) 3).force.mode = m ∧
      sampleDue (loopS m 1 0x0410) 100 = true ∧ groupOf (loopS m 1 0x0410) 3 = [3]) ∧
    ¬ usable (loopS 0 0 0x0410) 3 ∧ loopD.pvto = 0 ∧ up.loops.open_ = false ∧ sampleDue (loopS 0 1 0x0410) 101 = false ∧
    offsetNow (loopS 0 1 0x0410) = 100 ∧ isDO 0x0120 = true ∧ frozen (loopS 0 1 0x0120) 0x0120 = none ∧
    (∀ p ∈ [0x0410, 0x0120], ((loopS 0 1 p).loops.due.filter
      (fun o => o.step % 2 ^ 43 == absStep (loopS 0 1 p) 100 % 2 ^ 43)).map (fun o => o.outpt) = [p]) ∧
    (loopS 0 1 0x0410).loops.katDue = true ∧ up.loops.katDue = false :=
  ⟨by constructor <;> decide, by decide⟩

theorem test_one_loop_samples : (loopNums (loopS 1 1 0x0410)).filter (samplesAt (loopS 1 1 0x0410) 100) = [3] := by decide

/-- R151: a loop in manual mode puts out its manual value; what is due earlier stays due. -/
theorem test_manual_output : (after (.loopSample 100 []) (loopS 1 1 0x0410)).loops.due.map (fun o => (o.val, o.step)) =
    [(0x0000_8001, 100), (0x0003_0000, 116)] := by decide +kernel

theorem test_loop_write : (rawPoint (after (.loopOutputWrite 100) (loopS 1 1 0x0410)) 0x0410).val = 0x0000_8001 := by
  decide +kernel

/-- The field side with an output command for DO 0 and AO 1 that waits for phase step `ph`; DO 1 switches aligned. -/
def applyS (complete bl : Bool) (ph : Nat) : State :=
  { up with field := { up.field with
      cfg := { up.field.cfg with dout := [(1, 0x80)] }
      pend := [(0, ⟨0, ph, 3, 3, 2, [0, 0x0005_0000, 0, 0], complete⟩)], blState := bl
      dout := [(1, { DoS.zero with pend := some (true, ph) })] } }

theorem applyS_sound (c bl : Bool) (ph : Nat) : TablesOk (applyS c bl ph) := by
  constructor <;> rfl

theorem witness_OutputApplication : TablesOk (applyS true true 0) ∧ TablesOk (applyS false false 0) ∧
    (∀ c ∈ [true, false], ∀ bl ∈ [true, false], Running (applyS c bl 0) ∧ (applyS c bl 0).field.pend =
      [] ++ (0, ⟨0, 0, 3, 3, 2, [0, 0x0005_0000, 0, 0], c⟩) :: [] ∧ (applyS c bl 0).field.blState = bl) ∧
    folReached (applyS true false 0) 0 = true ∧ folReached (applyS true false 1) 1 = false ∧
    (docfg (applyS true false 0) 0).getLsbD 7 = false ∧ (docfg (applyS true false 0) 1).getLsbD 7 = true ∧
    up.slate.mode ≠ .free ∧ up.field.pend = [] ∧ (doOf (applyS true false 0) 1).pend = some (true, 0) ∧
    (doOf (applyS true false 1) 1).pend = some (true, 1) ∧ (doOf up 1).pend = none :=
  ⟨applyS_sound _ _ _, applyS_sound _ _ _, by decide⟩

/-- R191: an AO command of 5.0 V puts out 5,000 mV; DO 0 is on. -/
theorem test_output_apply : let t := after (.outputApply 0) (applyS true false 0)
    (aoOf t 1).mv = 5_000 ∧ (doOf t 0).appl = true ∧ (doOf t 1).cmd = false := by decide +kernel

/-! ## The safety pair -/

/-- A parameter set: function 0 an emergency stop on SI 0 and SQ 0, function 1 guard locking on SI 1 with SQ 1 locking,
function 2 two hands on SI 3 and SI 4; every input a contact, every channel native. -/
def safSetT : SafSet :=
  { parid := 1, sin := List.replicate 8 0x000A_2841, sq := List.replicate 4 0x012C_0001, crc := 0
    sf := [⟨0x1001_0000, 0x0078_0000, 0x00FF_0000⟩, ⟨0x3122_4000, 0x0078_0001, 0x00FF_0000⟩,
      ⟨0x4344_0000, 0x0078_0000, 0x00FF_0000⟩] }

/-- The pair with that set, SI 0 closed, its channels as given and the states of functions 0, 1 and 2; its halves agree. -/
def safS (q : Table SqS) (x0 x1 x2 : SfS) : State :=
  let ins := [(0, { SinS.zero with a := true, b := true, missA := 1 })]
  let sf := [(0, x0), (1, x1), (2, x2)]
  { up with saf := { up.saf with inForce := some safSetT, ins := ins, insB := ins, sq := q, sf := sf, sfB := sf } }

def fnIn (st : SfState) : SfS := { SfS.zero with st := st, firstRun := false }
def onQ : SqS := { SqS.zero with cmd := true, appl := true }
def runSaf : State := safS [(0, onQ)] (fnIn .run) (fnIn .armed) { fnIn .armed with t1 := some 987_500_000 }

theorem runSaf_sound : TablesOk runSaf := by constructor <;> rfl

/-- The pair at a place in its frame and second: `ago` ticks after the start of cycle `n`. -/
def atCycle (n ago : Nat) (s : State) : State := { s with saf := { s.saf with cycle := n, cycAt := s.now - ago } }

/-- SI 0 open on channel B only for the discrepancy time, SQ 0 on with its mirror contact still closed and its switch missing a
pulse, SQ 1 off with its contact open, SQ 2 failed, and source 0 in a pulse for 60 us. -/
def disS : State :=
  atCycle 9 6_250 { runSaf with saf := { runSaf.saf with
      ins := [(0, { SinS.zero with a := true, disAt := some 997_500_000, missA := 1 })]
      sq := [(0, { onQ with edm := true, dark := [(0, 1)], rbLow := [] }), (1, { SqS.zero with fbDone := false }),
        (2, { SqS.zero with fail := true })]
      pulseAt := [(0, some 999_998_500)] } }

theorem witness_SafetyDetectionRows : TablesOk disS ∧ TablesOk runSaf ∧ PairUp disS ∧ PairUp runSaf ∧
    2 * sinFilt ((safSet disS).sinOf 0) ≤ 20 ∧ 19 < 2 * sinFilt ((safSet disS).sinOf 0) ∧
    framePos (atCycle 0 0 runSaf) = 31_250 * 0 ∧ framePos (atCycle 0 1 runSaf) ≠ 31_250 * 0 ∧
    Table.get none disS.saf.pulseAt 0 = some 999_998_500 ∧ 999_998_500 + 1_500 ≤ disS.now ∧
    sinKind ((safSet disS).sinOf 0) = 1 ∧ sinTsa ((safSet disS).sinOf 0) = 0 ∧ sinTsa ((safSet disS).sinOf 0) ≠ 1 ∧
    (sinOf disS 0).a = true ∧ (sinOf disS 0).missA = 1 ∧ (sinOf disS 0).failA = false ∧ (sinOf disS 0).failB = false ∧
    (sinOf disS 0).failAll = false ∧ (sinOf disS 0).disAt = some 997_500_000 ∧
    997_500_000 + 250_000 * sinDisc ((safSet disS).sinOf 0) = disS.now ∧
    sqMode ((safSet disS).sqOf 0) = 1 ∧ (sqOf disS 0).appl = true ∧ (sqOf disS 0).edm = true ∧
    max (sqOf disS 0).onAt (sqOf disS 0).edmSince + 25_000 * sqFbtime ((safSet disS).sqOf 0) ≤ disS.now ∧
    (sqOf disS 0).fail = false ∧ (sqOf runSaf 0).edm = false ∧ (sqOf disS 1).appl = false ∧ (sqOf disS 1).fbDone = false ∧
    (sqOf disS 1).edm = false ∧ conducts disS (0 / 2) (0 % 2) = true ∧ offCheckNow disS 0 = true ∧
    offCheckNow (atCycle 9 7_500 disS) 0 = false ∧ Table.get 0 (sqOf disS 0).dark 0 = 1 ∧ (sqOf disS 0).marks = [] ∧
    Table.get 0 (sqOf runSaf 0).dark 0 = 0 ∧ Table.get false (sqOf disS 0).rbLow 0 = false ∧
    conducts disS (4 / 2) (4 % 2) = false ∧ (sqOf disS 2).fail = true ∧ disS.saf.nextOff = [] ∧
    runSaf.saf.lastSafreq + 5_000_000 ≤ runSaf.now := ⟨by constructor <;> rfl, runSaf_sound, by decide⟩

/-- R201: an input whose channel does not follow the pulse of its source for the second time fails. -/
theorem test_missed_pulse : (after (.testPulseCheck 0 0 true) disS).saf.pendF = [(0x02, 0, 1_000_000_000)] := by decide +kernel

theorem witness_SafetyCycleKeepsItsPromises : TablesOk runSaf ∧ PairUp runSaf ∧ runSaf.saf.cycAt + 12_500 ≤ runSaf.now ∧
    (atCycle 0 12_499 runSaf).now < (atCycle 0 12_499 runSaf).saf.cycAt + 12_500 ∧ usedFns runSaf = [0, 1, 2] ∧
    HalvesAgree runSaf ∧ runSaf.saf.lastDiffer = false ∧
    ({ runSaf with saf := { runSaf.saf with lastDiffer := true } } : State).saf.lastDiffer = true ∧
    runSaf.saf.pendF = [] ∧ runSaf.saf.supplyBad = false ∧ runSaf.saf.selfBad = false ∧ (fnCfg runSaf 0).type = 1 ∧
    (sfOf runSaf 0).st = .run ∧ 0 ∈ (fnCfg runSaf 0).outList :=
  ⟨runSaf_sound, by decide⟩

theorem no_acks : ∀ g, (sfOf runSaf g).gotAck = false := by
  intro g
  simp only [sfOf, runSaf, safS, Table.get]
  split <;> first | rfl | (repeat' (split at *)) <;> simp_all [fnIn, SfS.zero]

/-- R214: a function in RUN whose input opens at both halves is in SAFE at the end of the next cycle, its channel off. -/
theorem test_stop : let s := after (.safetyFilterChange ⟨true, 0, false⟩ false 20) (after (.safetyFilterChange ⟨false, 0, false⟩ false 20) runSaf)
    let t := after (.safetyCycle 0 ⟨false, 0, 12_500, 0⟩) s
    (sfOf t 0).st = .safe ∧ (sqOf t 0).appl = false := by decide +kernel

/-- R213: without a demand it stays in RUN. -/
theorem test_run_goes_on : (sfOf (after (.safetyCycle 0 ⟨false, 0, 12_500, 0⟩) runSaf) 0).st = .run := by decide +kernel

/-- R217: a clock of a half that is out by more than 2 % locks every function. -/
theorem test_clock : (sfOf (after (.safetyCycle 0 ⟨false, 0, 12_751, 0⟩) runSaf) 0).st = .lockout := by decide +kernel

/-- Function 1 unlocked on request with its lock released, function 0 in stand-in, functions in INIT. -/
def lockS : State :=
  safS [(1, { SqS.zero with edm := true })] { fnIn .safe with si := true, siEnd := 1_000_000_000 }
    { fnIn .safe with reqU := true, offSince := 975_000_000 } (fnIn .init)

/-- A committed set whose function 0 is used, and the pair in INIT with it. -/
def setBytes : List Byte :=
  let b := bytesLE 4 1 ++ bytesLE 4 0x0100 ++ (List.replicate 8 (0x000A_2841 : Word)).flatMap (fun w => bytesLE 4 w.toNat) ++
    (List.replicate 4 (0x012C_0001 : Word)).flatMap (fun w => bytesLE 4 w.toNat) ++
    safSetT.sf.flatMap (fun c => bytesLE 4 c.w0.toNat ++ bytesLE 4 c.w1.toNat ++ bytesLE 4 c.w2.toNat) ++
    List.replicate 60 0
  withCrc b

def verS (edm : Bool) (l : List (Nat × Byte × Bool)) : State :=
  { up with saf := { up.saf with
      committed := some setBytes, inForce := some (parseSaf setBytes), lockList := l
      sq := [(0, { SqS.zero with edm := edm, edmSince := 1 })] } }

theorem witness_SafetyFunctionRows : TablesOk runSaf ∧ TablesOk lockS ∧ PairUp runSaf ∧ conducts runSaf (0 / 2) (0 % 2) = true ∧
    runSaf.saf.supplyBad = false ∧ runSaf.saf.tempBad = false ∧
    PairUp lockS ∧ (sfOf lockS 0).si = true ∧ (sfOf lockS 0).siEnd ≤ lockS.now ∧
    (sfOf runSaf 0).si = false ∧ (fnCfg lockS 1).type = 3 ∧ (sfOf lockS 1).reqU = true ∧ (sfOf lockS 1).st ≠ .init ∧
    (∀ m ∈ (fnCfg lockS 1).outList, (sqOf lockS m).appl = false ∧ (sqOf lockS m).edm = true ∧
      (sqOf lockS m).offAt + 25_000_000 * (fnCfg lockS 1).lockdly ≤ lockS.now) ∧
    (sfOf lockS 1).offSince + 25_000_000 * (fnCfg lockS 1).lockdly ≤ lockS.now ∧
    (∃ m ∈ (fnCfg runSaf 0).outList, (sqOf runSaf m).appl = true) ∧
    (sfOf runSaf 2).st = .armed ∧ (sfOf runSaf 2).t1 = some 987_500_000 ∧ 987_500_000 + 12_500_000 ≤ runSaf.now :=
  ⟨runSaf_sound, by constructor <;> rfl, by decide⟩

theorem witness_StartDiagnostics : (∀ e ∈ [true, false], PairUp (verS e []) ∧ (verS e []).saf.inForce.isSome = true ∧
      (sfOf (verS e []) 0).st = .init ∧ 0 ∈ usedFns (verS e []) ∧ fnVerified (verS e []) 0 = true ∧
      (sfOf (verS e []) 0).initF = none ∧ (∀ m ∈ (fnCfg (verS e []) 0).outList, (sqOf (verS e []) m).edm = e)) ∧
    (∃ e ∈ (verS true [(0, 0x30, false)]).saf.lockList, e.1 = 0) ∧ (∃ e ∈ [(0x30, 0)], 0x30 ≤ e.1) := by decide +kernel

theorem verS_sound (e : Bool) : TablesOk (verS e []) := by cases e <;> constructor <;> rfl

/-! ## The safety layer -/

/-- Input slot 1 and output slot 16 with an expectation of 200 ms and two bytes of data. -/
def mslE : MslEnt := ⟨0x1001, 200, 5, 2, 0, 7⟩

/-- The committed set of these two slots. -/
def mslSetB : List Byte :=
  let e := bytesLE 4 mslE.connid.toNat ++ bytesLE 2 mslE.texp ++ [5, 2, 0, 0, 0, 0] ++ bytesLE 4 mslE.addr.toNat
  withCrc (bytesLE 4 1 ++ bytesLE 4 0x0100 ++ List.replicate 16 0 ++ e ++ List.replicate 224 0 ++ e ++ List.replicate 240 0)

/-- A slot in a state, and a telegram for it that has crossed. -/
def mslS (x : MslSlot) (slot : Nat) (tg : List Byte) : State :=
  { runSaf with msl := { runSaf.msl with
      committed := some mslSetB, inForce := some (parseMsl mslSetB), slot := [(slot, x)], inbox := [(slot, tg)] } }

/-- A slot in a state, having accepted 0x0001_0005 last; its times end `d` ticks from now. -/
def slotIn (st : MslSt) (d : Nat) : MslSlot :=
  { MslSlot.zero with
    st := st, peer := 0x0001_0005, c0 := 0x0002_0009, lastChk := some 9, expTo := 1_000_000_000 + d, openAt := 995_000_000 + d
    lastGood := 990_000_000 + d, crcAt := some 999_000_000 }

/-- The peer's OPENED, DATA, OPEN and CHECK. -/
def tgOpened : List Byte := telegram mslE 2 false 0x0003_0001 9 (bytesLE 4 0x0003_0001)
def tgDataT (seq : Word) : List Byte := telegram mslE 4 false seq 9 [1, 0]
def tgOpen : List Byte := telegram mslE 1 false 0x0003_0001 0 (bytesLE 4 0x0003_0001)
def tgCheck (seq : Word) : List Byte := telegram mslE 3 false seq 9 [0, 0]

theorem mslS_sound (st : MslSt) (tg : List Byte) : TablesOk (mslS (slotIn st 0) 1 tg) ∧ TablesOk (mslS (slotIn st 0) 16 tg) := by
  cases st <;> exact ⟨by constructor <;> rfl, by constructor <;> rfl⟩

theorem witness_SafetyLayerRows : TablesOk (mslS (slotIn .opening 0) 1 tgOpened) ∧ TablesOk (mslS (slotIn .run 0) 16 tgOpen) ∧
    Running (mslS (slotIn .opening 0) 1 tgOpened) ∧ inboxOf up 1 = none ∧
    inboxOf (mslS (slotIn .opening 0) 1 tgOpened) 1 = some tgOpened ∧
    (mslOf (mslS (slotIn .opening 0) 1 tgOpened) 1).st = .opening ∧
    mslEnt (mslS (slotIn .opening 0) 1 tgOpened) 1 = mslE ∧
    tgGood mslE 2 ((tgStart tgOpened).toNat / 65536) tgOpened = true ∧
    tgEcho tgOpened = (slotIn .opening 0).c0.setWidth 16 ∧ tgTexp tgOpened = mslE.texp ∧ tgLen tgOpened = 4 ∧
    tgGood mslE 2 3 tgOpen = false ∧ (slotIn .opening 0).openAt + openWait mslE = up.now ∧
    up.now < (slotIn .opening 1).openAt + openWait mslE ∧
    judgeSeq mslE 4 0x0001_0005 (tgDataT 0x0001_0045) = .good 0x0001_0045 ∧ tgEcho (tgDataT 0x0001_0045) = 9 ∧
    judgeSeq mslE 4 0x0001_0005 (tgDataT 0x0001_0046) = .failure ∧ judgeSeq mslE 4 0x0001_0005 (tgDataT 0x0001_0005) = .repeated ∧
    (slotIn .run 0).expTo ≤ up.now ∧ up.now < (slotIn .run 1).expTo ∧ (slotIn .run 0).late = false ∧
    (slotIn .run 0).lastChk = some 9 ∧ setsVerified up = false ∧ slotUsed (mslS (slotIn .run 0) 1 tgOpen) 1 = true ∧
    slotVerified (mslS (slotIn .idle 0) 16 tgOpen) 16 = true ∧ slotUsed (mslS (slotIn .idle 0) 16 tgOpen) 16 = true ∧
    tgGood mslE 1 ((tgStart tgOpen).toNat / 65536) tgOpen = true ∧ tgTexp tgOpen = mslE.texp ∧ tgLen tgOpen = 4 ∧
    judgeSeq mslE 3 0x0001_0005 (tgCheck 0x0001_0006) = .good 0x0001_0006 ∧
    (slotIn .run 0).lastGood + 50_000 * mslE.texp = up.now :=
  ⟨(mslS_sound _ _).1, (mslS_sound _ _).2, by decide +kernel⟩

/-- R235, R238: DATA in sequence with the echo of the last CHECK and its permit bit set leaves the stop state. -/
theorem test_msl_data : let t := after (.mslData 1 false) (mslS (slotIn .run 1) 1 (tgDataT 0x0001_0006))
    mslStop t 1 = false ∧ (mslOf t 1).expTo = 1_005_000_000 ∧ t.msl.inbox = [] := by decide +kernel

/-! ## The networks -/

/-- The module in service with MAC `m` as given. -/
def macS (m : Nat) (x : Mac) : State := { up with eth := { up.eth with mac := [(m, x)], ipAddr := some 1 } }

/-- A good frame of 100 bytes to `da`. -/
def goodFrame (da : BitVec 48) : RxFrame :=
  { da := da, sa := 0x0200_0000_0009, len := 100, fcsOk := true, wholeOctets := true, phyError := false, fifoOverrun := false
    pcp := none, etype := 0x0800, udpPort := 0, ptpEvent := false, ptpDomain := 0, vk := 0x11, srcNode := 0, dlen := 0
    srcIp := 0, telegram := [] }

def upMac : Mac := { Mac.zero with linkUp := true }

/-- Both uplinks up, an address learned on uplink 0. -/
def switchS : State :=
  { up with eth := { up.eth with mac := [(0, upMac), (1, upMac)], learned := [(0x0200_0000_0007, 0, 900_000_000)] } }

/-- A frame in progress on queue 1 of a MAC, its descriptor in the ring. -/
def desc1 : TxDesc := ⟨0x1000, true, true, false, 100, 0x0200_0000_0007⟩
def txD : TxD := ⟨desc1, true, 0, 0, none, 0, none⟩
def sending (colls : Nat) : Mac := { Mac.zero with busy := some 1, colls := colls, txq := [(1, [txD])] }

/-- Both uplinks up with uplink 0 as given, no MSL slot on them. -/
def rateS (x : Mac) : State := { up with eth := { up.eth with mac := [(0, x), (1, upMac)] } }
def quietMac : Mac := { upMac with quiet := 59, holdTo := 975_000_000 }
def slowMac : Mac := { upMac with rate := 1, oct01 := (625_001, 0), txq := [(1, [txD, txD])] }

theorem witness_FramesReceived : Running up ∧ macLive up 2 = true ∧
    rxClass { goodFrame 2 with fcsOk := false, len := 1_522 } = some 0x10 ∧
    rxClass { goodFrame 2 with fcsOk := false, len := 1_523 } = some 0x0F ∧
    rxClass { goodFrame 2 with len := 1_523 } = some 0x0E ∧ rxClass { goodFrame 2 with len := 63 } = some 0x0C ∧
    rxClass (goodFrame 2) = none ∧ filterMatch up 2 0x0200_0000_0007 = none ∧ filterMatch up 2 0xFFFF_FFFF_FFFF = some 8 ∧
    ({ goodFrame 2 with fifoOverrun := true } : RxFrame).fifoOverrun = true ∧ (macOf up 2).rx = [] ∧
    (let s := macS 2 { upMac with rx := [⟨0x1200, true, 0, 0⟩] }
     (goodFrame 0xFFFF_FFFF_FFFF).srcIp = 0 ∧ (goodFrame 2).etype ≠ 0x88B5 ∧
      filterMatch (putMac 2 ((macOf s 2).rxGood 100 0xFFFF_FFFF_FFFF) s) 2 0xFFFF_FFFF_FFFF = some 8 ∧
      (macOf (putMac 2 ((macOf s 2).rxGood 100 0xFFFF_FFFF_FFFF) s) 2).rx = [⟨0x1200, true, 0, 0⟩]) ∧
    (macOf switchS 0).linkUp = true ∧ switchS.eth.learned.length < 1024 ∧ isLinkLocal (goodFrame 5) = false ∧
    (5 : BitVec 48) ≠ macAddr switchS 0 ∧ isGroup (5 : BitVec 48) = false ∧ (goodFrame 5).sa ≠ (goodFrame 5).da ∧
    (macOf switchS (1 - 0)).linkUp = true ∧ learnedOn switchS 5 ≠ some 0 ∧
    ringOf (macOf switchS (1 - 0)) (fwdQueue (goodFrame 5)) = [] ∧ switchS.eth.fwdBytes + 100 ≤ 196_608 ∧
    learnedOn switchS 0x0200_0000_0007 = some 0 := by decide +kernel

theorem witness_FramesSent : (desc1.fs = true ∧ desc1.ls = true) ∧ macLive up 2 = true ∧ (macOf up 2).busy = none ∧
    (macOf up 2).hold = none ∧ ringOf (macOf up 2) 1 = [] ∧ learnedOn switchS desc1.da = some 0 ∧ isGroup desc1.da = false ∧
    learnedOn up desc1.da = none ∧ (macOf (macS 2 (sending 15)) 2).busy = some 1 ∧
    (macOf (macS 2 (sending 15)) 2).backoff = none ∧ headFrame (macOf (macS 2 (sending 15)) 2) 1 = some [txD] ∧
    (∀ d ∈ [txD], d.made = none) ∧ isFs 2 = true ∧ 15 ≤ (macOf (macS 2 (sending 15)) 2).colls ∧
    (macOf (macS 2 (sending 14)) 2).colls < 15 ∧
    (macOf (macS 2 { sending 1 with backoff := some 1_000_000_000 }) 2).backoff = some up.now ∧
    (macOf (macS 2 { sending 1 with backoff := some 1_000_000_001 }) 2).backoff = some (up.now + 1) ∧
    (0x0000_1200#32).toNat % 512 = 0 ∧ (0x0000_1201#32).toNat % 512 ≠ 0 ∧ (macOf up 2).rx.length < 1024 ∧
    (∃ d ∈ (macOf (macS 2 { upMac with rx := [⟨0x1200, false, 0, 0⟩] }) 2).rx, d.buf = 0x1200) := by decide +kernel

/-- Every ring of a MAC at rest is empty. -/
theorem witness_EthernetRows_idle : ∀ k, headFrame (macOf up 2) k = none := by
  intro k; cases k <;> rfl

theorem witness_LinksAndRates : (macOf up 0).linkUp = false ∧ (macOf up 0).reneg = none ∧ up.eth.wantUp = [] ∧
    mslUsesUl up = false ∧ (macOf up (1 - 0)).linkUp = false ∧ (macOf switchS 0).linkUp = true ∧
    (let s := rateS quietMac
     (macOf s 0).linkUp = true ∧ (macOf s 0).holdTo + 25_000_000 ≤ s.now ∧ (macOf s 0).oct1.1 < 625_000 ∧
      dsWait s 0 ≤ (macOf s 0).quiet + 1 ∧ (macOf s 0).rate < dsMin s 0 ∧ (macOf s 0).failTo ≤ s.now ∧
      rateBarred s 0 = false ∧ mslUsesUl s = false) ∧ (macOf switchS 0).rate = 0 ∧
    (let s := rateS slowMac
     (macOf s 0).rate ≠ 0 ∧ rateBarred s 0 = false ∧ 625_000 < (macOf s 0).oct01.1 ∧
      [1] ∈ (framesOf (ringOf (macOf s 0) 1)).tail ∧ txD ∈ descsAt (ringOf (macOf s 0) 1) [1] ∧ txD.at_ + 250_000 ≤ s.now) ∧
    (macOf (macS 0 { upMac with reneg := some (0, 875_000_000) }) 0).reneg = some (0, 875_000_000) ∧
    875_000_000 + 125_000_000 ≤ up.now ∧ up.now < 875_000_001 + 125_000_000 := by decide +kernel

theorem witness_Pause : macLive (macS 6 upMac) 6 = true ∧ isFs 6 = false ∧ isFs 5 = true ∧ (macOf (macS 6 upMac) 6).pauseOff = none ∧
    (macOf (macS 6 upMac) 6).hold = none ∧
    (macOf (macS 6 { upMac with hold := some ⟨0, 1_000_000_000⟩ }) 6).hold = some ⟨0, up.now⟩ ∧ pauseWd up 6 = 1_250_000 ∧
    (let s := macS 6 { upMac with hold := some ⟨998_750_000, 1_000_000_001⟩ }
     (macOf s 6).hold = some ⟨998_750_000, up.now + 1⟩ ∧ 998_750_000 + pauseWd s 6 ≤ up.now) ∧
    up.now < 998_750_001 + pauseWd up 6 ∧
    (macOf (macS 6 { upMac with pauseOff := some 1_000_000_000 }) 6).pauseOff = some up.now := by decide +kernel

/-- R267: a PAUSE of 2 quanta holds a 100 Mbit/s port for 1,024 bit times, 256 ticks. -/
theorem test_pause : (macOf (after (.pauseFrame 6 ⟨0x0200_0000_0009, 2⟩) (macS 6 upMac)) 6).hold =
    some ⟨1_000_000_000, 1_000_000_256⟩ := by decide +kernel

/-- R269: a collision after 512 bit times ends the frame and counts 0x26. -/
theorem test_late_collision : Table.get 0 (macOf (after (.collision 2 true) (macS 2 (sending 0))) 2).cnt 0x26 = 1 := by
  decide +kernel

/-- R251: a frame that is sent carries the MAC's own address. -/
theorem test_own_address : (after (.frameTransmitDone 2 (.sent false)) (macS 2 (sending 0))).out.head? =
    some (.frame 2 1 desc1.da (up.eth.baseMac + 2) 104 [] [0x1000]) := by decide +kernel

/-! ## The field exchange and CAN -/

/-- Segment 1 with the device of node 3 in exchange, its request's FCS `ago` ticks ago, at offset 100 of a half-period. -/
def dev3 : DevEnt := ⟨3, 0, 0, 0x0200_0000_0003, 100, 0x0500, 0x0504, 1, 1, 8, 2⟩
def winS (w : SegWin) (ret : RetSt) : State :=
  atStep 100 { up with eth := { up.eth with
      dev := [(16, some dev3)]
      devRt := [(16, { DevRt.zero with seq := 5, ret := ret, started := true })]
      win := [(1, w)] } }
def exS (ret : RetSt) (ago : Nat) : State := winS ⟨false, true, [], some 16, some (1_000_000_000 - ago)⟩ ret
def readyW : SegWin := ⟨true, false, [16], none, none⟩

/-- Its reply. -/
def rep3 : ExReply := ⟨0x0200_0000_0003, 3, 0, 5, false, 0, [42], false, false⟩

/-- A request of that device in exchange, its frame sent. -/
def acycS (ago : Nat) : State :=
  { up with host := { up.host with
      devReq := [(devKey 1 3, [⟨3, 77, 0, 10, 0, 0, [], 9, some (1_000_000_000 - ago), true, 56⟩])] } }

theorem witness_ExchangeWindow : Running (winS readyW .ok) ∧ (winOf (winS readyW .ok) 1).ready = true ∧
    (winOf (winS readyW .ok) 1).isOpen = false ∧ 32 ≤ offsetNow (winS readyW .ok) ∧
    offsetNow (winS readyW .ok) < (clsCfg (winS readyW .ok) 0).outph ∧ offsetNow (atStep 31 (winS readyW .ok)) < 32 ∧
    (clsCfg up 0).outph ≤ offsetNow (atStep 1536 up) ∧ (winOf up 1).ready = false ∧ (winOf up 1).cur = none ∧
    (winOf (exS .ok 0) 1).isOpen = true ∧ devOf (exS .ok 0) 16 = some dev3 ∧ up.now + fxExch dev3 ≤ winEnd (exS .ok 0) ∧
    winEnd (atStep 1520 up) < up.now + fxExch dev3 := by decide +kernel

theorem witness_ExchangeReplies : Running (exS .discard 2_500) ∧ (winOf (exS .ok 2_500) 1).cur = some 16 ∧
    (segDevs (exS .ok 2_500) 1).find? (fun e => e.2.mac == rep3.srcMac) = some (16, dev3) ∧
    16 ∉ (winOf (exS .ok 2_500) 1).todo ∧ (devRt (exS .ok 2_500) 16).seq ≠ 0 ∧
    (devRt (exS .ok 2_500) 16).ret ≠ .discard ∧ (devRt (exS .discard 0) 16).ret = .discard ∧
    replyFits dev3 (devRt (exS .ok 2_500) 16) rep3 = true ∧ replyLate (exS .ok 2_500) 1 dev3 rep3 = false ∧
    replyLate (exS .ok 12_000) 1 dev3 rep3 = true ∧
    replyFits dev3 (devRt (exS .ok 2_500) 16) { rep3 with seq := 6 } = false ∧
    (winOf (winS readyW .ok) 1).cur ≠ some 16 ∧
    (segDevs up 1).find? (fun e => e.2.mac == rep3.srcMac) = none ∧
    (winOf (exS .ok 2_500) 1).reqAt = some 999_997_500 ∧ 999_997_500 + 25 * dev3.respto ≤ up.now ∧
    up.now < 999_997_501 + 25 * dev3.respto ∧
    (devQueue (acycS 250_000) (devKey 1 3)).map (fun r => (r.sent, r.seq)) = [(true, 9)] ∧ devQueue up (devKey 1 3) = [] := by
  decide +kernel

theorem witness_OpenSent : let x := macOf (after (.exchangeWindowOpen 1) (winS readyW .ok)) 2
    x.busy = some 2 ∧ x.backoff = none ∧ (headFrame x 2).map (fun l => l.map (fun e => e.made.map (fun y => y.1))) = some [some 1] := by
  decide +kernel

/-- R275: the reply's values wait for the input phase. -/
theorem test_exrep : (devRt (after (.exrep 1 rep3) (exS .ok 2_500)) 16).input = some ([42], 0) := by decide +kernel

/-- R273: OPEN is kind 1 to every device, and its data begin with the microseconds from its start, 68 bytes ago, to the window's
end. -/
theorem test_open : let t := after (.exchangeWindowOpen 1) (winS readyW .ok)
    let made := (ringOf (macOf t 2) 2).filterMap (fun d => d.made)
    made.map (fun x => (x.1, x.2.take 6)) = [(1, [0x88, 0xB5, 0x11, 0, 0xFF, 0])] ∧
    made.map (fun x => (madeBytes t 68 x).drop 18 |>.take 2) = [bytesLE 2 ((winEnd t - (up.now - 1_360)) / 25)] := by
  decide +kernel

/-- A controller. -/
def canX (x : Can) : State := { up with can := [(0, x)] }
def canF (kind : Nat) : CanTx := ⟨0x0000_0123, [1, 2], kind, 0, 0, 0, false, false, false⟩
def canBuf : CanBuf := ⟨0x0000_0123, true, [1, 2], true, false, 0, none, none⟩
def canRun : Can :=
  { Can.factory with
    st := 2, txe := 247, rxe := 127, fifo := [canF 0], holdSince := some 0, headSince := some 0
    frame := [(0, some ⟨0x0000_0123, false, false, 0, 2, 0x0500⟩)], buf := [(0, canBuf)] }

theorem witness_CanRows : (canOf (canX canRun) 0).active = true ∧ canRun.att = none ∧ 128 ≤ min (canRun.rxe + 1) 255 ∧
    ({ canRun with pq := [canF 2] } : Can).offers = some true ∧ canRun.pq = [] ∧ canRun.fifo = canF 0 :: [] ∧
    ({ canRun with pq := [canF 2], pqAt := 1 } : Can).offers = none ∧ ({ canRun with fifo := [] } : Can).fifo = [] ∧
    256 ≤ ({ canRun with txe := 248 } : Can).txe + 8 ∧ canRun.txe + 8 < 256 ∧
    ({ canRun with st := 3, pq := [canF 2] } : Can).offers = some true ∧ (∀ f ∈ canRun.fifo, f.doomed = false) ∧
    ({ canRun with fifo := [{ canF 0 with doomed := true }] } : Can).fifo = { canF 0 with doomed := true } :: [] ∧
    canRun.rxEntries.findIdx? (fun e => idKey e.2.idw == rxIdw ⟨false, 0x123, false, false, [7, 8]⟩) = some 0 ∧
    ((canRun.rxEntries.map (fun e => e.2.len)).getD 0 0) ≤ 2 ∧ canRun.holdSince = some 0 ∧
    ({ canRun with cfg0 := 0 } : Can).fden = false ∧ canRun.headlong = false ∧ 0 + 25_000 * canRun.headto ≤ up.now ∧
    up.now < 999_999_999 + 25_000 * canRun.headto ∧
    (Table.get CanBuf.zero (canOf up 0).buf 0).nd = false ∧ (Table.get CanBuf.zero canRun.buf 0).nd = true ∧
    0 < canRun.rxEntries.length ∧ canBuf.used = true ∧ canBuf.ndAt ≠ some up.now ∧
    ({ canBuf with ndAt := some up.now } : CanBuf).ndAt = some up.now ∧ ({ canRun with st := 5 } : Can).st = 5 ∧
    ({ canRun with st := 1, cfg0 := 0x1402_0000 } : Can).syncen = true := by decide +kernel

/-- R296: a bit error at TEC 248 takes the controller off the bus, and its queues are emptied. -/
theorem test_bus_off : let t := after (.canAttemptFail 0 (.busError 1 8)) (canX { canRun with txe := 248 })
    (canOf t 0).st = 4 ∧ (canOf t 0).fifo = [] := by decide +kernel

/-- R294: ND_READ gives ND and the buffer. -/
theorem test_nd_read : (after (.ndRead 0 0) (canX canRun)).out.head? = some (.buffer 0 0 true false 0x123 [1, 2]) := by
  decide +kernel


/-! ## Hosts -/

/-- The module with its service open, an address, and connection 3 as given. -/
def conS (c : Conn) : State := { hostS c with eth := { up.eth with ipAddr := some 0x0A00_0001 } }
def tlsC : Conn := { Conn.fresh .svc 900_000_000 with tls := true, lastMsg := 250_000_000, at_ := 750_000_000 }
def house (roles : Half) : Conn := conn 0 roles

/-- Eight handshakes in progress. -/
def busyTls : State := { up with host := { up.host with
  conns := (List.range 8).map (fun i => (i, some (Conn.fresh .svc 0))), svcOpen := true } }

/-- A stage-1 principal beside the house, the stage enabled with one session. -/
def stageS (c : Conn) : State :=
  { conS c with host := { (conS c).host with
      commissioning := false, principals := [⟨5, 0, 1, 0x000F⟩]
      stg := [(1, ⟨0x80C0_8A00, 0, 0, 0, 0x9C40_1F40, 0x2018_0000⟩)]
      adm := [(1, { Admit.zero with tok := 8_000 * 25_000_000, at_ := 1_000_000_000 })] } }

theorem conS_sound : TablesOk (conS tlsC) ∧ TablesOk (conS (house 0xFF)) ∧ TablesOk (stageS tlsC) := by
  refine ⟨?_, ?_, ?_⟩ <;> constructor <;> rfl

theorem witness_ConnectionRows : Running up ∧ coresUp up = true ∧ (portAddr up .svc).isSome = true ∧ (portAddr up .ul1) = none ∧
    (discRoom up .svc).2 < 20 ∧
    20 ≤ (discRoom { up with host := { up.host with discN := [(portNo .svc, (999_999_999, 20))] } } .svc).2 ∧
    dhcpMode { up with eth := { up.eth with ip := [(2, 1)] } } = true ∧ up.eth.ipAddr = none ∧ up.eth.dhcpAt = none ∧
    connOf up 9 = none ∧ handshakes up < 8 ∧ 8 ≤ handshakes busyTls ∧ State.reset.host.svcOpen = false ∧
    (connOf (conS tlsC) 3).isSome = true ∧ deviceKeyOk up = true ∧
    deviceKeyOk { up with keys := { up.keys with slots := [(0, ⟨0, 1, 0, 2, 0, 0, 0, 0, 0⟩)] } } = false ∧
    tlsC.sess = none ∧ tlsC.at_ + 250_000_000 ≤ up.now ∧ up.now < (conn 0 0).lastMsg + 750_000_000 + 1_000_000_000 ∧
    tlsC.lastMsg + 750_000_000 ≤ up.now ∧ InSession 3 (house 0xFF) (conS (house 0xFF)) ∧ (house 0xFF).bad < 2 ∧
    noRoom (conS (house 0xFF)) (house 0xFF) = false ∧ noRoom (conS { house 0xFF with outstanding := 64 }) { house 0xFF with outstanding := 64 } = true ∧
    2 ≤ ({ house 0xFF with bad := 2 } : Conn).bad ∧ stageOn up 0 = true ∧ stageOn up 1 = false ∧ stageOn (stageS tlsC) 1 = true ∧
    32 * tokUnit ≤ (filled (stageS tlsC) 1).tok ∧ 32 * tokUnit ≤ (filled (conS tlsC) 0).tok ∧
    principalFor (stageS tlsC) tlsC 1 = some (5, 0x000F) ∧ principalFor (conS tlsC) tlsC 0 = some (0, 0x1F) ∧
    principalFor (stageS tlsC) tlsC 0 = none ∧ up.keys.locked = false ∧ sessionsOf (stageS tlsC) 1 < sesmax (stageS tlsC) 1 ∧
    (List.range (numSessions (stageS tlsC))).find? (fun i => !(sessUsed (stageS tlsC)).contains i) = some 0 := by
  decide +kernel

/-- The module five seconds after power-good, its service not open yet; and a second after it opened. -/
def openS (good : Nat) (isOpen : Bool) : State :=
  { up with host := { up.host with svcOpen := isOpen, tenants := false, openAt := good }, power := { up.power with goodAt := good } }

theorem witness_ServiceOpen : Running (openS 875_000_000 false) ∧ coresUp (openS 875_000_000 false) = true ∧
    875_000_000 + 125_000_000 ≤ up.now ∧ up.now < 975_000_001 + 25_000_000 ∧
    (openS 975_000_000 true).host.svcOpen = true ∧ (openS 975_000_000 true).host.tenants = false ∧
    (openS 975_000_000 true).host.openAt + 25_000_000 ≤ up.now := by decide

/-- R309: LOGIN takes the lowest session number free. -/
theorem test_login : ((connOf (after (.login 3 1 1) (stageS tlsC)) 3).map (fun c => (c.sess, c.principal, c.roles))) =
    some (some 0, 5, 0x000F) := by decide +kernel

/-! ## Requests -/

/-- The session of stage 0 in which every queue is empty, with another number of tokens, or out of room. -/
def tokS (tok : Nat) : State :=
  { conS (house 0xFF) with host := { (conS (house 0xFF)).host with
      stg := [(0, { StgCfg.factory 1024 0 with c4 := 0x0001_1F40 })]
      adm := [(0, { Admit.zero with tok := tok, at_ := 1_000_000_000 })] } }
def fullC : Conn := { house 0xFF with outstanding := 64 }

/-- One request in the queue, `ago` ticks ago, and a count window. -/
def queueS (e : QEnt) (tok : Nat) (c : Conn) : State :=
  { conS c with host := { (conS c).host with
      adm := [(0, { Admit.zero with tok := tok, at_ := 1_000_000_000, queue := [e], win := some 975_000_000 })] } }
def qRead (ago : Nat) : QEnt := ⟨3, 8, 0, 2, 1_000_000_000 - ago, .read [0x0400]⟩

theorem witness_RequestAdmission : connOf up 3 = none ∧
    (connOf (conS { house 0 with tls := false }) 3).isSome = true ∧ connOf (conS tlsC) 3 = some tlsC ∧ tlsC.sess = none ∧
    InSession 3 fullC (conS fullC) ∧ noRoom (conS fullC) fullC = true ∧ InSession 3 (house 0xFF) (tokS 99_999_999) ∧
    noRoom (tokS 99_999_999) (house 0xFF) = false ∧ (filled (tokS 99_999_999) 0).tok < 4 * tokUnit ∧
    Served 3 2 (house 0xFF) (conS (house 0xFF)) ∧ (admitOf up 0).queue = [] ∧
    8 * (filled (tokS 0) 0).tok < (8 * 2 + tokburst (tokS 0) 0) * tokUnit ∧
    (admitOf (queueS (qRead 250_000_000) 0 (house 0xFF)) 0).queue = [qRead 250_000_000] ∧
    (qRead 250_000_000).at_ + 250_000_000 ≤ up.now ∧ up.now < (qRead 249_999_999).at_ + 250_000_000 ∧
    (admitOf (queueS (qRead 0) 0 (house 0xFF)) 0).win = some 975_000_000 ∧ 975_000_000 + 25_000_000 ≤ up.now ∧
    nextEnt [qRead 5, { qRead 0 with cat := 1 }] = some (qRead 5) ∧
    shedEnt [qRead 5, { qRead 0 with cat := 1 }] = some { qRead 0 with cat := 1 } := by decide +kernel

theorem witness_requests : nowRequest (.txbegin 3 1) = some (3, 1, 0x0030, 4) ∧
    queuedRequest (.read 3 1 [0x0400]) = some (3, 1, 0x0010, 0, 2, .read [0x0400]) := ⟨rfl, rfl⟩

theorem queueS_sound : TablesOk (queueS (qRead 0) 0 (house 0xFF)) ∧ TablesOk (hostS (house 0xFF)) ∧ TablesOk (hostS (conn 1 0xFF)) := by
  refine ⟨?_, ?_, ?_⟩ <;> constructor <;> rfl

/-- A subscription with a NOTIFY queued. -/
def subN : Sub := { Sub.fresh 0 [0x0400] 100 with queued := some [(0x0400, ⟨7, 1⟩)] }
def noteE : QEnt := ⟨3, 0, 1, 1, 1_000_000_000, .notify 0⟩
def subC : Conn := { house 0xFF with subs := [subN], nextSub := 1 }

/-- Function 0's request point is stage 0's; a controller off the bus; slot 4 halted; the device of node 3 on segment 1. -/
def effS : State :=
  { conS (house 0xFF) with
    saf := { up.saf with inForce := some { safSetT with sf := [⟨0x1001_0000, 0x0078_0000, 0x00FF_0410⟩] } }
    msl := { up.msl with slot := [(4, { MslSlot.zero with st := .halt })] }
    can := [(0, { Can.factory with st := 4 })]
    eth := { up.eth with dev := [(16, some dev3)] }
    log := { up.log with ring := [(⟨0, 0, 0, 1, 1, false, false, false, false, 0, 0, 1, []⟩, false)], next := 1 } }

/-- A device of node 9 on controller 0, on the bus; an extension loop. -/
def devCanS : State :=
  { conS (house 0xFF) with
    can := [(0, { canRun with dev := [(2, some ⟨9, 0, 8, 2⟩)] })]
    loops := { up.loops with desc := [(0, { LoopDesc.unused with kind := 2 })] } }

theorem effS_sound : TablesOk effS := by constructor <;> rfl

theorem witness_RequestEffects : (let s := conS (house 0xFF);
      Served 3 (1 + (1 + 63) / 64) (house 0xFF) s ∧ readStatus s (house 0xFF) [0x0400] false = stOk ∧
      readStatus s (house 0xFF) [0x0180] false ≠ stOk ∧
      readStatus s (house 0xFF) [0x0400] (decide (60_000 < 60_000)) = stOk ∧ (house 0xFF).subs.length < 16 ∧
      subPts (house 0xFF) + 1 ≤ 8_192 ∧ allSubPts s + 1 ≤ 32_768 ∧ hasRole (house 0xFF) roView = true ∧
      numLoops s ≤ 1_024 ∧ ownsLoop s 0 1_023 = true ∧ writeStatus s 0 true [0x0400] = stOk ∧
      writeStatus s 0 false [0x0400] ≠ stOk ∧ freezeStatus s 0 true 0x0400 = stOk ∧ freezeStatus s 0 true 0 ≠ stOk) := by
  decide +kernel

theorem witness_Subscriptions : Served 3 2 (house 0) (conS (house 0)) ∧ hasRole (house 0) roView = false ∧ hasRole (house 0) 5 = false ∧
    (∃ x ∈ subC.subs, x.num = 0) ∧ Served 3 1 subC (conS subC) ∧
    (let s := queueS noteE (8_000 * tokUnit) subC;
      InSession 3 subC s ∧ subC.subs = [subN] ∧ subN.queued = some [(0x0400, ⟨7, 1⟩)] ∧ (admitOf s subC.stage).queue = [noteE] ∧
      noteE.req = .notify 0 ∧ (8 * noteE.cost + tokburst s 0) * tokUnit ≤ 8 * (filled s 0).tok) := by
  decide +kernel

theorem witness_RequestEffects_now : Ready 3 4 (house 0xFF) effS ∧ hasRole (house 0xFF) roOperate = true ∧ (fnCfg effS 0).reqpt ≠ 0 ∧
    ownerOf effS (fnCfg effS 0).reqpt = 0 ∧ (mslOf effS 4).st = .halt ∧ (mslOf effS 5).st ≠ .halt ∧
    canRight effS (house 0xFF) 0 = true ∧ (canOf effS 0).st = 4 ∧ (canOf effS 1).st ≠ 4 ∧ canRight effS (house 0) 0 = false ∧
    deviceStage effS 1 3 = some 0 ∧ devQueue effS (devKey 1 3) = [] ∧ outsideWindow effS 1 = true ∧ effS.host.devUsed < 128 ∧
    hasRole (house 0xFF) 5 = true ∧ viewRecs effS 0 ≠ [] ∧ rseqPos (oldestRec (viewRecs effS 0)) 0 = 0 ∧
    rseqPos (oldestRec (viewRecs effS 0)) (newestRec (viewRecs effS 0)) = 0 ∧
    (devQueue (acycS 250_000) (devKey 1 3)).map (fun r => (r.startAt, r.toMs)) = [(some 999_750_000, 10)] ∧
    999_750_000 + 25_000 * 10 ≤ up.now ∧ up.now < 999_750_001 + 25_000 * 10 ∧
    connOf { acycS 0 with host := { (acycS 0).host with conns := [(3, some (house 0xFF))] } } 3 = some (house 0xFF) := by
  decide +kernel

theorem witness_DevicesOnCan : Ready 3 4 (house 0xFF) devCanS ∧ natBit 0x123 30 = false ∧ deviceStage devCanS 5 9 = some 0 ∧
    devQueue devCanS (devKey 5 9) = [] ∧ (canOf devCanS 0).active = true ∧ freeBuffer devCanS 0 = some 56 ∧
    (canOf devCanS 0).fifo.length < 32 ∧ (loopDesc devCanS 0).kind = 2 ∧ (loopDesc up 0).kind ≠ 2 ∧ 0 < numLoops devCanS ∧
    ownsLoop devCanS 0 0 = true := by decide +kernel

theorem test_write_waits : (after (.write 3 1 [(0x0400, 9)]) (conS (house 0xFF))).progs.ops = [.write 3 1 0 [(0x0400, 9)]] := by
  decide +kernel

theorem test_canrecover : (canOf (after (.canrecover 3 1 0) effS) 0).st = 5 := by decide +kernel

/-! ## Transactions -/

/-- A session of stage 1, which owns block 16, its transaction as given. -/
def txS (stage : Nat) (roles : Half) (x : Option Tx) : State :=
  { hostS (conn stage roles) with
    points := { up.points with tags := [(16, ⟨false, true, 1⟩)] }
    host := { (hostS (conn stage roles)).host with
      commissioning := false, ended := [2]
      stg := [(1, ⟨0x80C0_8A00, 0, 0, 0, 0x9C40_1F40, 0x2018_0000⟩), (2, ⟨0x80C0_8A00, 0, 0, 0, 0x9C40_1F40, 0x2018_0000⟩)]
      tx := match x with
        | none => []
        | some x => [(stage, some x)] } }

def txF (es : List Entry) (sigs : List Sig) : Tx := ⟨7, es, none, sigs, 400_000_000, true⟩
def frz : Entry := .freeze 0x0400 5
def entryCost (e : Entry) : Nat := 4 + ((entryBytes e).length + 4_095) / 4_096

theorem txS_sound : TablesOk (txS 1 4 (some (txF [] []))) ∧ TablesOk (txS 0 0xFF (some (txF [.tag 16 2] []))) ∧ TablesOk (txS 2 4 none) := by
  refine ⟨?_, ?_, ?_⟩ <;> constructor <;> rfl

theorem witness_Transactions : Ready 3 4 (conn 1 4) (txS 1 4 none) ∧ hasRole (conn 1 4) roEngineer = true ∧
    txOf (txS 1 4 none) 1 = none ∧ 1 ∉ (txS 1 4 none).host.ended ∧ 2 ∈ (txS 2 4 none).host.ended ∧ Ready 3 4 (conn 2 4) (txS 2 4 none) ∧
    (txOf (txS 1 4 (some (txF [] []))) 1) = some (txF [] []) ∧ hasRole (conn 1 1) roEngineer = false ∧
    Ready 3 (entryCost (.tag 16 2)) (conn 1 4) (txS 1 4 (some (txF [] []))) ∧ houseKind (.tag 16 2) = true ∧
    stageStatus (txS 1 4 (some (txF [] []))) 1 (.freeze 0x0500 1) ≠ stOk ∧
    Ready 3 (entryCost frz) (conn 1 4) (txS 1 4 (some (txF [] []))) ∧ stageRush (txS 1 4 (some (txF [] []))) 1 = 0 ∧
    freezeStatus (txS 1 4 (some (txF [] []))) 1 true 0x0400 = stOk ∧ rushFits (txS 1 4 (some (txF [] []))) 1 8 = true ∧
    (∀ x ∈ [Entry.freeze 0x0401 5], sameTarget frz x = false) ∧ sameTarget frz (.freeze 0x0400 9) = true ∧
    (txS 1 4 (some (txF [frz] []))).upd.upd = none ∧ (txS 1 4 (some (txF [frz] []))).host.commits = [] ∧
    ownerOf (txS 1 4 (some (txF [frz] []))) 0x0400 = 1 ∧ ownerOf (txS 1 4 none) 0x0500 ≠ 1 ∧ isRelRW 0x0500 = false ∧
    (txS 0 0xFF none).host.commissioning = false ∧ signedOk (txS 0 0xFF none) (txF [.tag 16 2] []) = false ∧
    updateBars (.safepar []) = true ∧ updateBars frz = false := by decide +kernel

theorem witness_Signatures : signedOk (txS 0 0xFF none) (txF [] [⟨1, 11, 0x20, 1_000_000_000, 0⟩, ⟨2, 12, 0x40, 1_000_000_000, 0⟩]) = true ∧
    custodian (conn 0 0x20).roles = true ∧ custodian (conn 0 0x1F).roles = false ∧
    (txOf (txS 0 0x20 (some (txF [] []))) 0) = some (txF [] []) ∧ Ready 3 4 (conn 0 0x20) (txS 0 0x20 (some (txF [] []))) ∧
    Ready 3 1 (conn 1 1) (txS 1 1 (some (txF [] []))) ∧ hasRole (conn 1 1) roView = true ∧
    (txF [] []).at_ + 25_000_000 * (60 * txto (txS 1 4 none) 1) = 15_400_000_000 ∧ alarmAction (txS 0 0x20 none) 5 = 0 := by
  decide +kernel

/-- RFC 8032: a key and a first half that encode the neutral point verify with the second half 0, over any bytes; y = 2 is on no
point of the curve. -/
theorem witness_TxSign : ed25519Ok 1 (signedBytes (txDigest 0 (txF [] []))) 1 = true ∧
    ed25519Ok 1 (signedBytes (txDigest 0 (txF [] []))) 2 = false := by decide +kernel

/-- RFC 8032, 7.1, TEST 1: the public key of a private key. -/
theorem test_public_key :
    edPublic 0x607fae1c03ac3b701969327b69c54944c42cec92f44a84ba605afdef9db1619d =
      0x1a5107f7681a02af2523a6daf372e10e3a0764c9d3fe4bd5b70ab18201985ad7 := by decide +kernel

theorem witness_digest : txDigest 0 (txF [] []) + 1 ≠ txDigest 0 (txF [] []) := by
  intro h
  have h2 : (txDigest 0 (txF [] []) + 1) - txDigest 0 (txF [] []) = 0 := by rw [h]; simp
  rw [BitVec.add_comm, BitVec.add_sub_cancel] at h2
  exact absurd (congrArg (fun b => b.getLsbD 0) h2) (by simp)

/-- A transaction begun an hour ago and one begun an instant later. -/
theorem witness_TxTimeout : (let s := { txS 1 4 (some { txF [] [] with at_ := 1_000_000_000 }) with now := 16_000_000_000 };
      txto s 1 = 10 ∧ (txOf s 1).map (·.at_) = some 1_000_000_000 ∧ 1_000_000_000 + 25_000_000 * (60 * txto s 1) ≤ s.now ∧
      s.now < 1_000_000_001 + 25_000_000 * (60 * txto s 1)) := by decide +kernel

/-- R113 to R115: an image of stage 1 with one section of one instruction, END. -/
def progBody : List Byte :=
  bytesLE 4 0x4D50_4651 ++ [0, 1, 1, 0] ++ bytesLE 4 168 ++ bytesLE 4 9 ++ List.replicate 8 0 ++ bytesLE 4 1 ++
    bytesLE 2 1 ++ List.replicate 10 0 ++ bytesLE 4 128 ++ bytesLE 4 32 ++ List.replicate 56 0 ++ bytesLE 4 160 ++ bytesLE 4 4 ++
    List.replicate 16 0 ++ bytesLE 2 7 ++ [0, 0] ++ bytesLE 4 0 ++ bytesLE 4 1 ++ List.replicate 20 0 ++ bytesLE 4 0x9F00_0000
def img : List Byte := progBody ++ bytesLE 4 (crc32c progBody).toNat

/-- The library with an image of stage 1, in use or not. -/
def libS (active : Bool) : State :=
  { txS 1 4 none with
    progs := { up.progs with lib := [⟨1, 9, img, active, false, some 0, 0, 1⟩] } }

/-- Its CRC-32C in eight parts, and the register after each. -/
def imgPart (i : Nat) : List Byte := (progBody.drop (21 * i)).take 21
def crcMark (i : Nat) : Word :=
  ([0xFFFF_FFFF, 0x5589_27BD, 0x9B85_1F54, 0x6B16_DFCF, 0x9004_DDCC, 0x8370_4E73, 0x5D8D_108B, 0x495E_0918, 0x88EE_07F7] : List Word).getD i 0

theorem img_parts : ∀ i, i < 8 → (imgPart i).foldl (crcByte 0x82F6_3B78) (crcMark i) = crcMark (i + 1) := by decide +kernel

theorem img_crc : crc32c progBody = 0x7711_F808#32 := by
  have h : progBody = imgPart 0 ++ (imgPart 1 ++ (imgPart 2 ++ (imgPart 3 ++ (imgPart 4 ++ (imgPart 5 ++ (imgPart 6 ++ imgPart 7)))))) := by
    decide +kernel
  rw [crc32c, crcRefl, show BitVec.allOnes 32 = crcMark 0 from rfl, h]
  simp only [List.foldl_append, img_parts _ (by decide : 0 < 8), img_parts _ (by decide : 1 < 8), img_parts _ (by decide : 2 < 8),
    img_parts _ (by decide : 3 < 8), img_parts _ (by decide : 4 < 8), img_parts _ (by decide : 5 < 8),
    img_parts _ (by decide : 6 < 8), img_parts _ (by decide : 7 < 8)]
  rfl

theorem img_eq : img = progBody ++ bytesLE 4 (0x7711_F808#32).toNat := by rw [img, img_crc]

theorem img_trailer : trailerOk img = true := by
  have h : img.take (img.length - 4) = progBody := by rw [img_eq]; decide +kernel
  rw [trailerOk, h, img_crc, img_eq]
  decide +kernel

theorem img_group1 : group1 (txS 1 4 none) 1 img = [] := by
  have h : formatErrs img = [] := by rw [img_eq]; decide +kernel
  rw [group1, h, img_trailer, img_eq]
  decide +kernel

/-- R113, R116: IMAGEID 9, section 7 with the tool's W of 0. -/
theorem test_image : let p := readProg img
    p.imageId = 9 ∧ p.secs.map (fun d => (d.secno, d.first, d.count, d.wtool)) = [(7, 0, 1, 0)] ∧ p.code = [0x9F00_0000] := by
  rw [img_eq]
  decide +kernel

theorem witness_Library : group1 (txS 1 4 none) 1 [] ≠ [] ∧ img.length ≤ 268_435_456 ∧
    Ready 3 (4 + (img.length + 4_095) / 4_096) (conn 1 4) (libS true) ∧ (libS true).integ.nandOut = false ∧
    storageKeyOk (libS true) 1 = true ∧ (txS 1 4 none).progs.lib = [] ∧
    (∃ l ∈ (libS true).progs.lib, l.stage = 1 ∧ l.imageId = 9 ∧ l.active = true) ∧
    (∀ l ∈ (libS true).progs.lib, l.stage = 1 → l.imageId ≠ 10) ∧ (libS false).host.commits = [] ∧
    (∀ l ∈ (libS false).progs.lib, l.stage = 1 → l.imageId = 9 → l.active = false ∧ l.inForce = false) := by decide +kernel

/-- A library that holds other bytes under the image's number as the stage's active image. -/
def twoS : State := { libS true with progs := { up.progs with lib := [⟨1, 9, [], true, false, some 0, 0, 1⟩] } }

theorem witness_second_image : libWith twoS 1 img ≤ 268_435_456 ∧
    (∃ l ∈ twoS.progs.lib, l.stage = 1 ∧ l.imageId = (readProg img).imageId ∧ l.active = true ∧ l.bytes ≠ img) := by
  rw [img_eq]
  decide +kernel

/-- A part of an image that fits in the stage's store, and one that does not (R320, R322). -/
theorem witness_parts : Ready 3 (4 + (6_553_601 + 4_095) / 4_096) (conn 1 4) (txS 1 4 (some (txF [] []))) ∧
    (List.replicate 6_553_601 (0 : Byte)).length = 6_553_601 ∧
    rushFits (txS 1 4 (some (txF [] []))) 1 6_553_601 = false ∧ rushFits (txS 1 4 (some (txF [] []))) 1 6_553_600 = true :=
  ⟨by decide +kernel, List.length_replicate, by decide +kernel⟩

theorem test_part : ((txOf (after (.txstage 3 1 (.prog [1, 2]) true) (txS 1 4 (some (txF [] [])))) 1).map (fun x => x.partial_)) =
    some (some [1, 2]) := by decide +kernel

theorem test_txbegin : txOf (after (.txbegin 3 1) (txS 1 4 none)) 1 = some ⟨1, [], none, [], 1_000_000_000, true⟩ := by decide +kernel

/-! ## Time, the log and keys -/

/-- A session of stage 0 with TIME, the clock as given. -/
def rtcS (f : RtcS → RtcS) : State := { hostS (conn 0 8) with rtc := f up.rtc }

theorem witness_TimeOperations : Ready 3 4 (conn 0 8) (rtcS id) ∧ hasRole (conn 0 8) roTime = true ∧ hasRole (conn 0 7) roTime = false ∧
    ptpOwns (rtcS id) = false ∧ ptpOwns (rtcS (fun r => { r with timecfg := 1, ptpLocked := true })) = true ∧
    dateOk 2024 2 29 = true ∧ dateOk 2023 2 29 = false ∧ dateOk 2399 12 31 = true ∧ isS (rtcS id) = false ∧
    isS { rtcS id with variant := 3 } = true ∧ (rtcS id).rtc.count.toNat < 1 ∧
    30 = monthLen 2026 6 ∧ (rtcS id).rtc.count.toNat ≤ lastCount (dayNo 2026 6 30) true ∧
    pointExists (rtcS id) (bitsOf (0x0100_0000 : Word) 31 16) = true ∧ pointExists (rtcS id) (bitsOf (0x0180_0000 : Word) 31 16) = false ∧
    inCal (dayNo 2024 2 29 * 86_400 - (rtcS id).rtc.localOfs * 900) = true ∧ (0x003C_0000 : Word).getLsbD 0 = false ∧
    (0x003C_0001 : Word).getLsbD 0 = true ∧ fieldIn (0x0000_0000 : Word) 23 16 1 255 = false ∧ ptpEn (rtcS id) = false ∧
    pointExists (rtcS id) (bitsOf (0x0400_007F : Word) 31 16) = true ∧
    almBad (rtcS id) 0 0x07D0_0101 0x0100_0000 0x0400_007F = false ∧ almBad (rtcS id) 2 0 0 0 = true ∧
    zeroIn (0x003C_0000 : Word) 0xFF00_00F8 = true ∧ fieldIn (0x003C_0000 : Word) 23 16 1 255 = true := by decide +kernel

theorem witness_Clock : Running (rtcS (fun r => { r with leap := some (1, true), count := 172_799 })) ∧ up.rtc.ptpStep = none ∧
    up.rtc.leap = none ∧ (172_799#40).toNat = 1 * 86_400 + 86_399 ∧ (172_798#40).toNat = 1 * 86_400 + 86_398 ∧
    State.reset.power.mode = .down ∧ State.reset.rtc.vbatLow = false ∧ State.reset.rtc.oscStopped = false ∧
    (let s := { up with eth := { up.eth with ptpcfg := 5 }, rtc := { up.rtc with timecfg := 7, ptpGood := 15, lastSync := some 750_000_000 } };
      ptpEn s = true ∧ (0 : Nat) = s.eth.ptpcfg.toNat / 256 % 128 ∧ s.rtc.master = none ∧ ptpDisc s = true ∧ stepEn s = true ∧ s.rtc.ptpGood = 15 ∧ 750_000_000 + 250_000_000 ≤ s.now ∧
      s.now < 750_000_001 + 250_000_000) ∧ ptpEn up = false := by decide +kernel

/-- R347: the year 2000 was a leap year, so day 60 is 1 March. -/
theorem test_setcal : (after (.setcal 3 1 2000 3 1 1 2 3 0) (rtcS id)).rtc.count = 60 * 86_400 + 3_723 := by decide +kernel

/-- R348: an inserted second repeats the last count of its day. -/
theorem test_leap : let t := after .rtcIncrement (rtcS (fun r => { r with leap := some (1, true), count := 172_799 }))
    t.rtc.count = 172_799 ∧ t.rtc.repeated = true := by decide +kernel

/-- The log with a window that closes now and a record that is not archived. -/
def win1 : LogWin := ⟨1, 0x20, false, 0, 0, 10, 5, 5, 0, 0, 0, 0, 2, 0⟩
def logS (w : LogWin) : State :=
  { up with log := { up.log with wins := [w], ring := [(⟨0, 0, 0, 1, 1, false, false, false, false, 0, 0, 1, []⟩, false)], next := 1 } }

theorem witness_Log : up.log.ring.length < ringCap ∧
    (logS win1).log.wins.find? (fun w => w.owner == 1 && w.code == 0x20 && w.band == 0 && decide (w.ends ≤ up.now)) = some win1 ∧
    win1.supp = 0 ∧ (∀ w ∈ (logS { win1 with start := 1_000_000_000 }).log.wins, up.now < w.ends) ∧
    (∀ e ∈ up.log.ring, e.2 = true) ∧ (logS win1).log.archive.length < archCap := by decide +kernel

theorem test_archive : (after (.archiveCopy true) (logS win1)).log.archive.length = 1 := by decide +kernel

/-- Keys with jobs, a replacement, or a latch; a library copy of stage 0 under its key. -/
def keyS (f : KeyS → KeyS) : State :=
  { up with keys := f up.keys, progs := { up.progs with lib := [⟨0, 9, [1], true, true, some 0, 4, 1⟩] } }
def gcmJob : KeyJob := ⟨.gcm, .conn 3, none⟩
def copyJob : KeyJob := ⟨.gcm, .store 33, some (0, 4)⟩
def jobS (j : KeyJob) : State := keyS (fun k => { k with
  job := some j, qs := [gcmJob], qb := [⟨.verify, .unkeyed, none⟩], waitS := [gcmJob], repl := some ⟨33, 33, 2, 0, some 0⟩ })
def replS (staging kind : Nat) : State :=
  keyS (fun k => { k with
    slots := [(1, ⟨1, kind, 0, 1, 0, 5, 0, 0, 0⟩), (33, ⟨33, kind, 0, 0, 0, 0, 0, 0, 0⟩)]
    repl := some ⟨33, staging, kind, 0, some 0⟩ })
def dueKeys (clear : Bool) : State :=
  { keyS (fun k => { k with pol0 := if clear then 0x8001_0000 else 0x0001_0000 }) with rtc := { up.rtc with count := 86_401 } }

theorem witness_Keys : (jobS gcmJob).keys.job = some gcmJob ∧ (jobS gcmJob).keys.lastB = false ∧ gcmJob.copy = none ∧
    copyJob.copy = some (0, 4) ∧ up.keys.job = none ∧ up.keys.qs = [] ∧ up.keys.qb = [] ∧ up.keys.repl = none ∧ up.keys.todo = [] ∧
    (∀ g ∈ [1, 33], ∀ k ∈ [1, 2], (replS g k).keys.repl = some ⟨33, g, k, 0, some 0⟩ ∧ (replS g k).keys.todo = [] ∧
      (replS g k).host.swapWait = [] ∧ (replS g k).keys.kek = some 0) ∧
    (∀ b ∈ [true, false], (dueKeys b).keys.pol0.toNat / 65_536 % 16_384 = 1 ∧ (keySlot (dueKeys b) 33).kind = 2 ∧
      (keySlot (dueKeys b) 33).st = 0 ∧ (dueKeys b).keys.kek = some 0 ∧ (dueKeys b).keys.pol0.getLsbD 31 = b ∧
      stagingSlot (dueKeys b) = some 2 ∧
      (keySlot (dueKeys b) 33).created.toNat + 1 * 86_400 * 2 ^ 24 ≤ (houseTime (dueKeys b)).toNat) ∧
    (keySlot (dueKeys true) 0).kind ≠ 2 ∧ (keyS (fun k => { k with latched := 0x3F })).keys.latched.getLsbD 5 = true ∧
    up.keys.latched.getLsbD 5 = false ∧ (∀ a ∈ ([0, 1, 2] : List Nat), alarmAction (keyS (fun k => { k with sec0 := BitVec.ofNat 32 (a * 0x5550_0000) })) 0 = a) ∧
    up.log.ring.length < ringCap ∧ up.integ.cores ≠ 0 ∧
    (keyS (fun k => { k with sec0 := 0x0008_0000 })).keys.sec0.getLsbD 19 = true ∧ up.keys.sec0.getLsbD 19 = false := by
  decide +kernel

/-- FIPS 197: the substitution of 0x53 is 0xED. -/
theorem test_sbox : aesSub 0x53 = 0xED ∧ aesUnsub 0xED = 0x53 := by decide +kernel

theorem witness_Keys_sound : TablesOk (replS 1 1) ∧ TablesOk up := ⟨by constructor <;> rfl, up_sound.2⟩

/-- R379: the job of queue S ends, and the one of queue B, a verification, does not touch the register. -/
theorem test_job : let t := after .cryptoJobDone (jobS gcmJob)
    t.keys.job.map (fun j => j.kind) = some .verify ∧ t.keys.working = none ∧ t.keys.qs = [gcmJob, gcmJob] := by decide +kernel

/-- R380: under clear write a copy is under the new key once its own job is done. -/
theorem test_recopied : ((after .cryptoJobDone (jobS copyJob)).progs.lib.map (fun l => l.writes)) = [2] := by decide +kernel

/-- R384: an alarm of action 2 erases the keys. -/
theorem test_erase : let t := after .vglitch (keyS (fun k => { k with sec0 := 0xAAA0_0000 }))
    t.keys.slots = [] ∧ t.keys.locked = true := by decide +kernel

/-- The dates that R343 accepts and refuses, and the weekday and the range of R344 and R345. -/
theorem witness_CalendarConverter : dateOk 2000 2 29 = true ∧ dateOk 2399 12 31 = true ∧ dateOk 2100 2 29 = false ∧
    dateOk 2023 2 29 = false ∧ dayNo 2399 12 31 = 146_096 ∧ 146_097 * daySecs = calEnd ∧ (1 ≤ monthLen 2000 2) := by decide

/-! ## Firmware update, integrity and recovery -/

/-- A firmware image of kind 1 with one block: four bytes FF and zeros, whose CRC register is 0 from the fourth byte on. -/
def fwHead : List Byte :=
  bytesLE 4 0x4D49_4651 ++ bytesLE 2 0x0100 ++ [1, 0] ++ List.replicate 12 0 ++ bytesLE 4 1 ++ bytesLE 4 0 ++
    (List.replicate 5 (bytesLE 4 0xFFFF_0000)).flatten ++ List.replicate 208 0
def zeros4092 : List Byte := List.replicate 4_092 0
def ones4 : List Byte := [0xFF, 0xFF, 0xFF, 0xFF]
def fw : List Byte := fwHead ++ (ones4 ++ (zeros4092 ++ (ones4 ++ zeros4092)))

theorem natLE_zeros : ∀ n, natLE (List.replicate n 0) = 0
  | 0 => rfl
  | n + 1 => by rw [List.replicate_succ, natLE, natLE_zeros n]; rfl

theorem crc_zeros : ∀ n, (List.replicate n (0 : Byte)).foldl (crcByte 0x82F6_3B78) 0 = 0
  | 0 => rfl
  | n + 1 => by rw [List.replicate_succ, List.foldl_cons, show crcByte 0x82F6_3B78 0 0 = 0 by decide, crc_zeros n]

theorem fwHead_length : fwHead.length = 256 := by decide +kernel

theorem zeros4092_length : zeros4092.length = 4_092 := List.length_replicate

theorem fw_head (a n : Nat) (h : a + n ≤ 256) : getLE fw a n = getLE fwHead a n := by
  rw [getLE, getLE, fw, List.drop_append_of_le_length (by rw [fwHead_length]; omega),
    List.take_append_of_le_length (by rw [List.length_drop, fwHead_length]; omega)]

theorem fw_nblk : imgNblk fw = 1 := by rw [imgNblk, fw_head 0x14 4 (by decide)]; decide +kernel

theorem fw_format : imgFormatOk 1 fw = true := by
  have ht : getLE fw 0x104 4_092 = 0 := by
    rw [getLE, fw, show (0x104 : Nat) = fwHead.length + 4 by rw [fwHead_length], List.drop_append,
      List.drop_eq_nil_of_le (Nat.le_add_right _ _), Nat.add_sub_cancel_left, List.nil_append]
    rw [show (ones4 ++ (zeros4092 ++ (ones4 ++ zeros4092))).drop 4 = zeros4092 ++ (ones4 ++ zeros4092) from rfl,
      List.take_append_of_le_length (Nat.le_of_eq (by rw [zeros4092, List.length_replicate])), zeros4092, List.take_replicate]
    exact natLE_zeros _
  have hl : fw.length = 8_448 := by
    simp only [fw, List.length_append, fwHead_length, zeros4092_length]; rfl
  rw [imgFormatOk, fw_nblk]
  have ha : imgAccepts fw = imgAccepts fwHead := by
    rw [imgAccepts, imgAccepts]
    refine List.map_congr_left ?_
    intro i hi
    rw [fw_head _ _ (by have := List.mem_range.1 hi; omega), fw_head _ _ (by have := List.mem_range.1 hi; omega)]
  rw [hl, ha, zeroBytes, zeroBytes, show (0x100 + 4 * 1) = 0x104 from rfl, show imgTable 1 - 4 * 1 = 4_092 by decide, ht]
  rw [fw_head 0 4 (by decide), fw_head 4 2 (by decide), fw_head 6 1 (by decide), fw_head 7 1 (by decide), fw_head 0x0E 2 (by decide),
    fw_head 0x60 96 (by decide)]
  decide +kernel

theorem fw_block : imgBlockOk fw 0 = true := by
  have hb : (fw.drop (imgBody 1 + 4_096 * 0)).take 4_096 = ones4 ++ zeros4092 := by
    rw [show imgBody 1 + 4_096 * 0 = (fwHead ++ (ones4 ++ zeros4092)).length by
        simp only [List.length_append, fwHead_length, zeros4092_length]; rfl,
      show fw = (fwHead ++ (ones4 ++ zeros4092)) ++ (ones4 ++ zeros4092) by
        simp only [fw, List.append_assoc], List.drop_left]
    exact List.take_of_length_le (by rw [List.length_append, zeros4092_length]; decide)
  have hc : crc32c (ones4 ++ zeros4092) = 0xFFFF_FFFF := by
    rw [crc32c, crcRefl, List.foldl_append, show ones4.foldl (crcByte 0x82F6_3B78) (BitVec.allOnes 32) = 0 by decide +kernel, zeros4092, crc_zeros]
    decide
  have hg : getLE fw (0x100 + 4 * 0) 4 = 0xFFFF_FFFF := by
    rw [getLE, fw, show (0x100 + 4 * 0) = fwHead.length from fwHead_length.symm, List.drop_left]
    decide +kernel
  rw [imgBlockOk, fw_nblk, hb, hc, hg]
  decide

theorem fw_check (s : State) (hf : s.upd.floor = []) : imgCheck s 1 fw true true = 0 := by
  rw [imgCheck, show floorOf s 1 = 0 by rw [floorOf, hf]; rfl, fw_format, fw_nblk, show List.range 1 = [0] from rfl]
  simp only [List.all_cons, List.all_nil, fw_block, fw_head 0x10 4 (by decide)]
  decide +kernel
/-- A session of stage 0 with UPDATE, and what the update state holds. -/
def updS (f : UpdS → UpdS) : State := { hostS (conn 0 0x10) with upd := f up.upd }

/-- A step of kind `k` in progress. -/
def step1 (k : Nat) (activated : Bool) : Upd :=
  { mask := BitVec.ofNat 6 (2 ^ (k - 1)), steps := [], doneSteps := [], cur := some k, activated := activated, activatedAt := 750_000_000
    autoconf := true, proofwin := 10, checked := true, spoilt := false, rollback := false, code := 0, bursts := 256, takes := 200
    cn := 3, startSet := [], failed := 0 }
def stepS (u : Upd) : State := updS (fun x => { x with upd := some u })

theorem updS_sound : TablesOk (updS id) := by constructor <;> rfl

theorem witness_UpdateRows : Ready 3 4 (conn 0 0x10) (updS id) ∧ MayUpdate (conn 0 0x10) (updS id) ∧ ¬ MayUpdate (conn 0 0x0F) (hostS (conn 0 0x0F)) ∧
    (updS id).upd.upd = none ∧ (stepS (step1 6 true)).upd.upd = some (step1 6 true) ∧ (step1 6 true).checked = true ∧
    6 ∈ maskKinds (step1 6 true).mask ∧ (step1 6 false).doneSteps = [] ∧ (updS id).log.archive.length ≤ 2_048 * 0 ∧
    PartFits 1 0 [1, 2] [1, 2] (updS id) ∧ (List.range (imgArrived [1, 2])).all (imgBlockOk [1, 2]) = true ∧
    (updS (fun x => { x with load := some (1, 2) })).upd.load = some (1, 2) ∧ (0x0000_0301#32) &&& 0x000F_F8C0 = 0 ∧
    (0x01E0_0001#32).toNat / 1_048_576 = 30 ∧ (0xE100_0001#32).toNat / 1_048_576 = 3_600 ∧ (startErr (updS id) 0x0000_0301).1 = 0x0F06 ∧
    1 ∈ maskKinds ((0x0000_0301#32).setWidth 6) ∧ bankOk (updS id) 1 (!inB (updS id) 1) = false ∧ bankOk (updS id) 1 false = true ∧
    (startErr (updS (fun x => { x with bank := [(2, Bank.factory), (3, Bank.factory)] })) 0x0000_0301).1 = 0 ∧
    proofMet (updS id) { step1 1 true with checked := true } 1 = true ∧
    proofMet (updS id) { step1 1 true with bursts := 255 } 1 = false ∧
    (step1 1 true).activatedAt + 250_000_000 ≤ (updS id).now ∧ (step1 6 true).activatedAt + 25_000_000 * (step1 6 true).proofwin ≤ (updS id).now := by
  decide +kernel

/-- The last part of an image that is checked whole, and one that is too long. -/
theorem witness_UpdloadLast : PartFits 1 0 fw fw (updS id) ∧ fw.length ≤ bankSize 1 ∧
    (List.range (imgArrived fw)).all (imgBlockOk fw) = true ∧ imgCheck (updS id) 1 fw true true = 0 ∧
    imgCheck (updS id) 1 fw true false = 3 ∧ bankSize 1 < (List.replicate (4 * 1_048_576 + 1) (0 : Byte)).length := by
  have hl : fw.length = 8_448 := by simp only [fw, List.length_append, fwHead_length, zeros4092_length]; rfl
  refine ⟨⟨by decide, by decide, rfl, rfl, Or.inl rfl, rfl⟩, by rw [hl]; decide, ?_, fw_check _ rfl, ?_, by rw [List.length_replicate]; decide⟩
  · rw [imgArrived, fw_nblk, hl]
    rw [show (if 8_448 < imgBody 1 then 0 else min 1 ((8_448 - imgBody 1) / 4_096)) = 1 by decide, show List.range 1 = [0] from rfl]
    simp only [List.all_cons, List.all_nil, fw_block, Bool.and_self]
  · rw [imgCheck, fw_format, fw_nblk, show List.range 1 = [0] from rfl]
    simp only [List.all_cons, List.all_nil, fw_block]
    rfl

/-- An image whose block does not match its CRC. -/
def fwBad : List Byte := fwHead ++ (List.replicate 4 0 ++ (zeros4092 ++ (ones4 ++ zeros4092)))

theorem fwBad_nblk : imgNblk fwBad = 1 := by
  rw [imgNblk, getLE, fwBad, List.drop_append_of_le_length (by rw [fwHead_length]; decide),
    List.take_append_of_le_length (by rw [List.length_drop, fwHead_length]; decide)]
  decide +kernel

theorem witness_UpdloadBadBlock : PartFits 1 0 fwBad fwBad (updS id) ∧ fwBad.length ≤ bankSize 1 ∧
    (List.range (imgArrived fwBad)).all (imgBlockOk fwBad) = false := by
  have hl : fwBad.length = 8_448 := by simp only [fwBad, List.length_append, fwHead_length, zeros4092_length]; rfl
  have hb : (fwBad.drop (imgBody 1 + 4_096 * 0)).take 4_096 = ones4 ++ zeros4092 := by
    rw [show imgBody 1 + 4_096 * 0 = (fwHead ++ (List.replicate 4 0 ++ zeros4092)).length by
        simp only [List.length_append, fwHead_length, zeros4092_length]; rfl,
      show fwBad = (fwHead ++ (List.replicate 4 0 ++ zeros4092)) ++ (ones4 ++ zeros4092) by
        simp only [fwBad, List.append_assoc], List.drop_left]
    exact List.take_of_length_le (by rw [List.length_append, zeros4092_length]; decide)
  have hc : crc32c (ones4 ++ zeros4092) = 0xFFFF_FFFF := by
    rw [crc32c, crcRefl, List.foldl_append, show ones4.foldl (crcByte 0x82F6_3B78) (BitVec.allOnes 32) = 0 by decide +kernel, zeros4092, crc_zeros]
    decide
  have hg : getLE fwBad (0x100 + 4 * 0) 4 = 0 := by
    rw [getLE, fwBad, show (0x100 + 4 * 0) = fwHead.length from fwHead_length.symm, List.drop_left]
    decide +kernel
  have hk : imgBlockOk fwBad 0 = false := by rw [imgBlockOk, fwBad_nblk, hb, hc, hg]; decide
  refine ⟨⟨by decide, by decide, rfl, rfl, Or.inl rfl, rfl⟩, by rw [hl]; decide, ?_⟩
  rw [imgArrived, fwBad_nblk, hl, show (if 8_448 < imgBody 1 then 0 else min 1 ((8_448 - imgBody 1) / 4_096)) = 1 by decide,
    show List.range 1 = [0] from rfl]
  simp only [List.all_cons, List.all_nil, hk, Bool.and_true]

/-- R397: kind 1 commits after its 256 bursts: bank B is in service. -/
theorem test_step_commits : inB (after (.updateStepProven true) (stepS (step1 1 true))) 1 = true := by decide +kernel

/-- Integrity: a part of its state changed. -/
def intS (f : IntegS → IntegS) : State := { up with integ := f up.integ }

theorem witness_IntegrityRows : PointsOk up.points ∧ TablesOk up ∧ inServicePair up 8 = true ∧ runOf up 8 = none ∧ inServicePair { up with eng := { up.eng with inService := 0x0FF } } 8 = false ∧
    up.integ.rotFailN = false ∧ (intS (fun x => { x with rotFailN := true })).integ.rotFailN = true ∧
    3 ≤ Table.get 0 (intS (fun x => { x with marginal := [(8, 2)] })).integ.marginal 8 + 1 ∧ pairsIn up = 9 ∧
    up.integ.rowHist = [] ∧ (intS (fun x => { x with rowHist := [(5, 6, 4)], rowSpare := 42 })).integ.rowHist = [(5, 6, up.now / 250_000_000)] ∧
    (loopRt up 3).saved = none ∧ (keySlot up 0).kind ≠ 0 ∧ up.integ.cores = 0xF ∧ (intS (fun x => { x with cores := 0 })).integ.cores = 0 ∧
    (intS (fun x => { x with cores := 3 })).integ.cores = (if up.integ.spareActive then 0xC else 0x3) ∧
    (intS (fun x => { x with cores := 0xC, spareActive := true })).integ.cores = 0xC ∧ 15 * 65_536 ≤ (0x000F_0000#32).toInt ∧
    (0x000E_FFFF#32).toInt < 15 * 65_536 ∧ up.integ.nandFree = 3_359 + 1 ∧ (intS (fun x => { x with nandFree := 1 })).integ.nandFree = 0 + 1 :=
  ⟨up_sound.1, up_sound.2, by decide⟩

/-- R415: a mismatch of the active pair hands over to the spare. -/
theorem test_core_mismatch : (after .coreLockstepMismatch up).integ.spareActive = true := by decide +kernel

/-- The ROM's recovery with a session of host 4 in which kind 1 is being loaded into bank B, or is loaded. -/
def recS (sess : Option RecSess) : State :=
  { State.reset with
    now := 2_000_000_000
    power := { State.reset.power with mode := .recovery }
    upd := { State.reset.upd with sess := sess } }
def sess4 (off total : Nat) : RecSess := ⟨4, 500_000_001, 1, true, total, off, []⟩
def loaded4 : RecSess := ⟨4, 1_999_999_999, 0, true, 0, 0, [(1, true)]⟩

theorem recS_sound : TablesOk (recS none) ∧ TablesOk (recS (some loaded4)) := by
  constructor <;> constructor <;> rfl

theorem witness_RecoveryRows : (recS none).power.mode = .recovery ∧ up.power.mode ≠ .recovery ∧ (recS none).upd.sess = none ∧
    (recS (some (sess4 0 2))).upd.sess = some (sess4 0 2) ∧ (sess4 0 2).host ≠ 5 ∧ (recS none).now < (sess4 0 2).lastSeen + 1_500_000_000 ∧
    ({ sess4 0 2 with lastSeen := 500_000_000 } : RecSess).lastSeen + 1_500_000_000 ≤ (recS none).now ∧
    bankSize 1 < 4_194_305 ∧ 4_194_304 ≤ bankSize 1 ∧ (recS none).integ.nandOut = false ∧
    bankOk (recS none) 1 false = true ∧ bankOk (recS none) 1 true = false ∧ (sess4 0 2).offset + 2 ≤ (sess4 0 2).total ∧
    (sess4 2 2).offset = (sess4 2 2).total ∧ (sess4 0 2).kind ≠ 0 ∧ imgCheck (recS none) 1 [1, 2] true true = 1 ∧
    maskKinds 1 = [1] ∧ loaded4.loaded = [(1, true)] ∧ (∃ k ∈ maskKinds 2, ∀ e ∈ loaded4.loaded, e.1 ≠ k) ∧
    validFit (recS (some loaded4)) (fun x => if x = 1 then true else inB (recS (some loaded4)) x) = true := by decide +kernel

/-- The length at which a load of this image ends. -/
theorem witness_RecoveryEnd : imgCheck (recS none) 1 fw true true = 0 := fw_check _ rfl

theorem test_recovery_activate : (after (.recoveryActivate 4 1 1) (recS (some loaded4))).upd.restartAt = some 2_002_500_000 := by decide +kernel

/-! ## Power and registers -/

/-- The power inputs changed. -/
def powS (f : PowerS → PowerS) : State := { up with power := f up.power }
def facts : BootFacts := ⟨false, [9_175], 0, 0, 0, true, true, true, 0x3F, 0x3F, 0x3F, 0x3F, 0⟩

theorem witness_PowerRows : up.power.mode ≠ .down ∧ up.power.dip = none ∧ (17_999#32).toNat < 18_000 ∧ up.power.lastDipEnd = none ∧
    (powS (fun x => { x with dip := some (999_750_000, 250_000) })).power.dip = some (999_750_000, 250_000) ∧
    999_750_000 + 250_000 ≤ up.now ∧ up.now < 999_750_001 + 250_000 ∧ 18_500 ≤ (18_500#32).toNat ∧
    State.reset.power.mode = .down ∧ up.upd.bootCnt = 0 ∧
    (let s := { up with upd := { up.upd with bootCnt := 1, restartAt := some 1_000_000_000 } };
      s.upd.bootCnt ≠ 0 ∧ s.power.goodAt + 250_000_000 ≤ s.now ∧ s.upd.restartAt = some s.now) ∧
    up.upd.restartAt = none ∧ State.reset.integ.cfgBad = [] ∧ Bootable facts State.reset ∧
    Bootable { facts with corePairAOk := false, corePairBOk := false } State.reset ∧
    (∀ c ∈ [(({ facts with recov := true } : BootFacts), State.reset, some 0),
        (facts, { State.reset with upd := { State.reset.upd with bootCnt := 3 } }, some 1),
        (facts, { State.reset with variant := 0 }, some 2), ({ facts with validA := 0x3E, validB := 0 }, State.reset, some 3),
        (facts, { State.reset with upd := { State.reset.upd with recover := true } }, some 4), (facts, State.reset, none)],
      recoveryCause c.2.1 c.1 = c.2.2) ∧
    (powS (fun x => { x with mtTpf := some 5 })).power.mtTpf = some 5 ∧ fmtChanged up = false ∧
    fmtChanged { up with upd := { up.upd with fmt4 := 1 } } = true ∧ up.power.aux = true ∧
    (powS (fun x => { x with aux := false })).power.aux = false ∧ up.power.auxOffAt = none ∧
    (powS (fun x => { x with auxOffAt := some 997_500_000 })).power.auxOffAt = some 997_500_000 ∧ 997_500_000 + 2_500_000 ≤ up.now ∧
    up.now < 997_500_001 + 2_500_000 ∧ (up.now < up.upd.bootCnt + 1_000_000_001) := by decide +kernel

/-- R430: the outputs are off once a dip has outlasted its time. -/
theorem test_power_fail : (after .powerFail (powS (fun x => { x with dip := some (999_750_000, 250_000) }))).power.cause = 2 := by
  decide +kernel

/-- A transaction of stage 0 that is open, and what SLATECFG holds with the 60 Hz slate, as a change of it. -/
def regS : State := txS 0 0x1F (some (txF [] []))
def slateE (v : Dword) : Option Entry := regEntry regS (txF [] []) .slatecfg v

theorem witness_RegisterRows : ¬ Running State.reset ∧ Running up ∧ Running regS ∧ (0x0004_0000#64).getLsbD 18 = true ∧
    (0#64).getLsbD 18 = false ∧ txOf up (regStage up .slatecfg) = none ∧ txOf regS (regStage regS .slatecfg) = some (txF [] []) ∧
    (slateE 1).isSome = true ∧ (slateE 1).map (fun e => stageStatus regS 0 e) = some stOk ∧
    (let s := { regS with variant := 3 }
     (regEntry s (txF [] []) (.stgcfg 9 0) 1).map (fun e => stageStatus s 0 e) = some stBadarg ∧ regStage s (.stgcfg 9 0) = 0) ∧
    (0x0005_0006#32 : Word) &&& 0x00FF_0000 ≠ 0 ∧ (0x0000_0006#32 : Word) &&& 0x00FF_0000 = 0 ∧ ptpEn up = false ∧
    (alarmOf up 0).en = false ∧ (0x0000_8000#64).getLsbD 15 = true ∧ rushFits regS 0 (stageRush regS 0 + 20) = true ∧ (slateE 1).map (fun e => (entryBytes e).length) = some 20 := by decide +kernel

/-- R7, R32: the write of a register that a transaction holds waits there, and the mode in force stays. -/
theorem test_register_waits : let t := after (.registerWrite .slatecfg 1) regS
    t.slate = regS.slate ∧ (txOf t 0).map (fun x => x.entries.length) = some 1 ∧
    (after (.registerWrite .slatecfg 1) up).slate = up.slate := by decide +kernel

/-- R351: a register outside a transaction takes its fields at once; its reserved bits stay 0. -/
theorem test_timecfg : (after (.registerWrite .timecfg 0xFFFF_FFFE) up).rtc.timecfg = 0x00FF_FF06 := by decide +kernel

/-! ## Ill-formed commands -/

/-- For each check of WellFormed a command at the first number that it refuses. -/
theorem test_wf_refuses : ([.addI 9 0, .sceneStart 4 0, .sceneStart 0 8, .diWireBreak 32 true, .doRearm 16, .aiShuntOpen 8, .aoDeviation 4 true, .encoderEdge 2 true true ⟨false, 9⟩,
    .discTimeout 8, .feedbackTimeout 4, .standinExpiry 8, .testPulse 4, .switchQlow 8, .outputApply 5, .mslTimeout 32, .linkDown 7,
    .rateWindow1s 2, .txDescriptorSubmit 0 4 [], .exchangeTimeout 0, .exchangeTimeout 5, .devreqTimeout 0 1, .devreqTimeout 7 1,
    .headlong 2, .ndRead 0 64, .acyc 1 256 0 [], .txTimeout 32, .read 0 1 [65536], .ping 0 65536, .loopread 0 1 [65536],
    .loopSample 2048 [], .keyRotationDue 34, .safreset 0 1 256, .registerWrite (.filt 0 8) 0, .registerWrite (.aicfg 8) 0,
    .scrub (.sramCorrected 8_360 0), .scrub (.mramLoop 1024 true)] : List Instr).all (fun i => !i.wf) = true := by decide +kernel

/-- And at the last that it accepts. -/
theorem test_wf_accepts : ([.addI 8 0, .sceneStart 3 7, .diWireBreak 31 true, .doRearm 15, .aiShuntOpen 7, .aoDeviation 3 true, .encoderEdge 1 true true ⟨false, 9⟩,
    .discTimeout 7, .feedbackTimeout 3, .standinExpiry 7, .testPulse 3, .switchQlow 7, .outputApply 4, .mslTimeout 31, .linkDown 6,
    .rateWindow1s 1, .txDescriptorSubmit 0 3 [], .exchangeTimeout 1, .exchangeTimeout 4, .devreqTimeout 1 1, .devreqTimeout 6 1,
    .headlong 1, .ndRead 0 63, .acyc 1 255 0 [], .txTimeout 31, .read 0 1 [65535], .ping 0 65535, .loopread 0 1 [65535],
    .loopSample 2047 [], .keyRotationDue 33, .safreset 0 1 255, .registerWrite (.filt 0 7) 0, .registerWrite (.aicfg 7) 0,
    .scrub (.sramCorrected 8_359 0), .scrub (.mramLoop 1023 true)] : List Instr).all (fun i => i.wf) = true := by decide +kernel

/-- R454: the status outputs with a session on SVC, while an update is in progress, in recovery, and down. -/
theorem test_status_outputs : stsvc (hostS { conn 0 1 with port := .svc }) = .on ∧ stsvc (stepS (step1 6 true)) = .flash4 ∧
    stflt (recS none) = .on ∧ stsvc (recS (some loaded4)) = .flash4 ∧ strun State.reset = .off ∧ strun up = .on := by decide +kernel

/-! ## Boundaries of the conditions -/

theorem witness_Edges_field : bitsOf (enccfg encS 0) 15 8 ≤ 20 ∧ 19 < bitsOf (enccfg encS 0) 15 8 ∧
    (let d := { up with field := { up.field with cfg := { up.field.cfg with di := [(0, 0x0000_000A)] } } }
     5 * bitsOf (dicfg d 0) 7 0 = 50) := by decide

theorem witness_Edges_safety : maskedSamples runSaf ⟨false, 0, false⟩ = 0 ∧ pairRuns disS = true ∧
    disS.saf.pulseSeen.getLsbD 0 = false ∧
    ({ disS with saf := { disS.saf with pulseSeen := 1 } } : State).saf.pulseSeen.getLsbD 0 = true ∧
    (atCycle 9 6_250 disS).now < 999_998_500 + 2_500 ∧ inDisagrees ((safSet disS).sinOf 0) (sinOf disS 0) = true ∧
    Table.get 0 disS.saf.nextTest 4 ≤ disS.saf.cycle ∧
    (let s := { disS with saf := { disS.saf with nextTest := [(4, 10)] } }; s.saf.cycle < Table.get 0 s.saf.nextTest 4) ∧
    (∀ b ∈ [true, false], (sfOf (safS [] { fnIn .run with moved := b } (fnIn .armed) (fnIn .armed)) 0).moved = b) ∧
    (1#32).getLsbD 0 = true ∧ runSaf.saf.tempBad = false ∧ (∀ e ∈ runSaf.saf.pendF, faultActs runSaf 0 e = false) ∧
    (let s := { runSaf with saf := { runSaf.saf with pendF := [(0x34, 0, 1)] } }; ∃ e ∈ s.saf.pendF, faultActs s 0 e = true) ∧
    (slotIn .run 1).lastGood + 50_000 * mslE.texp = up.now + 1 ∧ (slotIn .run 0).lastGood + 50_000 * mslE.texp = up.now := by
  decide +kernel

theorem witness_Edges_network : macLive (macS 2 upMac) 2 = true ∧ acycFits (atStep 100 up) 1 1_000 = true ∧
    ({ goodFrame 2 with fifoOverrun := true } : RxFrame).fifoOverrun = true ∧
    (let r := List.replicate 16 (⟨0x1200, true, 0, 0⟩ : RxDesc)
     16 ≤ (macOf (macS 2 { upMac with rx := r }) 2).rx.length ∧ ¬ 16 ≤ (macOf (macS 2 { upMac with rx := r.tail }) 2).rx.length) ∧
    (macOf (macS 0 { Mac.zero with wasUp := true }) 0).wasUp = true ∧ 1 ≠ (macOf (macS 0 { Mac.zero with wasUp := true }) 0).rate ∧
    (248 : Nat) + 8 = 256 ∧ (247 : Nat) + 8 < 256 := by decide +kernel

theorem witness_Edges_requests : houseKind (.reserved 0x0F []) = false ∧ pointExists (txS 1 4 none) 0x0180 = false ∧
    pointExists (rtcS id) (bitsOf (0x0180_0000 : Word) 31 16) = false ∧
    (let s := { up with eth := { up.eth with ptpcfg := 5, ipAddr := some 1 }, rtc := { up.rtc with timecfg := 7 } }
     ptpEn s = true ∧ true = !s.eth.ptpcfg.getLsbD 1 ∧ s.eth.ipAddr.isSome = true ∧ ptpDisc s = true) ∧
    (let s := { up with eth := { up.eth with ptpcfg := 5 }, rtc := { up.rtc with timecfg := 6 } }; ptpDisc s = false) ∧
    (0x0000_0006 : Word) &&& 0x00FF_0000 = 0 ∧ (0x003C_0000 : Word) &&& 0x00FF_0000 ≠ 0 ∧ (0x003C_0000 : Word).getLsbD 0 = false ∧
    (alarmOf up 0).en = false ∧ (0x8000 : Word).getLsbD 15 = true ∧ (0x7FFF : Word).getLsbD 15 = false := by decide +kernel

end Sys2Proof.Tests
end

section
/-! What an Ecmund instruction does, once for all of them: the rule by which a meaning that completes `Gives` its result, and
the rule by which a meaning that faults halts its section. -/

namespace Sys2Proof.Machine
open Sys2Proof

variable {i : Instr} {op p : Nat} {w : BitVec 24} {r : SecRun} {s : State}

/-- A meaning that answers the section with the machine state `c` and the write buffer `b` gives just these (R58, R77). -/
theorem gives_of_meaning {f : State → SecRun → Except SFault SecRun} {c : Core} {b : WBuf}
    (hi : exec i s = ecm op p w f s) (h : CanRun op w p r s)
    (hf : f s (r.atBlockEnd op) = .ok { r.atBlockEnd op with core := c, buf := b }) : Gives i op p r s c b := by
  obtain ⟨hr, hc, he, hw⟩ := h
  refine ⟨_, _, hi.trans (ecm_next hr hc he hw hf),
    ⟨runOf_putRun_same s p _, fun _ hq => runOf_putRun_ne s hq _, rfl⟩, ?_, rfl, rfl⟩
  simp [Counted, SecRun.count]

/-- A meaning on the section that answers it with the machine state `c` gives `c` with the PC on the next instruction. -/
theorem gives_onSec {g : State → SecRun → Except SFault SecRun} {c : Core}
    (hi : exec i s = ecm op p w (onSec g) s) (h : CanRun op w p r s)
    (hg : g s (r.atBlockEnd op) = .ok { r.atBlockEnd op with core := c }) : Gives i op p r s c.next r.buf := by
  rw [← SecRun.atBlockEnd_buf op r]
  exact gives_of_meaning hi h (by rw [onSec, hg]; rfl)

/-- A meaning on the machine state alone gives its result with the PC on the next instruction. -/
theorem gives_onCore {g : Core → Core} (hi : exec i s = ecm op p w (onCore g) s) (h : CanRun op w p r s) :
    Gives i op p r s (g r.core).next r.buf :=
  gives_of_meaning hi h (by rw [← SecRun.atBlockEnd_core op r, ← SecRun.atBlockEnd_buf op r]; rfl)

/-- A meaning on the section that faults halts the section (R74). -/
theorem exec_halts_onSec {g : State → SecRun → Except SFault SecRun} {e : SFault}
    (hi : exec i s = ecm op p w (onSec g) s) (h : CanRun op w p r s) (hg : g s (r.atBlockEnd op) = .error e) :
    exec i s = .next (haltSection p r e s) := by
  obtain ⟨hr, hc, he, hw⟩ := h
  exact hi.trans (ecm_fault hr hc he hw (by rw [onSec, hg]))

end Sys2Proof.Machine
end

section
/-! The flags of STW bit by bit (R59, R95), and the chain of R60. -/

namespace Sys2Proof.Machine
open Sys2Proof

variable (c : Core)

/-! ### Bits of STW -/

/-- A flag set or cleared is that bit of STW. -/
theorem Core.getLsbD_setFlag {k : Nat} (hk : k < 16) (b : Bool) (i : Nat) :
    (c.setFlag k b).stw.getLsbD i = if i = k then b else c.stw.getLsbD i := by
  have hbit : (1#16 <<< k).getLsbD i = decide (k = i) := by
    rw [← BitVec.twoPow_eq, BitVec.getLsbD_twoPow]; simp [hk]
  by_cases hi : i = k
  · subst hi; cases b <;> simp [Core.setFlag, hk]
  · cases b
    · simp only [Core.setFlag, Bool.false_eq_true, if_false, BitVec.getLsbD_and, BitVec.getLsbD_not, hbit, hi, Ne.symm hi]
      by_cases h16 : i < 16
      · simp [h16]
      · simp [BitVec.getLsbD_of_ge _ _ (Nat.le_of_not_lt h16)]
    · simp only [Core.setFlag, if_true, BitVec.getLsbD_or, hbit, Ne.symm hi, hi, decide_false, Bool.or_false, if_false]

/-- A sticky flag is set where it is told to be, and never cleared (R59). -/
theorem Core.getLsbD_stick {k : Nat} (hk : k < 16) (b : Bool) (i : Nat) :
    (c.stick k b).stw.getLsbD i = if i = k then c.stw.getLsbD k || b else c.stw.getLsbD i := by
  cases b
  · simp +contextual [Core.stick]
  · simp [Core.stick, Core.getLsbD_setFlag, hk]

/-- STW with BA set to `b` and NC cleared, bit by bit. -/
theorem getLsbD_chainStw (stw : Half) (b : Bool) (i : Nat) :
    (chainStw stw b).getLsbD i = if i = 0 then b else if i = 1 then false else stw.getLsbD i := by
  have hmask : ∀ j < 16, (0xFFFC#16).getLsbD j = decide (2 ≤ j) := by decide
  by_cases h16 : i < 16
  · match i with
    | 0 => cases b <;> simp [chainStw]
    | 1 => cases b <;> simp [chainStw]
    | i + 2 => cases b <;> simp [chainStw, hmask _ h16]
  · have : ∀ x : Half, x.getLsbD i = false := fun x => BitVec.getLsbD_of_ge _ _ (Nat.le_of_not_lt h16)
    rw [this, this, if_neg (by omega), if_neg (by omega)]

/-! ### BA and NC -/

/-- BA takes a value and NC is cleared (R60): STW alone changes. -/
theorem Core.setBa_setNc_false (b : Bool) : (c.setBa b).setNc false = { c with stw := chainStw c.stw b } := by
  have hstw : ((c.setBa b).setNc false).stw = chainStw c.stw b := by
    refine BitVec.eq_of_getLsbD_eq fun i _ => ?_
    simp (disch := decide) only [Core.setBa, Core.setNc, Core.getLsbD_setFlag, getLsbD_chainStw]
    grind
  rw [← hstw]; rfl

/-- NC cleared alone leaves BA as it stands (R88). -/
theorem Core.setNc_false : c.setNc false = { c with stw := chainStw c.stw (c.stw.getLsbD 0) } := by
  have hstw : (c.setNc false).stw = chainStw c.stw (c.stw.getLsbD 0) := by
    refine BitVec.eq_of_getLsbD_eq fun i _ => ?_
    simp (disch := decide) only [Core.setNc, Core.getLsbD_setFlag, getLsbD_chainStw]
    grind
  rw [← hstw]; rfl

/-- The chain rule of R60. -/
theorem Core.chain_eq_entered (f : Bool → Bool → Bool) (v : Bool) (q : Byte) : c.chain f v q = entered f v q c := by
  unfold Core.chain entered
  rw [Core.setBa_setNc_false, Core.setBa_setNc_false]
  rfl

end Sys2Proof.Machine
end

section
/-! The fields of an operand as numbers (R80, R83, R96, R106). -/

namespace Sys2Proof.Machine
open Sys2Proof

theorem fld_eq (w : BitVec 24) (hi lo : Nat) : fld w hi lo = w.toNat / 2 ^ lo % 2 ^ (hi - lo + 1) := by
  rw [fld, bitsOf, Nat.shiftRight_eq_div_pow]

/-- The point field of a bit operand is all that lies above [7:0]. -/
theorem fld_23_8 (w : BitVec 24) : fld w 23 8 = w.toNat / 256 := by
  have := w.isLt
  rw [fld_eq]; omega

/-- A field of one bit is that bit. -/
theorem fld_one_beq (w : BitVec 24) (k : Nat) : (fld w k k == 1) = w.getLsbD k := by
  rw [fld_eq, Nat.sub_self, BitVec.getLsbD, Nat.testBit_eq_decide_div_mod_eq]; rfl

/-- The count of a shift or rotate is [4:0] of its operand. -/
theorem fld_4_0 (w : BitVec 24) : fld w 4 0 = w.toNat % 32 := rfl

end Sys2Proof.Machine
end

section
/-! Settles the integer and bitwise instructions (R62, R94 to R96): the flags after a word result, the three kinds of rows, and
the arithmetic that ties each result of the model to the exact integer of its row. -/

namespace Sys2Proof.Machine
open Sys2Proof

/-! ### A word result enters WA (R95) -/

/-- A word result changes WA, QA and STW alone. -/
theorem Core.putAlu_eq (c : Core) (a : Alu) (q : Byte) : c.putAlu a q =
    { c with wa := a.val, qa := if a.fault then q ||| 0x80 else q, stw := (c.putAlu a q).stw } := by
  unfold Core.putAlu Core.stick
  cases a.c <;> cases a.v <;> cases a.dz <;> cases a.nan <;> rfl

/-- The flags after a word result are those of R95. -/
theorem Core.getLsbD_putAlu (c : Core) (a : Alu) (q : Byte) (i : Nat) :
    (c.putAlu a q).stw.getLsbD i = wordFlags c a.z a.n a.c a.v a.dz a.nan i := by
  unfold Core.putAlu wordFlags Core.flag
  cases a.c <;> simp (disch := decide) only [Core.getLsbD_stick, Core.getLsbD_setFlag, Option.getD] <;> grind

/-- A row holds whose instruction brings the result `alu` into WA, where the row says the same value, quality and flags. -/
theorem WordRow.holds_of_alu {x : WordRow} {q : Core → Byte} (alu : BitVec 24 → Core → Alu)
    (hx : ∀ p w s, exec (x.instr p w) s = ecm x.op p w (onCore fun c => c.putAlu (alu w c) (q c)) s)
    (hval : ∀ w c, x.val w c = (alu w c).val)
    (hqual : ∀ w c, x.qual c = if (alu w c).fault then q c ||| 0x80 else q c)
    (hflag : ∀ w c, x.flag w c = wordFlags c (alu w c).z (alu w c).n (alu w c).c (alu w c).v (alu w c).dz (alu w c).nan) :
    x.holds := by
  intro p w r s h
  refine ⟨(r.core.putAlu (alu w r.core) (q r.core)).stw, ?_, fun i _ => ?_⟩
  · have hg := gives_onCore (hx p w s) h
    rw [Core.putAlu_eq, ← hval, ← hqual] at hg
    exact hg
  · rw [Core.getLsbD_putAlu, hflag]

/-- An integer row: the result is the exact integer, cut to 32 bits, with the row's carry. -/
theorem intRow_holds {instr : Nat → BitVec 24 → Instr} {op : Nat} {f : Core → Int} {q : Core → Byte}
    {carry : Core → Option Bool} (alu : Core → Alu)
    (hx : ∀ p w s, exec (instr p w) s = ecm op p w (onCore fun c => c.putAlu (alu c) (q c)) s)
    (ha : ∀ c, alu c = { Alu.ofInt (f c) with c := carry c }) : (intRow instr op f q carry).holds :=
  WordRow.holds_of_alu (fun _ => alu) hx (fun _ c => by rw [ha]; rfl) (fun _ c => by rw [ha]; rfl)
    (fun _ c => by rw [ha]; rfl)

/-- A row of R96: the result is the word that the row says. -/
theorem bitsRow_holds {instr : Nat → BitVec 24 → Instr} {op : Nat} {f : BitVec 24 → Core → Word} {q : Core → Byte}
    (alu : BitVec 24 → Core → Alu)
    (hx : ∀ p w s, exec (instr p w) s = ecm op p w (onCore fun c => c.putAlu (alu w c) (q c)) s)
    (ha : ∀ w c, alu w c = Alu.ofWord (f w c)) : (bitsRow instr op f q).holds :=
  WordRow.holds_of_alu alu hx (fun w c => by rw [ha]; rfl) (fun w c => by rw [ha]; rfl) (fun w c => by rw [ha]; rfl)

/-- What DIV and MOD give (R62): 0 with DZ, V and FAULT where the divisor is zero, else the word `x` with V as `v` says. -/
def Alu.ofDivision (zero : Bool) (x : Word) (v : Bool) : Alu :=
  { Alu.ofWord (if zero then 0 else x) with v := zero || v, dz := zero, fault := zero }

/-- A division row. -/
theorem divRow_holds {instr : Nat → BitVec 24 → Instr} {op : Nat} {f : Int → Int → Int} {v : Core → Bool}
    (alu : Core → Alu)
    (hx : ∀ p w s, exec (instr p w) s = ecm op p w (onCore fun c => c.putAlu (alu c) (bothQual c)) s)
    (ha : ∀ c, alu c = Alu.ofDivision (decide (c.wa = 0)) (BitVec.ofInt 32 (f c.wb.toInt c.wa.toInt)) (v c)) :
    (divRow instr op f v).holds :=
  WordRow.holds_of_alu (fun _ => alu) hx
    (fun _ c => by simp [divRow, ha, Alu.ofDivision, Alu.ofWord])
    (fun _ c => by simp [divRow, ha, Alu.ofDivision])
    (fun _ c => by simp [divRow, ha, Alu.ofDivision, Alu.ofWord])

/-! ### Results as exact integers (R62) -/

/-- A word is the result of its own signed value, which fits. -/
theorem Alu.ofWord_eq_ofInt (w : Word) : Alu.ofWord w = Alu.ofInt w.toInt := by
  have hlo := BitVec.le_toInt w
  have hhi : w.toInt < 2 ^ 31 := BitVec.toInt_lt
  have hv : (decide (w.toInt < -2 ^ 31) || decide (2 ^ 31 - 1 < w.toInt)) = false := by
    rw [Bool.or_eq_false_iff, decide_eq_false_iff_not, decide_eq_false_iff_not]; omega
  rw [Alu.ofInt, hv, BitVec.ofInt_toInt]; rfl

theorem aluMin_eq_ofInt (b a : Word) : aluMin b a = Alu.ofInt (min b.toInt a.toInt) := by
  rw [aluMin, Alu.ofWord_eq_ofInt, apply_ite BitVec.toInt, Int.min_def]

theorem aluMax_eq_ofInt (b a : Word) : aluMax b a = Alu.ofInt (max b.toInt a.toInt) := by
  rw [aluMax, Alu.ofWord_eq_ofInt, apply_ite BitVec.toInt, Int.max_comm, Int.max_def]

/-- A truncated quotient of 32-bit integers does not fit where it is -2^31 / -1, and only there: its magnitude is that of the
dividend divided by that of the divisor. -/
theorem overflows_tdiv {b a : Word} (h0 : a ≠ 0) :
    overflows (b.toInt.tdiv a.toInt) = (decide (b = 0x8000_0000) && decide (a = 0xFFFF_FFFF)) := by
  have hblo := BitVec.le_toInt b
  have hbhi : b.toInt < 2 ^ 31 := BitVec.toInt_lt
  have hmin : b = 0x8000_0000 ↔ b.toInt = -2147483648 := BitVec.toInt_inj.symm
  have hneg : a = 0xFFFF_FFFF ↔ a.toInt = -1 := BitVec.toInt_inj.symm
  have hnz : a.toInt ≠ 0 := fun h => h0 (BitVec.toInt_inj.mp h)
  have habs : (b.toInt.tdiv a.toInt).natAbs = b.toInt.natAbs / a.toInt.natAbs := Int.natAbs_tdiv b.toInt a.toInt
  rw [Bool.eq_iff_iff]
  simp only [overflows, Bool.or_eq_true, Bool.and_eq_true, decide_eq_true_eq, hmin, hneg]
  obtain h | h | h : a.toInt = -1 ∨ a.toInt = 1 ∨ 2 ≤ a.toInt.natAbs := by omega
  · rw [h, Int.tdiv_neg, Int.tdiv_one]; omega
  · rw [h, Int.tdiv_one]; omega
  · have hhalf : b.toInt.natAbs / a.toInt.natAbs ≤ b.toInt.natAbs / 2 := Nat.div_le_div_left h (by decide)
    omega

theorem aluDiv_eq_ofDivision (b a : Word) : aluDiv b a = Alu.ofDivision (decide (a = 0))
    (BitVec.ofInt 32 (b.toInt.tdiv a.toInt)) (decide (b = 0x8000_0000) && decide (a = 0xFFFF_FFFF)) := by
  by_cases h0 : a = 0
  · rw [aluDiv, if_pos h0, decide_eq_true h0]; rfl
  · rw [← overflows_tdiv h0, aluDiv, if_neg h0, decide_eq_false h0]; rfl

theorem aluMod_eq_ofDivision (b a : Word) : aluMod b a = Alu.ofDivision (decide (a = 0))
    (BitVec.ofInt 32 (b.toInt.tmod a.toInt)) false := by
  by_cases h0 : a = 0
  · rw [aluMod, if_pos h0, decide_eq_true h0]; rfl
  · rw [aluMod, if_neg h0, decide_eq_false h0]; rfl

/-! ### Shifts and rotates (R96) -/

/-- A shift to the right that keeps the sign divides by a power of two toward minus infinity. -/
theorem aluSar_eq_ofWord (a : Word) (k : Nat) : aluSar a k = Alu.ofWord (BitVec.ofInt 32 (a.toInt / 2 ^ k)) := by
  rw [aluSar, BitVec.sshiftRight_eq, Int.shiftRight_eq_div_pow]; simp

theorem aluRol_eq_ofWord (a : Word) (n : Nat) :
    aluRol a (n % 32) = Alu.ofWord (a <<< (n % 32) ||| a >>> (32 - n % 32)) := by
  rw [aluRol, BitVec.rotateLeft_def, Nat.mod_mod]

/-- A shift or rotate by a count of 0 leaves WA. -/
theorem bitRows_count_zero : ∀ x ∈ bitRows, 0x54 ≤ x.op → ∀ c, x.val 0 c = c.wa := by
  simp [bitRows, bitsRow, BitVec.ushiftRight_eq_zero]

/-! ### The rows -/

theorem intRows_hold : ∀ x ∈ intRows, x.holds := by
  simp only [intRows, List.forall_mem_cons]
  exact ⟨intRow_holds (fun c => aluAdd c.wb c.wa) (fun _ _ _ => rfl) (fun _ => rfl),
    intRow_holds (fun c => aluSub c.wb c.wa) (fun _ _ _ => rfl) (fun _ => rfl),
    intRow_holds (fun c => aluMul c.wb c.wa) (fun _ _ _ => rfl) (fun _ => rfl),
    intRow_holds (fun c => aluNeg c.wa) (fun _ _ _ => rfl) (fun _ => rfl),
    intRow_holds (fun c => aluAbs c.wa) (fun _ _ _ => rfl) (fun _ => rfl),
    intRow_holds (fun c => aluMin c.wb c.wa) (fun _ _ _ => rfl) (fun c => aluMin_eq_ofInt c.wb c.wa),
    intRow_holds (fun c => aluMax c.wb c.wa) (fun _ _ _ => rfl) (fun c => aluMax_eq_ofInt c.wb c.wa),
    List.forall_mem_nil _⟩

theorem divRows_hold : ∀ x ∈ divRows, x.holds := by
  simp only [divRows, List.forall_mem_cons]
  exact ⟨divRow_holds (fun c => aluDiv c.wb c.wa) (fun _ _ _ => rfl) (fun c => aluDiv_eq_ofDivision c.wb c.wa),
    divRow_holds (fun c => aluMod c.wb c.wa) (fun _ _ _ => rfl) (fun c => aluMod_eq_ofDivision c.wb c.wa),
    List.forall_mem_nil _⟩

theorem bitRows_hold : ∀ x ∈ bitRows, x.holds := by
  simp only [bitRows, List.forall_mem_cons]
  exact ⟨bitsRow_holds (fun _ c => Alu.ofWord (c.wb &&& c.wa)) (fun _ _ _ => rfl) (fun _ _ => rfl),
    bitsRow_holds (fun _ c => Alu.ofWord (c.wb ||| c.wa)) (fun _ _ _ => rfl) (fun _ _ => rfl),
    bitsRow_holds (fun _ c => Alu.ofWord (c.wb ^^^ c.wa)) (fun _ _ _ => rfl) (fun _ _ => rfl),
    bitsRow_holds (fun _ c => Alu.ofWord (~~~c.wa)) (fun _ _ _ => rfl) (fun _ _ => rfl),
    bitsRow_holds (fun w c => aluShl c.wa (fld w 4 0)) (fun _ _ _ => rfl) (fun w _ => by rw [fld_4_0]; rfl),
    bitsRow_holds (fun w c => aluShr c.wa (fld w 4 0)) (fun _ _ _ => rfl) (fun w _ => by rw [fld_4_0]; rfl),
    bitsRow_holds (fun w c => aluSar c.wa (fld w 4 0)) (fun _ _ _ => rfl)
      (fun w c => by rw [fld_4_0]; exact aluSar_eq_ofWord c.wa _),
    bitsRow_holds (fun w c => aluRol c.wa (fld w 4 0)) (fun _ _ _ => rfl)
      (fun w c => by rw [fld_4_0]; exact aluRol_eq_ofWord c.wa _), List.forall_mem_nil _⟩

/-- Settles O7: each row of R62 and R94 to R96 by the rule of its kind, and the cycles and the count of 0 row by row. -/
theorem integerInstructions : Obligations.IntegerInstructions := by
  refine ⟨?_, by decide, bitRows_count_zero⟩
  rw [List.forall_mem_append, List.forall_mem_append]
  exact ⟨⟨intRows_hold, divRows_hold⟩, bitRows_hold⟩

end Sys2Proof.Machine
end

section
/-! Settles the bit-logic instructions (R60, R83, R84, R87): a bit operand that can be read enters the chain. -/

namespace Sys2Proof.Machine
open Sys2Proof

/-! ### Bit operands that can be read (R73, R83, R84) -/

/-- The point of a PNT or IND operand: named directly, or by its index local. -/
theorem bitPoint_eq (c : Core) {w : BitVec 24} (h1 : w.toNat % 8 ≠ 1) (h2 : w.toNat % 8 ≠ 2) (h3 : w.toNat % 8 ≠ 3) :
    (if w.toNat % 8 = 0 then fld w 23 8 else indPoint c (fld w 23 8) (fld w 1 0)) = bitPoint c w := by
  have hn : fld w 1 0 = w.toNat % 4 := rfl
  rw [fld_23_8, hn, bitPoint, indPoint]
  by_cases h0 : w.toNat % 8 = 0
  · rw [if_pos h0, if_pos (by omega)]
  · rw [if_neg h0, if_neg (by omega)]

/-- The checks of R73 pass for a point that the section may read. -/
theorem checkRead_of_readsAt {s : State} {r : SecRun} {pt : Nat} {ind : Bool} (h : ReadsAt s r pt ind) :
    checkRead s r pt ind = .ok () := by
  obtain ⟨hr, hi, hb⟩ := h
  cases ind
  · simp [checkRead, hr, hb]
  · simp [checkRead, hr, hb, hi rfl]

theorem slotFits_of_hasSlot {s : State} {r : SecRun} {ctr : Bool} {n : Nat} (h : HasSlot s r ctr n) :
    slotFits s r.stage ctr n = true := by
  cases ctr <;> exact decide_eq_true h

/-- A bit operand that can be read gives its value and its carried quality, in each form: LOC, the bits of a slot, PQB, and
PNT or IND. -/
theorem readBitOp_of_readable {s : State} {r : SecRun} {w : BitVec 24} (h : BitReadable s r w) :
    readBitOp s r w = .ok (bitValue s r w) := by
  have hm : fld w 2 0 = w.toNat % 8 := rfl
  have hb : fld w 7 3 = w.toNat / 8 % 32 := fld_eq w 7 3
  simp only [readBitOp, hm, hb]
  unfold BitReadable at h
  unfold bitValue
  by_cases h1 : w.toNat % 8 = 1
  · have hl : fld w 13 8 = w.toNat / 256 % 64 := fld_eq w 13 8
    simp only [if_pos h1, hl]
  by_cases h3 : w.toNat % 8 = 3
  · have hn : fld w 20 8 = w.toNat / 256 % 8192 := fld_eq w 20 8
    rw [if_neg h1, if_pos h3] at h
    simp only [if_neg h1, if_pos h3, hn, fld_one_beq, slotFits_of_hasSlot h, if_true]
    cases w.getLsbD 23 <;> rfl
  rw [if_neg h1, if_neg h3] at h
  simp only [if_neg h1, if_neg h3]
  by_cases h2 : w.toNat % 8 = 2
  · have hp : fld w 23 8 = bitPoint r.core w := by rw [fld_23_8, bitPoint, if_pos (by omega)]
    rw [decide_eq_false (by omega)] at h
    simp only [if_pos h2, hp, checkRead_of_readsAt h]
    rfl
  · have hind : (w.toNat % 8 != 0) = decide (4 ≤ w.toNat % 8) := by
      rw [Bool.eq_iff_iff, bne_iff_ne, decide_eq_true_eq]; omega
    simp only [if_neg h2, bitPoint_eq r.core h1 h2 h3, hind, checkRead_of_readsAt h]
    rfl

/-- The checkpoint before an instruction leaves what its operand reads. -/
theorem readBitOp_atBlockEnd (s : State) (r : SecRun) (op : Nat) (w : BitVec 24) :
    readBitOp s (r.atBlockEnd op) w = readBitOp s r w := by
  unfold SecRun.atBlockEnd; split <;> rfl

/-! ### The instructions -/

/-- A bit-logic instruction: an operand that can be read enters the chain, inverted or not (R60, R87). -/
theorem gives_bitLogic {i : Instr} {op p : Nat} {w : BitVec 24} {r : SecRun} {s : State} {f : Bool → Bool → Bool} {inv : Bool}
    (hi : exec i s = ecm op p w (bitLogic f inv w) s) (h : CanRun op w p r s) (hr : BitReadable s r w) :
    Gives i op p r s (entered f ((bitValue s r w).1 != inv) (bitValue s r w).2 r.core).next r.buf := by
  refine gives_onSec hi h ?_
  rw [readBitOp_atBlockEnd, readBitOp_of_readable hr, ← Core.chain_eq_entered, SecRun.atBlockEnd_core]

/-- BFLG reads flags 2 to 8, inverted or not; every other encoding of it is reserved (R87). -/
theorem reservedOp_bflg (w : BitVec 24) :
    reservedOp 0x1E w = false ↔ w.toNat < 32 ∧ 2 ≤ w.toNat % 16 ∧ w.toNat % 16 ≤ 8 := by
  have hw := w.isLt
  have hform : reservedOp 0x1E w = !(fld w 23 5 == 0 && decide (2 ≤ fld w 3 0) && decide (fld w 3 0 ≤ 8)) := by rfl
  simp only [hform, fld_eq, Bool.not_eq_false', Bool.and_eq_true, beq_iff_eq, decide_eq_true_eq]
  omega

/-- Settles O10: the chain by `gives_bitLogic`, and the instructions on the accumulator by their effect on STW. -/
theorem bitLogicInstructions : Obligations.BitLogicInstructions := by
  refine ⟨?_, fun p r s h => ?_, fun p r s h => ?_, fun p r s h => ?_, fun p w r s h => ?_, reservedOp_bflg, by decide⟩
  · simp only [List.forall_mem_cons]
    exact ⟨fun _ _ _ _ => gives_bitLogic rfl, fun _ _ _ _ => gives_bitLogic rfl, fun _ _ _ _ => gives_bitLogic rfl,
      fun _ _ _ _ => gives_bitLogic rfl, fun _ _ _ _ => gives_bitLogic rfl, fun _ _ _ _ => gives_bitLogic rfl,
      List.forall_mem_nil _⟩
  · have hg : Gives (.bnot p 0) 0x16 p r s _ r.buf := gives_onCore rfl h
    rwa [Core.setBa_setNc_false] at hg
  · have hg : Gives (.ba1 p 0) 0x17 p r s _ r.buf := gives_onCore rfl h
    rwa [Core.setBa_setNc_false] at hg
  · have hg : Gives (.ba0 p 0) 0x18 p r s _ r.buf := gives_onCore rfl h
    rwa [Core.setBa_setNc_false] at hg
  · have hg : Gives (.bflg p w) 0x1E p r s _ r.buf := gives_onCore rfl h
    rwa [Core.chain_eq_entered, fld_one_beq] at hg

end Sys2Proof.Machine
end

section
/-! Settles the brackets (R61, R88). -/

namespace Sys2Proof.Machine
open Sys2Proof

variable {i : Instr} {op p : Nat} {r : SecRun} {s : State}

/-- A push: below 32 entries it stores BA, BQ, NC and its code and sets NC; on a full stack it raises STK. -/
theorem push_spec {code : BitVec 2} (hi : exec i s = ecm op p 0 (pushBr code) s) (h : CanRun op 0 p r s) :
    (r.core.br.length < 32 → Gives i op p r s
      { ncSet r.core.next with br := ⟨r.core.stw.getLsbD 0, r.core.bq, r.core.stw.getLsbD 1, code⟩ :: r.core.br } r.buf) ∧
    (32 ≤ r.core.br.length → exec i s = .next (haltSection p r fSTK s)) := by
  constructor
  · intro hlen
    exact gives_onSec hi h (by rw [SecRun.atBlockEnd_core, if_neg (Nat.not_le.mpr hlen)])
  · intro hlen
    exact exec_halts_onSec hi h (by rw [SecRun.atBlockEnd_core, if_pos hlen])

/-- POPC of a bracket that opened a chain: BA and BQ stand, and NC becomes 0. -/
theorem popc_of_nc {e : BrEnt} {rest : List BrEnt} (h : CanRun 0x1D 0 p r s) (hbr : r.core.br = e :: rest)
    (hnc : e.nc = true) : Gives (.popc p 0) 0x1D p r s
      { r.core.next with br := rest, stw := chainStw r.core.stw (r.core.stw.getLsbD 0) } r.buf := by
  have hg : Gives (.popc p 0) 0x1D p r s (({ r.core with br := rest } : Core).setNc false).next r.buf :=
    gives_onSec rfl h (by simp only [SecRun.atBlockEnd_core, hbr, hnc, if_true])
  rwa [Core.setNc_false] at hg

/-- POPC of a bracket in a chain: the popped BA combines with BA under the popped code, and the qualities combine. -/
theorem popc_of_chain {e : BrEnt} {rest : List BrEnt} (h : CanRun 0x1D 0 p r s) (hbr : r.core.br = e :: rest)
    (hnc : e.nc = false) : Gives (.popc p 0) 0x1D p r s
      { r.core.next with br := rest, bq := comb e.bq r.core.bq
                         stw := chainStw r.core.stw (brApply e.op e.ba (r.core.stw.getLsbD 0)) } r.buf := by
  have hg : Gives (.popc p 0) 0x1D p r s
      ({ (({ r.core with br := rest } : Core).setBa (brApply e.op e.ba (r.core.stw.getLsbD 0))).setNc false with
          bq := comb e.bq r.core.bq } : Core).next r.buf :=
    gives_onSec rfl h (by simp only [SecRun.atBlockEnd_core, hbr, hnc]; rfl)
  rwa [Core.setBa_setNc_false] at hg

/-- POPC of an empty stack raises STK. -/
theorem popc_of_empty (h : CanRun 0x1D 0 p r s) (hbr : r.core.br = []) :
    exec (.popc p 0) s = .next (haltSection p r fSTK s) :=
  exec_halts_onSec rfl h (by simp only [SecRun.atBlockEnd_core, hbr])

/-- Settles O11: the pushes by `push_spec`, and POPC by what it pops. -/
theorem bracketInstructions : Obligations.BracketInstructions := by
  refine ⟨?_, fun p r s h => ⟨fun e rest => popc_of_nc h, fun e rest => popc_of_chain h, popc_of_empty h⟩, by decide⟩
  simp only [List.forall_mem_cons]
  exact ⟨fun _ _ _ => push_spec rfl, fun _ _ _ => push_spec rfl, fun _ _ _ => push_spec rfl, fun _ _ _ => push_spec rfl,
    List.forall_mem_nil _⟩

end Sys2Proof.Machine
end

section
/-! Settles the quality instructions (R106). -/

namespace Sys2Proof.Machine
open Sys2Proof

/-- Target 3, a mask with bit 3 set and any bit above [9:0] are reserved. -/
theorem reservedOp_qop {op : Nat} (hop : op = 0xA0 ∨ op = 0xA1) (w : BitVec 24) :
    reservedOp op w = false ↔ w.toNat < 2 ^ 10 ∧ w.toNat / 256 ≠ 3 ∧ w.getLsbD 3 = false := by
  have hw := w.isLt
  have hform : reservedOp op w = !(fld w 23 10 == 0 && decide (fld w 9 8 < 3) && !w.getLsbD 3) := by
    obtain rfl | rfl := hop <;> rfl
  simp only [hform, fld_eq, Bool.not_eq_false', Bool.and_eq_true, beq_iff_eq, decide_eq_true_eq, Bool.not_eq_true',
    ← and_assoc]
  refine and_congr_left fun _ => ?_
  omega

/-- QSET and QCLR change the quality of their target alone, which is all that lies above the mask. -/
theorem gives_onQuality {i : Instr} {op p : Nat} {w : BitVec 24} {r : SecRun} {s : State} (f : Byte → Byte)
    (hop : op = 0xA0 ∨ op = 0xA1) (hi : exec i s = ecm op p w (onCore (onQuality f w)) s) (h : CanRun op w p r s) :
    Gives i op p r s
      (if w.toNat / 256 = 0 then { r.core.next with bq := f r.core.bq }
        else if w.toNat / 256 = 1 then { r.core.next with qa := f r.core.qa }
        else { r.core.next with qb := f r.core.qb }) r.buf := by
  have ht : fld w 9 8 = w.toNat / 256 := by
    obtain ⟨-, -, he, -⟩ := h
    obtain ⟨hw, -⟩ := (reservedOp_qop hop w).mp he
    rw [fld_eq]; omega
  have hg := gives_onCore hi h
  simp only [onQuality, ht, apply_ite Core.next] at hg
  exact hg

/-- Settles O21: QSET and QCLR by `gives_onQuality`, QGET and QPUT by their effect on the accumulators. -/
theorem qualityInstructions : Obligations.QualityInstructions := by
  refine ⟨fun p w r s h => gives_onQuality (· ||| w.setWidth 8) (.inl rfl) rfl h,
    fun p w r s h => gives_onQuality (· &&& ~~~(w.setWidth 8)) (.inr rfl) rfl h,
    fun p r s h => ?_, fun p r s h => ?_, fun op hop => reservedOp_qop (by simpa using hop), by decide⟩
  · have hg : Gives (.qget p 0) 0xA2 p r s _ r.buf := gives_onCore rfl h
    exact hg
  · have hg : Gives (.qput p 0) 0xA3 p r s _ r.buf := gives_onCore rfl h
    exact hg

end Sys2Proof.Machine
end

section
/-! Settles the calendar converter (R344, R345). A day number is the start of its year, the lengths of the months before its
month, and the day within that month; `dateOf` takes these three apart again. -/

namespace Sys2Proof.Machine
open Sys2Proof

/-! ### Leap years and months -/

theorem isLeap_iff (y : Nat) : isLeap y = true ↔ 4 ∣ y ∧ (100 ∣ y → 400 ∣ y) := by
  simp only [isLeap, Bool.and_eq_true, Bool.or_eq_true, beq_iff_eq, bne_iff_ne]
  omega

theorem sum_monthLens (y : Nat) : (monthLens y).sum = if isLeap y then 366 else 365 := by
  cases h : isLeap y <;> simp [monthLens, h]

theorem monthLen_eq (y m : Nat) (h1 : 1 ≤ m) (h12 : m ≤ 12) :
    monthLen y m = if m = 2 then (if isLeap y then 29 else 28) else if m = 4 ∨ m = 6 ∨ m = 9 ∨ m = 11 then 30 else 31 := by
  match m with
  | 0 => exact absurd h1 (Nat.not_succ_le_zero 0)
  | 1 | 2 | 3 | 4 | 5 | 6 | 7 | 8 | 9 | 10 | 11 | 12 => rfl
  | _ + 13 => omega

theorem sum_take_succ_getD (l : List Nat) (i : Nat) : (l.take (i + 1)).sum = (l.take i).sum + l.getD i 0 := by
  rw [List.take_add_one, List.sum_append, List.getD_eq_getElem?_getD]
  cases l[i]? <;> simp

/-! ### Consecutive days -/

/-- A year starts when the year before it is over. -/
theorem yearStart_succ (k : Nat) : yearStart (k + 1) = yearStart k + (monthLens (2000 + k)).sum := by
  rw [sum_monthLens]
  simp only [isLeap_iff, yearStart]
  split <;> omega

/-- A day number by the years since 2000, the months before the month and the days before the day. -/
theorem dayNo_eq (k i j : Nat) :
    dayNo (2000 + k) (i + 1) (j + 1) = yearStart k + ((monthLens (2000 + k)).take i).sum + j := by
  simp [dayNo]

/-- The days of a month follow each other. -/
theorem dayNo_day_succ (y m : Nat) {d : Nat} (h : 1 ≤ d) : dayNo y m (d + 1) = dayNo y m d + 1 := by
  simp only [dayNo]
  omega

/-- The first day of the next month follows the last day of a month; after December the next month has the number 13. -/
theorem dayNo_month_succ (y : Nat) {m : Nat} (h1 : 1 ≤ m) (hd : 1 ≤ monthLen y m) :
    dayNo y (m + 1) 1 = dayNo y m (monthLen y m) + 1 := by
  obtain ⟨i, rfl⟩ := Nat.exists_eq_add_of_le' h1
  have hsum : ((monthLens y).take (i + 1)).sum = ((monthLens y).take i).sum + monthLen y (i + 1) := sum_take_succ_getD _ _
  simp only [dayNo, Nat.add_sub_cancel, hsum]
  omega

/-- A month 13 of a year is the January of the next. -/
theorem dayNo_month_thirteen {y : Nat} (h : 2000 ≤ y) : dayNo y 13 1 = dayNo (y + 1) 1 1 := by
  obtain ⟨k, rfl⟩ := Nat.exists_eq_add_of_le h
  have hall : (monthLens (2000 + k)).take 12 = monthLens (2000 + k) := List.take_of_length_le (Nat.le_refl 12)
  calc dayNo (2000 + k) 13 1
      = yearStart k + (monthLens (2000 + k)).sum := by rw [dayNo_eq k 12 0, hall, Nat.add_zero]
    _ = yearStart (k + 1) := (yearStart_succ k).symm
    _ = dayNo (2000 + (k + 1)) 1 1 := (dayNo_eq (k + 1) 0 0).symm

/-! ### The year of a day -/

/-- The years up to 2400 have at most 97 leap days before them. -/
theorem yearStart_bounds {k : Nat} (h : k ≤ 400) : 365 * k ≤ yearStart k ∧ yearStart k ≤ 365 * k + 97 := by
  simp only [yearStart]
  omega

/-- A day before the start of a year lies in one of the years before. -/
theorem exists_year_of_lt {n : Nat} :
    ∀ {K : Nat}, n < yearStart K → ∃ k < K, ∃ r < (monthLens (2000 + k)).sum, n = yearStart k + r
  | 0, h => absurd h (Nat.not_lt_zero n)
  | K + 1, h => by
    by_cases hK : n < yearStart K
    · obtain ⟨k, hk, hr⟩ := exists_year_of_lt hK
      exact ⟨k, Nat.lt_succ_of_lt hk, hr⟩
    · rw [yearStart_succ] at h
      exact ⟨K, Nat.lt_succ_self K, n - yearStart K, by omega, by omega⟩

/-- Division by 365 gives the year of a day or the year after it, as there are fewer than 365 leap days. -/
theorem year_of_div {k r : Nat} (hk : k < 400) (hr : r < (monthLens (2000 + k)).sum) :
    (if yearStart ((yearStart k + r) / 365) ≤ yearStart k + r then (yearStart k + r) / 365 else (yearStart k + r) / 365 - 1)
      = k := by
  have hend := yearStart_succ k
  obtain ⟨hlo, -⟩ := yearStart_bounds (Nat.le_of_lt hk)
  obtain ⟨-, hhi⟩ := yearStart_bounds (k := k + 1) hk
  obtain hq | hq : (yearStart k + r) / 365 = k ∨ (yearStart k + r) / 365 = k + 1 := by omega
  · rw [hq, if_pos (Nat.le_add_right _ _)]
  · rw [hq, if_neg (by omega), Nat.add_sub_cancel]

/-! ### The month of a day of the year -/

/-- A day of the year lies in one of the months. -/
theorem exists_month_of_lt : ∀ {l : List Nat} {r : Nat}, r < l.sum → ∃ i < l.length, ∃ j < l.getD i 0, r = (l.take i).sum + j
  | [], _, h => absurd h (Nat.not_lt_zero _)
  | n :: t, r, h => by
    by_cases hr : r < n
    · exact ⟨0, Nat.succ_pos _, r, hr, (Nat.zero_add r).symm⟩
    · rw [List.sum_cons] at h
      obtain ⟨i, hi, j, hj, hrj⟩ := exists_month_of_lt (l := t) (r := r - n) (by omega)
      exact ⟨i + 1, Nat.succ_lt_succ hi, j, hj, by rw [List.take_succ_cons, List.sum_cons]; omega⟩

/-- `splitMonth` steps over the months before the day's own. -/
theorem splitMonth_sum_take : ∀ (l : List Nat) (m i : Nat) {j : Nat}, j < l.getD i 0 →
    splitMonth l m ((l.take i).sum + j) = (m + i, j + 1)
  | [], _, _, _, h => absurd h (Nat.not_lt_zero _)
  | n :: t, m, 0, j, h => by
    have hj : j < n := h
    simp [splitMonth, hj]
  | n :: t, m, i + 1, j, h => by
    have hge : ¬ n + (t.take i).sum + j < n := by omega
    have hsub : n + (t.take i).sum + j - n = (t.take i).sum + j := by omega
    rw [List.take_succ_cons, List.sum_cons, splitMonth, if_neg hge, hsub, splitMonth_sum_take t (m + 1) i h,
      Nat.add_right_comm m 1 i, Nat.add_assoc m i 1]

/-- The days before a month and those before a day of it are less than the year. -/
theorem sum_take_add_lt_sum {l : List Nat} {i j : Nat} (hj : j < l.getD i 0) : (l.take i).sum + j < l.sum := by
  have hstep := sum_take_succ_getD l i
  have hsplit : (l.take (i + 1)).sum + (l.drop (i + 1)).sum = l.sum := by rw [← List.sum_append, List.take_append_drop]
  omega

/-! ### Dates and days -/

/-- The dates of the converter's range, counted from 0 in each part. -/
theorem dateOk_iff (y m d : Nat) : dateOk y m d = true ↔
    ∃ k < 400, ∃ i < 12, ∃ j < (monthLens (2000 + k)).getD i 0, (y, m, d) = (2000 + k, i + 1, j + 1) := by
  simp only [dateOk, Bool.and_eq_true, decide_eq_true_eq, Prod.mk.injEq]
  constructor
  · rintro ⟨⟨⟨⟨⟨hy, hy'⟩, hm⟩, hm'⟩, hd⟩, hd'⟩
    obtain ⟨k, rfl⟩ := Nat.exists_eq_add_of_le hy
    obtain ⟨i, rfl⟩ := Nat.exists_eq_add_of_le' hm
    obtain ⟨j, rfl⟩ := Nat.exists_eq_add_of_le' hd
    exact ⟨k, by omega, i, by omega, j, hd', rfl, rfl, rfl⟩
  · rintro ⟨k, hk, i, hi, j, hj, rfl, rfl, rfl⟩
    have hd : j + 1 ≤ monthLen (2000 + k) (i + 1) := hj
    exact ⟨⟨⟨⟨⟨by omega, by omega⟩, by omega⟩, by omega⟩, by omega⟩, hd⟩

/-- `dateOf` takes a day number apart into its year, month and day. -/
theorem dateOf_eq {k i j : Nat} (hk : k < 400) (hj : j < (monthLens (2000 + k)).getD i 0) :
    dateOf (yearStart k + ((monthLens (2000 + k)).take i).sum + j) = (2000 + k, i + 1, j + 1) := by
  rw [Nat.add_assoc, dateOf, year_of_div hk (sum_take_add_lt_sum hj), Nat.add_sub_cancel_left, splitMonth_sum_take _ _ _ hj,
    Nat.add_comm 1 i]

theorem yearStart_end : yearStart 400 = 146_097 := by decide

/-- The day number of a date lies in the range and leads back to the date. -/
theorem dateOf_dayNo {y m d : Nat} (h : dateOk y m d = true) : dayNo y m d < 146_097 ∧ dateOf (dayNo y m d) = (y, m, d) := by
  obtain ⟨k, hk, i, -, j, hj, hdate⟩ := (dateOk_iff y m d).mp h
  simp only [Prod.mk.injEq] at hdate
  obtain ⟨rfl, rfl, rfl⟩ := hdate
  rw [dayNo_eq]
  refine ⟨?_, dateOf_eq hk hj⟩
  have hlt := sum_take_add_lt_sum hj
  obtain ⟨-, hend⟩ := yearStart_bounds (k := k + 1) hk
  rw [yearStart_succ] at hend
  omega

/-- The date of a day of the range exists and leads back to the day. -/
theorem dayNo_dateOf {n : Nat} (h : n < 146_097) : dateOk (dateOf n).1 (dateOf n).2.1 (dateOf n).2.2 = true ∧
    dayNo (dateOf n).1 (dateOf n).2.1 (dateOf n).2.2 = n := by
  rw [← yearStart_end] at h
  obtain ⟨k, hk, r, hr, rfl⟩ := exists_year_of_lt h
  obtain ⟨i, hi, j, hj, rfl⟩ := exists_month_of_lt hr
  rw [← Nat.add_assoc, dateOf_eq hk hj]
  exact ⟨(dateOk_iff _ _ _).mpr ⟨k, hk, i, hi, j, hj, rfl⟩, dayNo_eq k i j⟩

/-- Settles O53: the days by `dayNo_day_succ`, `dayNo_month_succ` and `dayNo_month_thirteen`, the inverse by `dateOf_eq`. -/
theorem calendarConverter : Obligations.CalendarConverter := by
  refine ⟨isLeap_iff, by decide, monthLen_eq, ⟨rfl, rfl, fun n => ?_⟩, fun y m d hy hm _ hd hdm => ⟨?_, ?_, ?_⟩,
    fun y m d => dateOf_dayNo, fun n => dayNo_dateOf⟩
  · simp only [weekday]
    omega
  · exact fun _ => dayNo_day_succ y m hd
  · rintro rfl -
    exact dayNo_month_succ y hm hd
  · rintro rfl rfl
    rw [← dayNo_month_thirteen hy]
    exact dayNo_month_succ y hm hd

end Sys2Proof.Machine
end
